-- ==== Sys2Proof/Word.lean ====
section
/-! DEFINITION. The words of the device: bytes, registers, and the plainest arithmetic on them (R6: every multi-byte
field is little-endian). -/

namespace Sys2Proof

/-- One byte of memory or of a frame. -/
abbrev Byte := BitVec 8

/-- One 32-bit register. -/
abbrev Word := BitVec 32

/-- A 64-bit quantity: the device nanosecond counter, an address pair of registers, a unique identifier. -/
abbrev DWord := BitVec 64

end Sys2Proof
end

