-- ==== Sys2Proof/Syntax.lean ====
section
/-! DEFINITION. The commands of the TRK-9632: one constructor of `Instr` for each row of spec/opcode_table.json.
The table gives a row no operands; an operand here is what the rule of the row leaves to the sender (which unit, the value
written, what arrived, what was measured). -/

namespace Sys2Proof

/-- Who makes a register access (R313, R44): the PF through its BAR0, VF v + 1 through its own BAR0, or the Chapter House. -/
inductive Agent where
  | pf
  | vf (v : Fin 16)
  | chf
  deriving DecidableEq, Repr

/-- One complex sample of 16-bit two's complement I and Q (R78). -/
structure IQ where
  i : BitVec 16
  q : BitVec 16
  deriving DecidableEq, Repr

/-- One element of a channel grid: real and imaginary BF16 (R158). -/
structure GridEl where
  re : BitVec 16
  im : BitVec 16
  deriving DecidableEq, Repr

/-- What one preamble of an occasion measured (R103, Table RFI-1). -/
structure Peak where
  preamble : Fin 64
  pnr      : BitVec 16
  ta       : Word
  fofs     : BitVec 16
  deriving DecidableEq, Repr

/-- What a task image says of its own needs. The manual gives an image no layout (R144, R205, R317); the sender brings what
the Cloister runtime firmware reads from it. -/
structure TaskImage where
  channels : Nat
  pairs    : Nat
  lists    : List DWord
  digest   : List Byte
  deriving DecidableEq, Repr

/-- What one admitted entry of a step produced (R304, R306): a status code of Table SCP-3, the output rows and, layer by layer,
the records of its new tokens. -/
structure EntryOut where
  status  : Fin 12
  rows    : List Byte
  records : List (List Byte)
  deriving DecidableEq, Repr

/-- One completion of a host read (R274): the bytes, an error completion, or a poisoned completion. -/
inductive HostRead where
  | data (bytes : List Byte)
  | error
  | poisoned
  deriving DecidableEq, Repr

/-- Where a corrected or uncorrectable error lies in the tile (R212). -/
inductive TilePart where
  | halfA | halfB | acc
  deriving DecidableEq, Repr

/-- The memory attribute of an access (R222, R260). -/
inductive CacheAttr where
  | alloc | noalloc
  deriving DecidableEq, Repr

/-- A unit kind of Table HST-5 with 7 and 8 of R480, and an index. -/
structure UnitRef where
  kind  : Fin 16
  index : Fin 32
  deriving DecidableEq, Repr

/-- A record of a neighbour set (ADJ, Table SPK-4). -/
structure AdjRec where
  uid   : DWord
  gen   : Word
  neigh : List DWord
  deriving DecidableEq, Repr

/-- The twin partner's side of TWIN_HELLO (Table DET-5). -/
structure TwinHello where
  strap     : Bool
  primary   : Bool
  glbId     : Word
  tiles     : BitVec 6
  chf       : Word
  crf       : Word
  slf       : Word
  normal    : Bool
  overridden : Bool
  uid       : DWord
  node      : Byte
  deriving DecidableEq, Repr

/-- One stage entry of a compare record (Table DET-6). -/
structure StageEntry where
  kind   : Byte
  index  : Byte
  digest : List Byte
  deriving DecidableEq, Repr

/-- A compare record (Table DET-6). -/
structure CompareRec where
  key    : DWord
  status : Fin 12
  result : List Byte
  stages : List StageEntry
  deriving DecidableEq, Repr

/-- A spoke message: head flit and payload (Table SPK-2). -/
structure SpkMsg where
  dst    : Byte
  src    : Byte
  cls    : Fin 4
  plane  : Fin 3
  collId : Word
  msg    : Word
  offset : Word
  check  : DWord
  data   : List Byte
  deriving DecidableEq, Repr

/-- One command of the block, one constructor for each row of the table. -/
inductive Instr where
  -- resets and pins (R463, R532, R536, R537, R517)
  | porstNAssert
  | pgFall (pg : Fin 4)
  | porstNRelease (bootSrc profile : Fin 4) (twinEn : Bool)
  | sysrstN
  | perstN
  | perstNRelease
  | pfFlr
  | hotReset
  | pcieLinkDown
  | pcieLinkUp
  | thermtripN (sensor : Fin 24)
  | startDecision
  -- Belfry
  | todSnapshot (a : Agent)
  | dncSnapshot (a : Agent)
  | freqAdjWrite (a : Agent) (v : Word)
  | timeSetGo (a : Agent) (v : Word)
  | ofsGo (a : Agent) (v : Word)
  | cancel (a : Agent) (v : Word)
  | timeSetApply
  | timeOffsetApply
  | timeCancelApply
  | sgEnable (a : Agent) (g : Fin 4) (v : Word)
  | sgDisable (a : Agent) (g : Fin 4) (v : Word)
  | sgStop (g : Fin 4)
  | slotStrobe (g : Fin 4)
  | symbolStrobe (g : Fin 4)
  | cmpArm (a : Agent) (c : Fin 16) (v : Word)
  | cmpDisarm (a : Agent) (c : Fin 16) (v : Word)
  | cmpTargetLoad (a : Agent) (c : Fin 16) (v : Word)
  | cmpFire (c : Fin 16)
  | ppsOutAssert
  | ppsOutWidthEnd
  | ppsInEdge (falling : Bool)
  -- Radio Front
  | jesdLinkEnable (a : Agent) (v : Word)
  | slotStartMarker (clocks : BitVec 12)
  | rxLockLost
  | txLockLost
  | rxSamples (ant : Fin 5) (x : List IQ)
  | dpdSwap (a : Agent) (t : Fin 4) (v : Word)
  | dpdBankWrite (a : Agent) (t : Fin 4) (bank : Fin 2) (word : Fin 384) (v : Word)
  | ltCorrection (t : Fin 4) (c : IQ)
  | ltUnder (t : Fin 4)
  | dpdCaptureGo (a : Agent) (t : Fin 4) (v : Word)
  | dpdCaptureStart
  | dpdCaptureDone (x orx : List IQ)
  | agcGridPoint (ch : Fin 5) (p : BitVec 16) (fullScale : Bool) (sidx : Word)
  | agcFreezeDelay (ch : Fin 5)
  | agcWindowEnd (ch : Fin 5) (p : BitVec 16) (sidx : Word)
  | agcModeWrite (a : Agent) (ch : Fin 5) (v : Word)
  | cnvSpiFrame (sidx : Word)
  | prachEnable (a : Agent) (c : Fin 4) (v : Word)
  | prachOccasion (c : Fin 4)
  | preambleDetection (c : Fin 16) (peaks : List Peak)
  | monitorMeasurement (ch : Fin 5) (fofs terr : Word)
  -- Cloister
  | bundleIssue (core : Fin 16) (stallOpnd stallExt : BitVec 8)
  | waitevWake (core : Fin 16)
  | interruptEntry (core : Fin 16)
  | evpEvent (core : Fin 16) (ev : Fin 19)
  | externalDmemAccess (core : Fin 16) (chan : Fin 192) (write : Bool) (addr : BitVec 19) (data : List Byte) (waited : BitVec 4)
  | coreEnable (a : Agent) (core : Fin 16) (v : Word)
  | coreDisable (a : Agent) (core : Fin 16) (v : Word)
  | coreStop (core : Fin 16)
  | coreHalt (a : Agent) (core : Fin 16) (v : Word)
  | coreStep (a : Agent) (core : Fin 16) (v : Word)
  | coreResume (a : Agent) (core : Fin 16) (v : Word)
  | cloClr (a : Agent) (core : Fin 16) (v : Word)
  | imemIndirectAccess (a : Agent) (core : Fin 16) (write : Option Word)
  | dmemIndirectAccess (a : Agent) (core : Fin 16) (write : Option Word)
  | chmCoreSig (a : Agent) (v : Word)
  | coreTaskPlacement (f : Fin 17)
  -- Freewheel and the slot path
  | planArm (a : Agent) (cell : Fin 16) (v : Word)
  | planValidationEnd (cell : Fin 16) (imagesUseRoleB : Bool)
  | fwlSlotStrobe (cell : Fin 16)
  | predictionLanded (cell : Fin 16) (epoch : BitVec 16) (idx : Fin 1024) (grid : List GridEl)
  | predictionFault (cell : Fin 16) (epoch : BitVec 16) (idx : Fin 1024)
  | estimateReady (cell : Fin 16) (epoch : BitVec 16) (idx : Fin 1024) (grid : List GridEl)
  | itemFinal (cell : Fin 16) (epoch : BitVec 16) (idx : Fin 1024) (out soft elements : List Byte)
  | deadlineEvent (cell : Fin 16)
  | kvAppend (cell : Fin 16) (epoch : BitVec 16) (idx : Fin 1024) (records : List (List Byte))
  -- Nave
  | arrayPass (tile : Fin 32) (ctx : Fin 8)
  | feederRefill (tile : Fin 32) (need spent : BitVec 16) (requests : List (Fin 16 × Fin 32))
  | mvpVector (tile : Fin 32) (ctx : Fin 8)
  | fillTimeout (tile : Fin 32) (ctx : Fin 8)
  | stageTrigger (cell : Fin 16) (stage : Fin 16)
  | stageItemPlacement (cell : Fin 16) (stage : Fin 16)
  | preemptionRequest (tile : Fin 32)
  | spillStart (tile : Fin 32)
  | spillDone (tile : Fin 32) (took : BitVec 16)
  | preOver (tile : Fin 32)
  | lendingEnd (tile : Fin 32)
  | restoreDone (tile : Fin 32)
  | preReq (a : Agent) (tile : Fin 32) (v : Word)
  | preRel (a : Agent) (tile : Fin 32) (v : Word)
  | navClr (a : Agent) (tile : Fin 32) (v : Word)
  | tileSramUe (tile : Fin 32) (part : TilePart)
  | taskPlacement (f : Fin 17)
  -- Stream Engines
  | channelGo (a : Agent) (ch : Fin 192) (v : Word)
  | streamNop (ch : Fin 192)
  | copy (ch : Fin 192)
  | header (ch : Fin 192)
  | rows (ch : Fin 192)
  | link (ch : Fin 192)
  | collSend (ch : Fin 192)
  | collRecv (ch : Fin 192)
  | collRecvSum (ch : Fin 192)
  | undefinedStreamOpcode (ch : Fin 192)
  | seBurst (e : Fin 24)
  | semWaitGrant (p : Fin 256) (consumer : Bool)
  | semCfgWrite (a : Agent) (p : Fin 256) (v : Word)
  | semOwnWrite (a : Agent) (p : Fin 256) (v : Word)
  | semOpProducer (a : Agent) (p : Fin 256)
  | semOpConsumer (a : Agent) (p : Fin 256)
  | cslCommand (core : Fin 16)
  | swapEffect (tile : Fin 32)
  | fenceComplete (f : Fin 17) (took : BitVec 16)
  -- memory, Transept cache, translation
  | hbmRead (block : BitVec 32) (symbols : Fin 65) (agent : Fin 192)
  | hbmWrite (addr : BitVec 37) (data : List Byte) (badMerge : Bool) (agent : Fin 192)
  | cacheAccess (addr : BitVec 37) (space : Fin 17) (write full : Bool) (attr : CacheAttr) (badWord : Bool)
  | cacheFill (line : BitVec 30)
  | hbmRefresh (block : BitVec 32)
  | hbmHotChange (stack : Fin 8) (temp : BitVec 8)
  | translationWalk (space : Fin 17) (va : DWord) (write : Bool) (agent : Byte)
  | mmuInvGo (a : Agent) (v : Word)
  | mmuInvDone
  | spillWaysWrite (a : Agent) (v : Word)
  | navRoleMaskWrite (a : Agent) (pre : Bool) (v : Word)
  | hostReadCompletion (addr : DWord) (r : HostRead) (ch : Fin 192)
  | hostReadTimeout (ch : Fin 192)
  | selfRefreshEntry
  -- sequence state
  | seqOpen (a : Agent) (page : Option (Fin 17)) (v : Word)
  | seqClose (a : Agent) (page : Option (Fin 17)) (v : Word)
  | seqCloseEnd (page : Option (Fin 17))
  | seqBadOp (a : Agent) (page : Option (Fin 17)) (v : Word)
  | seqGroupConfig (a : Agent) (g : Fin 64) (v : Word)
  | stepBegin (b : Fin 64)
  | stepEnd (b : Fin 64) (outs : List EntryOut)
  -- host interface
  | doorbellPoll (f : Fin 17)
  | sqFetchError (f : Fin 17) (q : Fin 8)
  | hostNop (f : Fin 17) (q : Fin 8)
  | task (f : Fin 17) (q : Fin 8) (img : TaskImage)
  | step (f : Fin 17) (q : Fin 8)
  | collective (f : Fin 17) (q : Fin 8)
  | frameTx (f : Fin 17) (q : Fin 8)
  | rxPost (f : Fin 17) (q : Fin 8)
  | undefinedHostOpcode (f : Fin 17) (q : Fin 8)
  | completionWrite
  | coalTimeExpiry (f : Fin 17) (ring : Fin 18)
  | msixUnmask (a : Agent) (f : Fin 17) (vec : Fin 64)
  | rrBacklogMove
  | ringEnable (a : Agent) (f : Fin 17) (ring : Fin 18) (v : Word)
  | ringDisable (a : Agent) (f : Fin 17) (ring : Fin 18) (v : Word)
  | ringConfigWrite (a : Agent) (f : Fin 17) (ring : Fin 18) (reg : Fin 3) (v : Word)
  | glbSeal (a : Agent) (v : Word)
  | glbExpertWrite (a : Agent) (v : Word)
  | registerWrite (a : Agent) (off : BitVec 25) (v : Word)
  -- Fronthaul Switch
  | frameReceive (port : Fin 8) (bytes : List Byte)
  | macLearn
  | macAgeing
  | macRead (a : Agent) (v : Word)
  | macWrite (a : Agent) (v : Word)
  | macInvalidate (a : Agent) (v : Word)
  | flushPort (a : Agent) (v : Word)
  | fhLinkLost (port : Fin 8)
  | fhLinkUp (port : Fin 8)
  | egressSelect (port : Fin 8)
  | frameTxEnd (port : Fin 8)
  | shaperRefill
  | cloisterPortFrame (bytes : List Byte)
  | quadConfigWrite (a : Agent) (quad : Fin 2) (v : Word)
  | queueBufWrite (a : Agent) (port : Fin 8) (q : Fin 8) (v : Word)
  -- Spoke fabric
  | spkEnable (a : Agent) (v : Word)
  | spkPortCtlWrite (a : Agent) (p : Fin 17) (v : Word)
  | spkFrameSend (p : Fin 17)
  | spkFrameReceive (p : Fin 17) (fecOk : Bool) (bytes : List Byte)
  | linkTrained (p : Fin 17) (rtt : BitVec 16)
  | spkLockLost (p : Fin 17)
  | helloSend
  | helloReceive (p : Fin 17) (uid : DWord) (hub : Bool) (partnerPort : Byte)
  | helloTimeout (p : Fin 17)
  | adjSend
  | adjReceive (p : Fin 17) (r : AdjRec)
  | settleExpiry
  | seatReceive (uid leader : DWord) (count seat : Byte)
  | reportSend
  | assignReceive (p : Fin 17) (leader : DWord) (wheel count : Byte)
  | wheelNumReceive (uid : DWord) (wheel : Byte)
  | hubTimeout
  | discoveryWaitTimeout (item : BitVec 32)
  | spkMessageReceive (p : Fin 17) (m : SpkMsg)
  | abortReceive (collId : Word) (reason : Byte)
  | collTimeout (item : BitVec 32)
  -- Crypt and twins
  | twinEnable (a : Agent) (v : Word)
  | twinDisable (a : Agent) (v : Word)
  | twinHelloReceive (h : TwinHello)
  | compareRecordReceive (r : CompareRec)
  | twinWaitExpiry
  | digestFinal
  | cryInval (a : Agent) (v : Word)
  | digestQuery (a : Agent) (v : Word)
  | replayArm (a : Agent) (v : Word)
  -- resets of a virtual instance, reconciliation
  | viReset (a : Agent) (v : Word)
  | vfFlr (vi : Fin 16)
  | unitZeroingDone (u : UnitRef)
  | reconciliation
  | glbUnitClr (a : Agent) (v : Word)
  -- Chapter House: mailbox
  | getFw (a : Agent) (v : Word)
  | updBegin (a : Agent) (v : Word)
  | updImage (a : Agent) (v : Word)
  | updChunk (a : Agent) (v : Word)
  | updVerify (a : Agent) (v : Word)
  | probe (a : Agent) (v : Word)
  | updActivate (a : Agent) (v : Word)
  | updAbort (a : Agent) (v : Word)
  | setUnit (a : Agent) (v : Word)
  | clearUnit (a : Agent) (v : Word)
  | mailboxCommandEnd
  | updSessionTimeout
  -- Chapter House: MCTP and PLDM
  | setEndpointId (eid : Byte)
  | getEndpointId
  | getEndpointUuid
  | getMctpVersionSupport (msgType : Byte)
  | getMessageTypeSupport
  | mctpOtherType (msgType : Byte) (wantsReply : Bool)
  | getTid
  | getPldmVersion (ty : Byte)
  | getPldmTypes
  | getPldmCommands (ty : Byte)
  | getPdr (handle : Word)
  | getSensorReading (sensor : BitVec 16)
  | setNumericEffecterValue (effecter : BitVec 16) (v : Word)
  | requestUpdate
  | passComponentTable (kinds : List (Fin 4))
  | updateComponent (kind : Fin 4) (size : Word)
  | requestFirmwareData (offset : Word) (data : List Byte)
  | transferComplete (ok : Bool)
  | verifyComplete
  | applyComplete (ok : Bool)
  | activateFirmware
  | getStatus
  | cancelUpdate
  | smbusTimeout
  -- Chapter House: override, profiles, operating points, throttling
  | chmOvrWrite (a : Agent) (v : Word)
  | profileRequest (a : Agent) (v : Word)
  | profileChangeComplete
  | dvfsRequest (a : Agent) (v : Word)
  | dvfsStep (cl : Bool) (ack : Bool)
  | slewWaitEnd (cl : Bool)
  | pmbusRetry (cl : Bool) (ack : Bool)
  | sensorSample (temps : List (BitVec 12))
  | powerEstimate (mw : List Word)
  | throttleStep
  | throttleReleaseStep
  -- the Belfry tick, and later additions to the table
  | tick
  | rxLockGained
  | txLockGained
  | sysrefEdge
  | transmitSamples (t : Fin 4) (x : List IQ)
  | spkSignalPresent (p : Fin 17)
  | selfRefreshExit
  deriving DecidableEq, Repr

end Sys2Proof
end

