-- ==== Sys2Proof/Decode.lean ====
section
/-! DEFINITION. The commands spelled by the bits of spec/opcode_table.json. No row of the table gives bits. -/

namespace Sys2Proof

/-- The command a word spells by the table's bits: no row gives any, so no word spells one. -/
def decodeTableWord (_nbits _w : Nat) : Option Instr := none

end Sys2Proof
end

