-- ==== Sys2Proof/Machine/Tab.lean ====
section
/-! DEFINITION. Sparse tables in one canonical form: keys strictly rising, no entry equal to what an unlisted key reads as.
The register file, the memories and every numbered array of units are held so, and equal tables are equal data. -/

namespace Sys2Proof.Machine

/-- Entries by key. What an unlisted key reads as is given by the reader, as a function of the key. -/
abbrev Tab (α : Type) := List (Nat × α)

/-- The entry listed for a key. -/
def Tab.find {α : Type} : Tab α → Nat → Option α
  | [], _ => none
  | (k, a) :: t, x => if k = x then some a else Tab.find t x

/-- What a key reads as. -/
def Tab.get {α : Type} (d : Nat → α) (t : Tab α) (k : Nat) : α := (Tab.find t k).getD (d k)

/-- Put an entry in its place among rising keys; an entry of the same key is replaced. -/
def Tab.insert {α : Type} (k : Nat) (a : α) : Tab α → Tab α
  | [] => [(k, a)]
  | (x, b) :: t => if k < x then (k, a) :: (x, b) :: t else if k = x then (k, a) :: t else (x, b) :: Tab.insert k a t

/-- Take a key's entry out. -/
def Tab.erase {α : Type} (k : Nat) : Tab α → Tab α
  | [] => []
  | (x, b) :: t => if k = x then Tab.erase k t else (x, b) :: Tab.erase k t

/-- Write a key: the entry is listed unless it equals what the unlisted key reads as. -/
def Tab.set {α : Type} [DecidableEq α] (d : Nat → α) (t : Tab α) (k : Nat) (a : α) : Tab α :=
  if a = d k then t.erase k else t.insert k a

/-- Keep the entries whose key satisfies `p`; every other key reads as unlisted again. -/
def Tab.keep {α : Type} (p : Nat → Bool) : Tab α → Tab α
  | [] => []
  | (x, b) :: t => if p x then (x, b) :: Tab.keep p t else Tab.keep p t

/-- The keys rise strictly above `lo`, and no entry is the unlisted value. -/
def Tab.wfFrom {α : Type} [DecidableEq α] (d : Nat → α) : Nat → Tab α → Bool
  | _, [] => true
  | lo, (k, a) :: t => decide (lo ≤ k) && decide (a ≠ d k) && Tab.wfFrom d (k + 1) t

/-- The canonical form. -/
def Tab.wf {α : Type} [DecidableEq α] (d : Nat → α) (t : Tab α) : Bool := Tab.wfFrom d 0 t

/-- A memory: bytes by address. -/
abbrev Mem := Tab Byte

/-- What a byte that nothing has written reads as (log entry 2: DESIGN CHOICE, the manual gives HBM and host memory no reset
contents). -/
def memDefault (_ : Nat) : Byte := 0

namespace Mem

def byte (m : Mem) (a : Nat) : Byte := Tab.get memDefault m a

def setByte (m : Mem) (a : Nat) (b : Byte) : Mem := Tab.set memDefault m a b

/-- The `n` bytes from address `a` up. -/
def read (m : Mem) : Nat → Nat → List Byte
  | _, 0 => []
  | a, n + 1 => byte m a :: read m (a + 1) n

/-- Store bytes from address `a` up. -/
def write (m : Mem) : Nat → List Byte → Mem
  | _, [] => m
  | a, b :: bs => write (setByte m a b) (a + 1) bs

/-- Store the bytes whose mask bit is set. -/
def writeMasked (m : Mem) : Nat → List (Byte × Bool) → Mem
  | _, [] => m
  | a, (b, e) :: bs => writeMasked (if e then setByte m a b else m) (a + 1) bs

def wf (m : Mem) : Bool := Tab.wf memDefault m

end Mem

/-- A little-endian number (R6). -/
def leNat : List Byte → Nat
  | [] => 0
  | b :: bs => b.toNat + 256 * leNat bs

/-- `n` little-endian bytes of a number (R6). -/
def leBytes : Nat → Nat → List Byte
  | 0, _ => []
  | n + 1, v => BitVec.ofNat 8 v :: leBytes n (v / 256)

/-- The little-endian field of `n` bytes at byte `a` of a structure; bytes past its end read as 0. -/
def fieldAt (bs : List Byte) (a n : Nat) : Nat := leNat ((bs.drop a).take n)

/-- Exactly `n` bytes: cut, or padded with zeros. -/
def fit (n : Nat) (bs : List Byte) : List Byte := (bs ++ List.replicate n 0).take n

/-- Bits `hi` to `lo` of a number. -/
def bitsOf (v hi lo : Nat) : Nat := v / 2 ^ lo % 2 ^ (hi + 1 - lo)

/-- Bit `i` of a number. -/
def bitOf (v i : Nat) : Bool := v / 2 ^ i % 2 == 1

/-- The signed value of the low `w` bits of a number. -/
def signed (w v : Nat) : Int := if v % 2 ^ w < 2 ^ (w - 1) then (v % 2 ^ w : Nat) else ((v % 2 ^ w : Nat) : Int) - 2 ^ w

/-- The low `w` bits of an integer, as a number. -/
def unsigned (w : Nat) (i : Int) : Nat := (i % (2 ^ w : Int)).toNat

/-- An integer held between two bounds. -/
def clampInt (lo hi i : Int) : Int := if i < lo then lo else if hi < i then hi else i

/-- Index of the first element that satisfies a test, from `n` up. -/
def firstFrom {α : Type} (p : α → Bool) : List α → Nat → Option Nat
  | [], _ => none
  | a :: as, n => if p a then some n else firstFrom p as (n + 1)

end Sys2Proof.Machine
end

