-- ==== Sys2Proof/Machine/Image.lean ====
section
/-! DEFINITION. Authentication of firmware images (R485): SHA-384, ECDSA over P-384, and the checks of an image header (Table MGT-1). The
constants are those of FIPS 180-4 and FIPS 186. -/

namespace Sys2Proof.Machine

/-! ### SHA-384 -/

def sha384Init : List DWord :=
  [0xcbbb9d5dc1059ed8, 0x629a292a367cd507, 0x9159015a3070dd17, 0x152fecd8f70e5939,
   0x67332667ffc00b31, 0x8eb44a8768581511, 0xdb0c2e0d64f98fa7, 0x47b5481dbefa4fa4]

def sha384K : List DWord :=
  [0x428a2f98d728ae22, 0x7137449123ef65cd, 0xb5c0fbcfec4d3b2f, 0xe9b5dba58189dbbc,
   0x3956c25bf348b538, 0x59f111f1b605d019, 0x923f82a4af194f9b, 0xab1c5ed5da6d8118,
   0xd807aa98a3030242, 0x12835b0145706fbe, 0x243185be4ee4b28c, 0x550c7dc3d5ffb4e2,
   0x72be5d74f27b896f, 0x80deb1fe3b1696b1, 0x9bdc06a725c71235, 0xc19bf174cf692694] ++
  [0xe49b69c19ef14ad2, 0xefbe4786384f25e3, 0x0fc19dc68b8cd5b5, 0x240ca1cc77ac9c65,
   0x2de92c6f592b0275, 0x4a7484aa6ea6e483, 0x5cb0a9dcbd41fbd4, 0x76f988da831153b5,
   0x983e5152ee66dfab, 0xa831c66d2db43210, 0xb00327c898fb213f, 0xbf597fc7beef0ee4,
   0xc6e00bf33da88fc2, 0xd5a79147930aa725, 0x06ca6351e003826f, 0x142929670a0e6e70] ++
  [0x27b70a8546d22ffc, 0x2e1b21385c26c926, 0x4d2c6dfc5ac42aed, 0x53380d139d95b3df,
   0x650a73548baf63de, 0x766a0abb3c77b2a8, 0x81c2c92e47edaee6, 0x92722c851482353b,
   0xa2bfe8a14cf10364, 0xa81a664bbc423001, 0xc24b8b70d0f89791, 0xc76c51a30654be30,
   0xd192e819d6ef5218, 0xd69906245565a910, 0xf40e35855771202a, 0x106aa07032bbd1b8] ++
  [0x19a4c116b8d2d0c8, 0x1e376c085141ab53, 0x2748774cdf8eeb99, 0x34b0bcb5e19b48a8,
   0x391c0cb3c5c95a63, 0x4ed8aa4ae3418acb, 0x5b9cca4f7763e373, 0x682e6ff3d6b2b8a3,
   0x748f82ee5defb2fc, 0x78a5636f43172f60, 0x84c87814a1f0ab72, 0x8cc702081a6439ec,
   0x90befffa23631e28, 0xa4506cebde82bde9, 0xbef9a3f7b2c67915, 0xc67178f2e372532b] ++
  [0xca273eceea26619c, 0xd186b8c721c0c207, 0xeada7dd6cde0eb1e, 0xf57d4f7fee6ed178,
   0x06f067aa72176fba, 0x0a637dc5a2c898a6, 0x113f9804bef90dae, 0x1b710b35131c471b,
   0x28db77f523047d84, 0x32caab7b40c72493, 0x3c9ebe0a15c9bebc, 0x431d67c49c100d4c,
   0x4cc5d4becb3e42b6, 0x597f299cfc657e2a, 0x5fcb6fab3ad6faec, 0x6c44198c4a475817]

/-- Eight bytes, the most significant first. -/
def beDWord (bs : List Byte) : DWord := bs.foldl (fun w b => w * 256 + BitVec.ofNat 64 b.toNat) 0

def lg0 (x : DWord) : DWord := x.rotateRight 1 ^^^ x.rotateRight 8 ^^^ (x >>> 7)
def lg1 (x : DWord) : DWord := x.rotateRight 19 ^^^ x.rotateRight 61 ^^^ (x >>> 6)
def lu0 (x : DWord) : DWord := x.rotateRight 28 ^^^ x.rotateRight 34 ^^^ x.rotateRight 39
def lu1 (x : DWord) : DWord := x.rotateRight 14 ^^^ x.rotateRight 18 ^^^ x.rotateRight 41

def sha384Expand : Nat → List DWord → List DWord
  | 0, w => w
  | n + 1, w => sha384Expand n ((lg1 (w.getD 1 0) + w.getD 6 0 + lg0 (w.getD 14 0) + w.getD 15 0) :: w)

def sha384Round (v : List DWord) (kw : DWord × DWord) : List DWord :=
  let a := v.getD 0 0
  let b := v.getD 1 0
  let c := v.getD 2 0
  let e := v.getD 4 0
  let t1 := v.getD 7 0 + lu1 e + ((e &&& v.getD 5 0) ^^^ (~~~e &&& v.getD 6 0)) + kw.1 + kw.2
  let t2 := lu0 a + ((a &&& b) ^^^ (a &&& c) ^^^ (b &&& c))
  [t1 + t2, a, b, c, v.getD 3 0 + t1, e, v.getD 5 0, v.getD 6 0]

/-- Words of a block of 128 bytes. -/
def blockDWords (bs : List Byte) : List DWord := (List.range 16).map fun i => beDWord ((bs.drop (8 * i)).take 8)

def sha384Block (h : List DWord) (bs : List Byte) : List DWord :=
  let w := (sha384Expand 64 (blockDWords bs).reverse).reverse
  List.zipWith (· + ·) h ((List.zip sha384K w).foldl sha384Round h)

def sha384Blocks : Nat → List Byte → List DWord → List DWord
  | 0, _, h => h
  | n + 1, bs, h => sha384Blocks n (bs.drop 128) (sha384Block h (bs.take 128))

/-- SHA-384, as 48 bytes. -/
def sha384 (bs : List Byte) : List Byte :=
  let pad := bs ++ [(0x80 : Byte)] ++ List.replicate ((239 - bs.length % 128) % 128) 0 ++ beBytes 16 (8 * bs.length)
  ((sha384Blocks (pad.length / 128) pad sha384Init).take 6).flatMap fun w => beBytes 8 w.toNat

/-! ### ECDSA over P-384 -/

def ecP : Nat := 2 ^ 384 - 2 ^ 128 - 2 ^ 96 + 2 ^ 32 - 1
def ecN : Nat := 0xffffffffffffffffffffffffffffffffffffffffffffffffc7634d81f4372ddf581a0db248b0a77aecec196accc52973
def ecB : Nat := 0xb3312fa7e23ee7e4988e056be3f82d19181d9c6efe8141120314088f5013875ac656398d8a2ed19d2a85c8edd3ec2aef
def ecGx : Nat := 0xaa87ca22be8b05378eb1c71ef320ad746e1d3b628ba79b9859f741e082542a385502f25dbf55296c3a545e3872760ab7
def ecGy : Nat := 0x3617de4a96262c6f5d9e98bf9292dc29f8f41dbd289a147ce9da3113b5f0b8c00a60b1ce1d7e819d7a431d7c90ea0e5f

/-- A point as (X, Y, Z): x = X / Z², y = Y / Z³; Z = 0 is the point at infinity. -/
structure EcPoint where
  x : Nat
  y : Nat
  z : Nat
  deriving DecidableEq, Repr

def fpSub (a b : Nat) : Nat := (a + ecP - b % ecP) % ecP
def fpMul (a b : Nat) : Nat := a * b % ecP

def ecDouble (p : EcPoint) : EcPoint :=
  let d := fpMul p.z p.z
  let g := fpMul p.y p.y
  let be := fpMul p.x g
  let al := fpMul (3 * fpSub p.x d) (p.x + d)
  let x3 := fpSub (fpMul al al) (8 * be)
  ⟨x3, fpSub (fpMul al (fpSub (4 * be) x3)) (8 * fpMul g g), fpMul (2 * p.y) p.z⟩

def ecAdd (p q : EcPoint) : EcPoint :=
  if p.z = 0 then q
  else if q.z = 0 then p
  else
    let zp := fpMul p.z p.z
    let zq := fpMul q.z q.z
    let u1 := fpMul p.x zq
    let u2 := fpMul q.x zp
    let s1 := fpMul p.y (fpMul zq q.z)
    let s2 := fpMul q.y (fpMul zp p.z)
    if u1 = u2 then (if s1 = s2 then ecDouble p else ⟨1, 1, 0⟩)
    else
      let h := fpSub u2 u1
      let r := fpSub s2 s1
      let hh := fpMul h h
      let hhh := fpMul h hh
      let v := fpMul u1 hh
      let x3 := fpSub (fpMul r r) (hhh + 2 * v)
      ⟨x3, fpSub (fpMul r (fpSub v x3)) (fpMul s1 hhh), fpMul h (fpMul p.z q.z)⟩

/-- k × p, over the low `n` bits of k. -/
def ecMul : Nat → Nat → EcPoint → EcPoint
  | 0, _, _ => ⟨1, 1, 0⟩
  | n + 1, k, p =>
    let r := ecMul n (k / 2) (ecDouble p)
    if k % 2 = 1 then ecAdd p r else r

/-- b ^ e modulo m, over the low `n` bits of e. -/
def powMod (m : Nat) : Nat → Nat → Nat → Nat
  | 0, _, _ => 1 % m
  | n + 1, b, e =>
    let r := powMod m n (b * b % m) (e / 2)
    if e % 2 = 1 then b * r % m else r

/-- A big-endian number. -/
def beNum (bs : List Byte) : Nat := bs.foldl (fun n b => 256 * n + b.toNat) 0

/-- A public key of 97 bytes, uncompressed, that names a point of the curve. -/
def ecKeyOk (key : List Byte) : Bool :=
  let x := beNum ((key.drop 1).take 48)
  let y := beNum ((key.drop 49).take 48)
  key.length == 97 && key.head? == some 4 && decide (x < ecP) && decide (y < ecP) &&
  fpMul y y == fpSub (fpMul x (fpMul x x) + ecB) (3 * x)

/-- Is (r, s) a signature of a 48-byte digest under a key? -/
def ecVerify (key digest sig : List Byte) : Bool :=
  let r := beNum (sig.take 48)
  let s := beNum ((sig.drop 48).take 48)
  if ecKeyOk key && r != 0 && s != 0 && decide (r < ecN) && decide (s < ecN) then
    let w := powMod ecN 384 s (ecN - 2)
    let q : EcPoint := ⟨beNum ((key.drop 1).take 48), beNum ((key.drop 49).take 48), 1⟩
    let t := ecAdd (ecMul 384 (beNum digest * w % ecN) ⟨ecGx, ecGy, 1⟩) (ecMul 384 (r * w % ecN) q)
    let zz := fpMul t.z t.z
    t.z != 0 && (t.x == fpMul r zz || (decide (r + ecN < ecP) && t.x == fpMul (r + ecN) zz))
  else false

/-! ### Images (Table MGT-1, R485, R488) -/

def imKind (h : List Byte) : Nat := fieldAt h 4 1
def imKey (h : List Byte) : Nat := fieldAt h 5 1
def imIlevel (h : List Byte) : Nat := fieldAt h 6 2
def imVersion (h : List Byte) : Nat := fieldAt h 8 4
def imLength (h : List Byte) : Nat := fieldAt h 12 4
def imPubkey (h : List Byte) : List Byte := (h.drop 64).take 97

/-- Where a kind's region lies in a bank, and its size (R482). -/
def regionOf (kind : Nat) : Nat × Nat :=
  match kind with
  | 1 => (0, 0x100000)
  | 2 => (0x100000, 0x400000)
  | 3 => (0x500000, 0x100000)
  | _ => (0x600000, 0x10000)

/-- The header's own checks: MAGIC, KIND, LENGTH within the region. -/
def imageHeaderOk (h : List Byte) (kind : Nat) : Bool :=
  h.take 4 == [0x54, 0x52, 0x4B, 0x46] && imKind h == kind && decide (imLength h + 512 ≤ (regionOf kind).2)

/-- Is an image valid, against the fused key digests and the revoked slots? -/
def imageValid (keys : Tab (List Byte)) (revoked : Nat) (h payload : List Byte) (kind : Nat) : Bool :=
  imageHeaderOk h kind && decide (imKey h < 4) && !bitOf revoked (imKey h) &&
  sha384 (imPubkey h) == Tab.get (fun _ => []) keys (imKey h) &&
  sha384 payload == (h.drop 16).take 48 &&
  ecVerify (imPubkey h) (sha384 (h.take 168)) ((h.drop 168).take 96)

/-- A manifest payload's entry lists a combination of versions and stepping. -/
def listedIn (payload : List Byte) (chf crf slf step : Nat) : Bool :=
  (List.range (payload.length / 16)).any fun i =>
    let e := payload.drop (16 * i)
    fieldAt e 0 4 == chf && fieldAt e 4 4 == crf && fieldAt e 8 4 == slf && fieldAt e 12 1 == step

/-- A manifest payload is 1 to 256 entries of 16 bytes (R488). -/
def manifestOk (payload : List Byte) : Bool :=
  payload.length % 16 == 0 && decide (16 ≤ payload.length) && decide (payload.length ≤ 4096)

end Sys2Proof.Machine
end

