-- ==== Sys2Proof/Bundle.lean ====
section
/-! DEFINITION. The operations of a Cloister bundle whose forms Table CLO-3 names and whose encodings Table CLO-6 does not
give. `Config` decodes a slot word to one of these. -/

namespace Sys2Proof

/-- MEM slot: OP 0x01-0x13. -/
inductive MemOp where
  | ldv  (d b : Fin 32) (imm : Int)
  | ldvp (d b : Fin 32) (imm : Int)
  | ldvu (d b : Fin 32) (imm : Int)
  | ldv2 (d e b c : Fin 32)
  | stvp (v b : Fin 32) (imm : Int)
  | ldstv (d b v c : Fin 32)
  | lds  (d b : Fin 32) (imm : Int)
  | sts  (d b : Fin 32) (imm : Int)
  | lda  (a : Fin 4) (b : Fin 32)
  | sta  (a : Fin 4) (b : Fin 32)
  deriving DecidableEq, Repr

/-- A vector ALU operation's function. `other` stands for logic, shift, compare and lane permute, whose exact functions the manual
does not give. -/
inductive VecFn where
  | add | sub | min | max | other
  deriving DecidableEq, Repr

/-- Rotation of the second operand by ±j on complex lane pairs. -/
inductive Rot where
  | none | plusJ | minusJ
  deriving DecidableEq, Repr

/-- The second operand of an ALU operation. -/
inductive Opnd where
  | reg (r : Fin 32)
  | imm (v : Int)
  deriving DecidableEq, Repr

/-- Vector ALU: OP 0x14-0x1F. -/
structure VecAlu where
  fn  : VecFn
  rot : Rot
  d   : Fin 32
  a   : Fin 32
  b   : Opnd
  deriving DecidableEq, Repr

/-- Real MAC with a register or a broadcast scalar: OP 0x22-0x25. -/
structure MacOp where
  acc    : Fin 4
  mpy    : Bool
  scalar : Bool
  x      : Fin 32
  y      : Fin 32
  deriving DecidableEq, Repr, Inhabited

/-- Complex MAC: OP 0x28-0x29. -/
structure CMacOp where
  acc  : Fin 4
  mpy  : Bool
  x    : Fin 32
  y    : Fin 32
  conj : Bool
  deriving DecidableEq, Repr, Inhabited

/-- Scalar and branch: OP 0x30-0x37. -/
inductive ScaOp where
  | alu  (d a : Fin 32) (b : Opnd)
  | br   (target : BitVec 12)
  | brc  (c : Fin 32) (target : BitVec 12)
  | call (link : Fin 32) (target : BitVec 12)
  | ret  (link : Fin 32)
  deriving DecidableEq, Repr

end Sys2Proof
end

