-- ==== Sys2Proof/Config.lean ====
section
/-! DEFINITION. The values the manual leaves open, as constants without a body: a statement about one holds whatever it is.
A constant that takes a `Nat` first is drawn with the counter `State.free` (log entry 3). -/

namespace Sys2Proof

/-- A word the manual leaves open. -/
opaque Config.freeWord : Nat → Word

/-- Bytes the manual leaves open. -/
opaque Config.freeBytes : Nat → List Byte

/-- How FAULT_INFO.AGENT codes an agent (R277 names the field and gives no code): its kind and index. -/
opaque Config.agentCode : Nat → Nat → Byte

/-- A sample out of a fixed half-band filter (R79, R91): the filters' coefficients are not given. Drawn. -/
opaque Config.halfBandI : Nat → Int
opaque Config.halfBandQ : Nat → Int

/-- |x|^(k-1) of R86 for k > 1, in units of 2^-48, from I and Q. The manual gives x no scale and the power no precision. -/
opaque Config.gmpMag : Nat → Int → Int → Int

/-- Whether a quotient that is not exact is rounded up in the offset average (R106 states no rounding). -/
opaque Config.avgUp : Int → Nat → Bool

/-- The digest of a task image by function and index (R436): an image's bytes are not part of the device's own state. -/
opaque Config.imageDigest : Nat → Nat → List Byte

/-- Where a task image lies, by function and index: CRY_INVAL names it by address (Table DET-9). -/
opaque Config.imageAddr : Nat → Nat → Nat

/-- The HBM read occupancy that the device samples at a step's start, in percent (R301): a measured value. Drawn. -/
opaque Config.readOccupancy : Nat → Fin 101

/-- Whether an error of three or more symbols is detected (R252). Drawn. -/
opaque Config.tripleSeen : Nat → Bool

/-- Whether an access uses the new translation while an entry of the old one has changed and is not invalidated (R276). Drawn. -/
opaque Config.newWalk : Nat → Bool

/-! Spoke fabric: contents and tags the manual does not lay out. -/

/-- A control flit after its CODE (Table SPK-4 names the contents without their places): the code and the values. -/
opaque Config.controlBytes : Nat → List Nat → List Byte

/-- The MSG tag of a plan's step (Table SPK-2): the phase. -/
opaque Config.planTag : Nat → Word

/-- Head-flit bytes 4-11 and 16-27 of a TC1 message, which the manual does not give: its kind (0 TWIN_HELLO, 1 compare record,
2 mirrored samples). -/
opaque Config.tc1Head : Nat → List Byte

/-- The payload of a TWIN_HELLO, from the values of Table DET-5, and of mirrored samples. -/
opaque Config.twinHelloBytes : List Nat → List Byte
opaque Config.mirrorBytes : Nat → List IQ → List Byte

/-- Mirrored samples as the SECONDARY reads them: the stream, the slot they begin if they do, the samples. -/
opaque Config.mirrorRead : List Byte → Nat × Option Nat × List IQ

/-- Whether a seat of another wheel exists (R417): by discovery generation and node. -/
opaque Config.nodeExists : Nat → Nat → Bool

/-- Whether MAX or MIN of two zeros is the second operand (R419 orders values, and zeros of unlike sign are equal). -/
opaque Config.zeroSecond : Nat → Nat → Bool

/-! Fronthaul Switch. -/

/-- The VID and PCP of an untagged frame from an internal port, which has no PVID register (R354). -/
opaque Config.intTag : Nat → Fin 4096 × Fin 8

/-- How many of the oldest frames the firmware has taken from an internal port since the last arrival. Drawn. -/
opaque Config.framesTaken : Nat → Nat

/-! Resets and management. -/

/-- HBM contents after a cold reset, and a tile's SRAM and accumulators after any reset (R213, R278): undefined. Drawn. -/
opaque Config.coldHbm : Nat → List (Nat × Byte)
opaque Config.coldTile : Nat → List (Nat × Byte)
opaque Config.coldAcc : Nat → List (Nat × Word)

/-- INFO of MGT_OVERRIDE, by whether the override is now set (Table FLT-6 refers to a chapter that gives none). -/
opaque Config.overrideInfo : Bool → Word

/-- An MCTP or PLDM reply: its kind, in the order of the table's rows, and the values it carries. DSP0236 to DSP0267 lay it out. -/
opaque Config.mctpReply : Nat → List Nat → List Byte

/-- PLDM completion codes by name: 0 success, 1 invalid data, 2 ALREADY_IN_UPDATE_MODE, 3 not in update mode, 4 invalid state,
5 unsupported. -/
opaque Config.pldmCode : Nat → Byte

/-! Slot words of a Cloister bundle whose encoding Table CLO-6 does not give; `none` is an undefined OP (R126). -/

/-- The operation of a slot word of a bundle, `none` for an undefined OP, and its fields (R126; Table CLO-6 gives no encoding). -/
opaque Config.memOp : Word → Option MemOp
opaque Config.vecAlu : Word → Option VecAlu
opaque Config.aclr : Word → Fin 4
opaque Config.macOp : Word → MacOp
opaque Config.cmacOp : Word → CMacOp
opaque Config.scaOp : Word → Option ScaOp

/-- The lanes of a vector ALU operation the manual names without its function: the slot word, both operands. -/
opaque Config.vecOther : Word → List (BitVec 16) → List (BitVec 16) → List (BitVec 16)

/-- A scalar ALU operation's result (Table CLO-3 gives its operands alone). -/
opaque Config.scalarAlu : Word → Word → Word → Word

/-- Whether BRC is taken for a value of its scalar. -/
opaque Config.branchTaken : Word → Word → Bool

/-- Whether `conj` of a complex MAC applies to the second operand. -/
opaque Config.conjSecond : Bool

end Sys2Proof
end

