-- ==== Sys2Proof/Machine/Regs.lean ====
section
/-! DEFINITION. The registers of PF BAR0 (Tables SCP-7, HST-8, HST-9, FLT-8, MGT-7, BEL-7, STR-6, MEM-6, SEQ-5, NAV-9, CLO-10,
RFI-4, FHL-5, SPK-11, DET-9, FWL-7 and the ones rules R529 and R555 add): `R` gives each register's byte offset, `F` its fields,
`regRow` its type, reset value and write rule (R8, R313, R345, R556). A VIS page register is given by its offset in the page. -/

namespace Sys2Proof.Machine

/-- A bit field of a register, from bit `lo` to bit `hi`. -/
structure Fld where
  hi : Nat
  lo : Nat
  deriving DecidableEq, Repr

/-- Register types of Table SCP-4 at the grain of a field. `trig` is a bit or key that starts an action and is not kept. -/
inductive FKind where
  | ro | rw | w1c | w1s | trig
  deriving DecidableEq, Repr

/-- What a field does with a value outside its range or code table (R556). -/
inductive Limit where
  | any
  | range (lo hi : Nat)
  | srange (lo hi : Int)
  | codes (n : Nat)
  deriving DecidableEq, Repr

/-- One field of a register: its type, the bit of GLB_EXPERT that opens it (R345), its range, and whether it is a PF field (R313). -/
structure FieldDef where
  fld    : Fld
  kind   : FKind
  expert : Option Nat
  lim    : Limit
  pf     : Bool
  deriving DecidableEq, Repr

/-- One register or array of registers: base offset, the counts and strides of its dimensions, RWL, reset value, fields. -/
structure RegDef where
  base   : Nat
  dims   : List (Nat × Nat)
  rwl    : Bool
  reset  : Nat
  fields : List FieldDef
  deriving DecidableEq, Repr


/-! Offsets. -/

def R.GLB_ID : Nat := 0x0000000
def R.GLB_CAPS : Nat := 0x0000004
def R.GLB_TILEMAP : Nat := 0x0000008
def R.GLB_STATUS : Nat := 0x0000010
def R.GLB_SEAL : Nat := 0x0000014
def R.GLB_EXPERT : Nat := 0x0000018
def R.GLB_ERR : Nat := 0x000001C
def R.GLB_DISC : Nat := 0x0000020
def R.GLB_POLL_LATE : Nat := 0x0000024
def R.GLB_ISL_STAT (i : Nat) : Nat := 0x0000100 + 0x4 * i
def R.GLB_CLO_RT : Nat := 0x0000300
def R.GLB_NAV_RT : Nat := 0x0000304
def R.GLB_NAV_PRE : Nat := 0x0000308
def R.GLB_NAV_PRE_SE : Nat := 0x000030C
def R.GLB_RST_CAUSE : Nat := 0x0000400
def R.GLB_VIRST : Nat := 0x0000404
def R.GLB_VIRST_STAT : Nat := 0x0000408
def R.GLB_HOLD_BASE_LO : Nat := 0x0000410
def R.GLB_HOLD_BASE_HI : Nat := 0x0000414
def R.GLB_HOLD_SIZE : Nat := 0x0000418
def R.GLB_HOLD_CNT : Nat := 0x000041C
def R.GLB_UNIT_SEL : Nat := 0x0000420
def R.GLB_UNIT_STAT : Nat := 0x0000424
def R.GLB_UNIT_CLR : Nat := 0x0000428
def R.GLB_SKEW_CNT : Nat := 0x000042C
def R.GLB_MODES : Nat := 0x0000500
def R.GLB_PMB_CFG : Nat := 0x0000600
def R.GLB_ELE_STAT : Nat := 0x0000604
def R.PF_MSIX_LO (i : Nat) : Nat := 0x00E0000 + 0x10 * i
def R.PF_MSIX_HI (i : Nat) : Nat := 0x00E0004 + 0x10 * i
def R.PF_MSIX_DATA (i : Nat) : Nat := 0x00E0008 + 0x10 * i
def R.PF_MSIX_CTL (i : Nat) : Nat := 0x00E000C + 0x10 * i
def R.PF_PBA (i : Nat) : Nat := 0x00E8000 + 0x4 * i
def R.CHM_CTL : Nat := 0x0100000
def R.CHM_ERR : Nat := 0x0100004
def R.CHM_BOOT_STAT : Nat := 0x0100008
def R.CHM_FW_CHF : Nat := 0x0100010
def R.CHM_FW_CRF : Nat := 0x0100014
def R.CHM_FW_SLF : Nat := 0x0100018
def R.CHM_ILEVEL0 : Nat := 0x010001C
def R.CHM_ILEVEL1 : Nat := 0x0100020
def R.CHM_OVR : Nat := 0x0100024
def R.CHM_CMD : Nat := 0x0100030
def R.CHM_STAT : Nat := 0x0100034
def R.CHM_ARG (i : Nat) : Nat := 0x0100038 + 0x4 * i
def R.CHM_RSP (i : Nat) : Nat := 0x0100048 + 0x4 * i
def R.CHM_PROF_REQ : Nat := 0x0100060
def R.CHM_PROF_STAT : Nat := 0x0100064
def R.CHM_PROF_SG : Nat := 0x0100068
def R.CHM_TILE_PWR : Nat := 0x010006C
def R.CHM_DVFS : Nat := 0x0100070
def R.CHM_THR : Nat := 0x0100074
def R.CHM_THR_STAT : Nat := 0x0100078
def R.CHM_THR_CNT : Nat := 0x010007C
def R.CHM_SMB_ADDR : Nat := 0x0100080
def R.CHM_EID : Nat := 0x0100084
def R.CHM_TEMP (i : Nat) : Nat := 0x0100100 + 0x4 * i
def R.CHM_TMAX : Nat := 0x0100180
def R.CHM_PWR (i : Nat) : Nat := 0x0100200 + 0x4 * i
def R.CHM_ENERGY_LO : Nat := 0x0100220
def R.CHM_ENERGY_HI : Nat := 0x0100224
def R.CHM_CORE_SIG : Nat := 0x0101000
def R.CHM_WIN (i : Nat) : Nat := 0x0110000 + 0x4 * i
def R.BEL_STATUS : Nat := 0x0200000
def R.BEL_CTL : Nat := 0x0200004
def R.BEL_TOD_NS : Nat := 0x0200010
def R.BEL_TOD_SEC_LO : Nat := 0x0200014
def R.BEL_TOD_SEC_HI : Nat := 0x0200018
def R.BEL_TOD_FRAC : Nat := 0x020001C
def R.BEL_SNAP_DNC_LO : Nat := 0x0200020
def R.BEL_SNAP_DNC_HI : Nat := 0x0200024
def R.BEL_DNC_LO : Nat := 0x0200028
def R.BEL_DNC_HI : Nat := 0x020002C
def R.BEL_SET_SEC_LO : Nat := 0x0200040
def R.BEL_SET_SEC_HI : Nat := 0x0200044
def R.BEL_SET_NS : Nat := 0x0200048
def R.BEL_SET_FRAC : Nat := 0x020004C
def R.BEL_SET_CTL : Nat := 0x0200050
def R.BEL_SET_DNC_LO : Nat := 0x0200054
def R.BEL_SET_DNC_HI : Nat := 0x0200058
def R.BEL_OFS_LO : Nat := 0x0200060
def R.BEL_OFS_HI : Nat := 0x0200064
def R.BEL_FREQ_ADJ : Nat := 0x0200070
def R.BEL_SG_CTL (i : Nat) : Nat := 0x0200100 + 0x40 * i
def R.BEL_SG_PERIOD (i : Nat) : Nat := 0x0200104 + 0x40 * i
def R.BEL_SG_PHASE (i : Nat) : Nat := 0x0200108 + 0x40 * i
def R.BEL_SG_COUNT (i : Nat) : Nat := 0x020010C + 0x40 * i
def R.BEL_SG_DNC_LO (i : Nat) : Nat := 0x0200110 + 0x40 * i
def R.BEL_SG_DNC_HI (i : Nat) : Nat := 0x0200114 + 0x40 * i
def R.BEL_SG_STAT (i : Nat) : Nat := 0x0200118 + 0x40 * i
def R.BEL_SG_SYM (i j : Nat) : Nat := 0x0200200 + 0x40 * i + 0x4 * j
def R.BEL_CMP_CTL (i : Nat) : Nat := 0x0200400 + 0x20 * i
def R.BEL_CMP_TGT_LO (i : Nat) : Nat := 0x0200404 + 0x20 * i
def R.BEL_CMP_TGT_HI (i : Nat) : Nat := 0x0200408 + 0x20 * i
def R.BEL_CMP_PERIOD (i : Nat) : Nat := 0x020040C + 0x20 * i
def R.BEL_CMP_STAT (i : Nat) : Nat := 0x0200410 + 0x20 * i
def R.BEL_CMP_FIRE_LO (i : Nat) : Nat := 0x0200414 + 0x20 * i
def R.BEL_CMP_FIRE_HI (i : Nat) : Nat := 0x0200418 + 0x20 * i
def R.BEL_PPSOUT_CTL : Nat := 0x0200800
def R.BEL_PPSOUT_OFS : Nat := 0x0200804
def R.BEL_PPSOUT_WIDTH : Nat := 0x0200808
def R.BEL_PPSIN_CTL : Nat := 0x0200810
def R.BEL_PPSIN_NS : Nat := 0x0200814
def R.BEL_PPSIN_SEC_LO : Nat := 0x0200818
def R.BEL_PPSIN_SEC_HI : Nat := 0x020081C
def R.BEL_PPSIN_DNC_LO : Nat := 0x0200820
def R.BEL_PPSIN_DNC_HI : Nat := 0x0200824
def R.BEL_PPSIN_CNT : Nat := 0x0200828
def R.BEL_RCLK_CTL : Nat := 0x0200830
def R.BEL_TSR_BASE_LO (i : Nat) : Nat := 0x0200900 + 0x20 * i
def R.BEL_TSR_BASE_HI (i : Nat) : Nat := 0x0200904 + 0x20 * i
def R.BEL_TSR_CIDX_LO (i : Nat) : Nat := 0x0200908 + 0x20 * i
def R.BEL_TSR_CIDX_HI (i : Nat) : Nat := 0x020090C + 0x20 * i
def R.BEL_TSR_CTL (i : Nat) : Nat := 0x0200910 + 0x20 * i
def R.BEL_TSR_DROP (i : Nat) : Nat := 0x0200914 + 0x20 * i
def R.BEL_TSR_STAT (i : Nat) : Nat := 0x0200918 + 0x20 * i
def R.BEL_TSR_CORR (i : Nat) : Nat := 0x020091C + 0x20 * i
def R.SE_CTL : Nat := 0x0300000
def R.SE_ERR : Nat := 0x0300004
def R.SE_FENCE_STAT : Nat := 0x0300010
def R.SE_FENCE_MAX : Nat := 0x0300014
def R.SE_CH_OWN (i j : Nat) : Nat := 0x0301000 + 0x400 * i + 0x40 * j
def R.SE_CH_CTL (i j : Nat) : Nat := 0x0301004 + 0x400 * i + 0x40 * j
def R.SE_CH_LIST_LO (i j : Nat) : Nat := 0x0301008 + 0x400 * i + 0x40 * j
def R.SE_CH_LIST_HI (i j : Nat) : Nat := 0x030100C + 0x400 * i + 0x40 * j
def R.SE_CH_STAT (i j : Nat) : Nat := 0x0301010 + 0x400 * i + 0x40 * j
def R.SE_CH_BYTES (i j : Nat) : Nat := 0x0301014 + 0x400 * i + 0x40 * j
def R.SE_CH_CUR (i j : Nat) : Nat := 0x0301018 + 0x400 * i + 0x40 * j
def R.SE_CH_HAZ (i j : Nat) : Nat := 0x030101C + 0x400 * i + 0x40 * j
def R.SE_PERF_BYTES (i : Nat) : Nat := 0x0301200 + 0x400 * i
def R.SE_SEM_CFG (i : Nat) : Nat := 0x0308000 + 0x10 * i
def R.SE_SEM_OWN (i : Nat) : Nat := 0x0308004 + 0x10 * i
def R.SE_SEM_CNT (i : Nat) : Nat := 0x0308008 + 0x10 * i
def R.SE_SEM_OP (i : Nat) : Nat := 0x030800C + 0x10 * i
def R.SE_CSL (i : Nat) : Nat := 0x0309000 + 0x4 * i
def R.MMU_CTL : Nat := 0x0400000
def R.MMU_ERR : Nat := 0x0400004
def R.MMU_PF_ROOT_LO : Nat := 0x0400010
def R.MMU_PF_ROOT_HI : Nat := 0x0400014
def R.MMU_PF_WAYMASK : Nat := 0x0400018
def R.MMU_INV : Nat := 0x0400020
def R.MMU_INV_VA_LO : Nat := 0x0400024
def R.MMU_INV_VA_HI : Nat := 0x0400028
def R.MMU_INV_SIZE : Nat := 0x040002C
def R.MMU_VI_ROOT_LO (i : Nat) : Nat := 0x0401000 + 0x100 * i
def R.MMU_VI_ROOT_HI (i : Nat) : Nat := 0x0401004 + 0x100 * i
def R.MMU_VI_WAYMASK (i : Nat) : Nat := 0x0401008 + 0x100 * i
def R.MMU_VI_WIN_BASE_LO (i j : Nat) : Nat := 0x0401010 + 0x100 * i + 0x10 * j
def R.MMU_VI_WIN_BASE_HI (i j : Nat) : Nat := 0x0401014 + 0x100 * i + 0x10 * j
def R.MMU_VI_WIN_LIMIT_LO (i j : Nat) : Nat := 0x0401018 + 0x100 * i + 0x10 * j
def R.MMU_VI_WIN_LIMIT_HI (i j : Nat) : Nat := 0x040101C + 0x100 * i + 0x10 * j
def R.MMU_FAULT_VA_LO (i : Nat) : Nat := 0x0401060 + 0x100 * i
def R.MMU_FAULT_VA_HI (i : Nat) : Nat := 0x0401064 + 0x100 * i
def R.MMU_FAULT_INFO (i : Nat) : Nat := 0x0401068 + 0x100 * i
def R.MMU_FAULT_CNT (i : Nat) : Nat := 0x040106C + 0x100 * i
def R.MEM_CTL : Nat := 0x0408000
def R.MEM_STAT : Nat := 0x0408004
def R.MEM_STAT_PRE_EFF : Nat := 0x0408008
def R.MEM_CE_THR : Nat := 0x040800C
def R.MEM_HBM_CE (i : Nat) : Nat := 0x0408100 + 0x20 * i
def R.MEM_HBM_UE (i : Nat) : Nat := 0x0408104 + 0x20 * i
def R.MEM_HBM_UE_ADDR_LO (i : Nat) : Nat := 0x0408108 + 0x20 * i
def R.MEM_HBM_UE_ADDR_HI (i : Nat) : Nat := 0x040810C + 0x20 * i
def R.MEM_HBM_TEMP (i : Nat) : Nat := 0x0408110 + 0x20 * i
def R.MEM_TC_HIT (i : Nat) : Nat := 0x0409000 + 0x20 * i
def R.MEM_TC_MISS (i : Nat) : Nat := 0x0409004 + 0x20 * i
def R.MEM_TC_MERGE (i : Nat) : Nat := 0x0409008 + 0x20 * i
def R.MEM_TC_DEAD (i : Nat) : Nat := 0x040900C + 0x20 * i
def R.MEM_TC_CE (i : Nat) : Nat := 0x0409010 + 0x20 * i
def R.MEM_TC_UE (i : Nat) : Nat := 0x0409014 + 0x20 * i
def R.SEQ_CTL : Nat := 0x0410000
def R.SEQ_ERR : Nat := 0x0410004
def R.SEQ_TBL_LO : Nat := 0x0410008
def R.SEQ_TBL_HI : Nat := 0x041000C
def R.SEQ_TBL_SIZE : Nat := 0x0410010
def R.SEQ_CMD : Nat := 0x0410020
def R.SEQ_CMD_STAT : Nat := 0x0410024
def R.SEQ_SAT : Nat := 0x0410030
def R.SEQ_OCC : Nat := 0x0410034
def R.SEQ_CNT_APPEND : Nat := 0x0410040
def R.SEQ_CNT_FULL : Nat := 0x0410044
def R.SEQ_CNT_INACTIVE : Nat := 0x0410048
def R.SEQ_GRP_CFG (i : Nat) : Nat := 0x0410100 + 0x10 * i
def R.SEQ_GRP_OWN (i : Nat) : Nat := 0x0410104 + 0x10 * i
def R.SEQ_BCTX_CTL (i : Nat) : Nat := 0x0410800 + 0x20 * i
def R.SEQ_BCTX_BUDGET (i : Nat) : Nat := 0x0410804 + 0x20 * i
def R.SEQ_BCTX_STEP (i : Nat) : Nat := 0x0410808 + 0x20 * i
def R.SEQ_BCTX_DEFER (i : Nat) : Nat := 0x041080C + 0x20 * i
def R.SEQ_BCTX_JOIN (i : Nat) : Nat := 0x0410810 + 0x20 * i
def R.SEQ_BCTX_OWN (i : Nat) : Nat := 0x0410814 + 0x20 * i
def R.NAV_CTL (i : Nat) : Nat := 0x0800000 + 0x10000 * i
def R.NAV_STAT (i : Nat) : Nat := 0x0800004 + 0x10000 * i
def R.NAV_CNT_PASS (i : Nat) : Nat := 0x0800008 + 0x10000 * i
def R.NAV_CNT_MVP (i : Nat) : Nat := 0x080000C + 0x10000 * i
def R.NAV_CNT_STALL (i : Nat) : Nat := 0x0800010 + 0x10000 * i
def R.NAV_CNT_PRE (i : Nat) : Nat := 0x0800014 + 0x10000 * i
def R.NAV_PRE_MAX (i : Nat) : Nat := 0x0800018 + 0x10000 * i
def R.NAV_STR_STAT (i j : Nat) : Nat := 0x0800100 + 0x10000 * i + 0x10 * j
def R.NAV_STR_AGE (i j : Nat) : Nat := 0x0800104 + 0x10000 * i + 0x10 * j
def R.CLO_CTL (i : Nat) : Nat := 0x0A00000 + 0x10000 * i
def R.CLO_STAT (i : Nat) : Nat := 0x0A00004 + 0x10000 * i
def R.CLO_ENTRY (i : Nat) : Nat := 0x0A00008 + 0x10000 * i
def R.CLO_IVEC (i : Nat) : Nat := 0x0A0000C + 0x10000 * i
def R.CLO_STI (i : Nat) : Nat := 0x0A00010 + 0x10000 * i
def R.CLO_EVP (i : Nat) : Nat := 0x0A00014 + 0x10000 * i
def R.CLO_IEN (i : Nat) : Nat := 0x0A00018 + 0x10000 * i
def R.CLO_EVLOST (i : Nat) : Nat := 0x0A0001C + 0x10000 * i
def R.CLO_DBG (i : Nat) : Nat := 0x0A00020 + 0x10000 * i
def R.CLO_IMA (i : Nat) : Nat := 0x0A00030 + 0x10000 * i
def R.CLO_IMD (i : Nat) : Nat := 0x0A00034 + 0x10000 * i
def R.CLO_DMA (i : Nat) : Nat := 0x0A00038 + 0x10000 * i
def R.CLO_DMD (i : Nat) : Nat := 0x0A0003C + 0x10000 * i
def R.CLO_PERF_CYC (i : Nat) : Nat := 0x0A00040 + 0x10000 * i
def R.CLO_PERF_EXT (i : Nat) : Nat := 0x0A00044 + 0x10000 * i
def R.CLO_PERF_OPND (i : Nat) : Nat := 0x0A00048 + 0x10000 * i
def R.RFI_CTL : Nat := 0x0B00000
def R.RFI_STAT : Nat := 0x0B00004
def R.RFI_JRX_CFG : Nat := 0x0B00010
def R.RFI_JTX_CFG : Nat := 0x0B00014
def R.RFI_SYSREF_CTL : Nat := 0x0B00018
def R.RFI_RX_LAT : Nat := 0x0B00020
def R.RFI_TX_LAT : Nat := 0x0B00024
def R.RFI_ORX_SETTLE : Nat := 0x0B00028
def R.RFI_RXMAP (i : Nat) : Nat := 0x0B00040 + 0x4 * i
def R.RFI_TXMAP (i : Nat) : Nat := 0x0B00060 + 0x4 * i
def R.RFI_CST_BASE_LO : Nat := 0x0B00080
def R.RFI_CST_BASE_HI : Nat := 0x0B00084
def R.RFI_PDR_BASE_LO : Nat := 0x0B00088
def R.RFI_PDR_BASE_HI : Nat := 0x0B0008C
def R.RFI_PDR_PIDX : Nat := 0x0B00090
def R.RFI_PDR_CIDX : Nat := 0x0B00094
def R.RFI_PDR_DROP : Nat := 0x0B00098
def R.RFI_CNV_FMT : Nat := 0x0B000A0
def R.RFI_SBUF_BASE_LO : Nat := 0x0B000B0
def R.RFI_SBUF_BASE_HI : Nat := 0x0B000B4
def R.RFI_SBUF_NSAMP : Nat := 0x0B000B8
def R.RFI_DPD_CTL (i : Nat) : Nat := 0x0B01000 + 0x2000 * i
def R.RFI_DPD_STAT (i : Nat) : Nat := 0x0B01004 + 0x2000 * i
def R.RFI_DPD_LT (i : Nat) : Nat := 0x0B01008 + 0x2000 * i
def R.RFI_DPD_LT_UNDER (i : Nat) : Nat := 0x0B0100C + 0x2000 * i
def R.RFI_DPD_CAP (i : Nat) : Nat := 0x0B01010 + 0x2000 * i
def R.RFI_DPD_CAP_STAT (i : Nat) : Nat := 0x0B01014 + 0x2000 * i
def R.RFI_DPD_CAP_ADDR_LO (i : Nat) : Nat := 0x0B01018 + 0x2000 * i
def R.RFI_DPD_CAP_ADDR_HI (i : Nat) : Nat := 0x0B0101C + 0x2000 * i
def R.RFI_DPD_TERM (i j k : Nat) : Nat := 0x0B01800 + 0x2000 * i + 0x800 * j + 0x4 * k
def R.RFI_DPD_COEF (i j k : Nat) : Nat := 0x0B01A00 + 0x2000 * i + 0x800 * j + 0x4 * k
def R.RFI_AGC_CTL (i : Nat) : Nat := 0x0B09000 + 0x40 * i
def R.RFI_AGC_TARGET (i : Nat) : Nat := 0x0B09004 + 0x40 * i
def R.RFI_AGC_GAIN (i : Nat) : Nat := 0x0B09008 + 0x40 * i
def R.RFI_AGC_LIM (i : Nat) : Nat := 0x0B0900C + 0x40 * i
def R.RFI_AGC_STEPD (i : Nat) : Nat := 0x0B09010 + 0x40 * i
def R.RFI_AGC_FRZ (i : Nat) : Nat := 0x0B09014 + 0x40 * i
def R.RFI_AGC_LAT (i : Nat) : Nat := 0x0B09018 + 0x40 * i
def R.RFI_AGC_STAT (i : Nat) : Nat := 0x0B0901C + 0x40 * i
def R.RFI_MON (i : Nat) : Nat := 0x0B09020 + 0x40 * i
def R.RFI_PRA_CTL (i : Nat) : Nat := 0x0B0A000 + 0x40 * i
def R.RFI_PRA_ROOT (i : Nat) : Nat := 0x0B0A004 + 0x40 * i
def R.RFI_PRA_NCS (i : Nat) : Nat := 0x0B0A008 + 0x40 * i
def R.RFI_PRA_THR (i : Nat) : Nat := 0x0B0A00C + 0x40 * i
def R.RFI_PRA_OCC (i : Nat) : Nat := 0x0B0A010 + 0x40 * i
def R.RFI_SYN_CTL : Nat := 0x0B0B000
def R.RFI_SYN_LIM : Nat := 0x0B0B004
def R.RFI_SYN_FMT : Nat := 0x0B0B008
def R.RFI_SYN_WORD : Nat := 0x0B0B00C
def R.FHS_CTL : Nat := 0x0C00000
def R.FHS_ERR : Nat := 0x0C00004
def R.FHS_QUAD_CFG (i : Nat) : Nat := 0x0C00008 + 0x4 * i
def R.FHS_DAMP : Nat := 0x0C00010
def R.FHS_AGE : Nat := 0x0C00014
def R.FHS_REFILL : Nat := 0x0C00018
def R.FHS_HOST_FN : Nat := 0x0C0001C
def R.FHS_HOST_FLOOD : Nat := 0x0C00020
def R.FHS_CNT_LEARN_FULL : Nat := 0x0C00030
def R.FHS_CNT_LEARN_DROP : Nat := 0x0C00034
def R.FHS_CNT_MOVE : Nat := 0x0C00038
def R.FHS_CNT_FLAP : Nat := 0x0C0003C
def R.FHS_CNT_FLOW_MISS : Nat := 0x0C00040
def R.FHS_CNT_SECT_ERR : Nat := 0x0C00044
def R.FHS_INT_DROP (i : Nat) : Nat := 0x0C00048 + 0x4 * i
def R.FHS_MAC_CMD : Nat := 0x0C00060
def R.FHS_MAC_D0 : Nat := 0x0C00064
def R.FHS_MAC_D1 : Nat := 0x0C00068
def R.FHS_MAC_D2 : Nat := 0x0C0006C
def R.FHS_VLAN (i : Nat) : Nat := 0x0C00100 + 0x8 * i
def R.FHS_VLAN_MASK (i : Nat) : Nat := 0x0C00104 + 0x8 * i
def R.FHS_FLOW (i : Nat) : Nat := 0x0C01000 + 0x10 * i
def R.FHS_FLOW_ATTR (i : Nat) : Nat := 0x0C01004 + 0x10 * i
def R.FHS_CELL_SBUF_LO (i : Nat) : Nat := 0x0C03000 + 0x20 * i
def R.FHS_CELL_SBUF_HI (i : Nat) : Nat := 0x0C03004 + 0x20 * i
def R.FHS_CELL_CFG (i : Nat) : Nat := 0x0C03008 + 0x20 * i
def R.FHS_CELL_SECT (i : Nat) : Nat := 0x0C0300C + 0x20 * i
def R.FHS_P_CTL (i : Nat) : Nat := 0x0C04000 + 0x800 * i
def R.FHS_P_STAT (i : Nat) : Nat := 0x0C04004 + 0x800 * i
def R.FHS_P_PCPMAP (i : Nat) : Nat := 0x0C04008 + 0x800 * i
def R.FHS_P_RX_FRAMES (i : Nat) : Nat := 0x0C04010 + 0x800 * i
def R.FHS_P_RX_BYTES_LO (i : Nat) : Nat := 0x0C04014 + 0x800 * i
def R.FHS_P_RX_BYTES_HI (i : Nat) : Nat := 0x0C04018 + 0x800 * i
def R.FHS_P_TX_FRAMES (i : Nat) : Nat := 0x0C0401C + 0x800 * i
def R.FHS_P_TX_BYTES_LO (i : Nat) : Nat := 0x0C04020 + 0x800 * i
def R.FHS_P_TX_BYTES_HI (i : Nat) : Nat := 0x0C04024 + 0x800 * i
def R.FHS_P_RX_ERR (i : Nat) : Nat := 0x0C04028 + 0x800 * i
def R.FHS_P_VLAN_DROP (i : Nat) : Nat := 0x0C0402C + 0x800 * i
def R.FHS_P_PAUSE_DROP (i : Nat) : Nat := 0x0C04030 + 0x800 * i
def R.FHS_P_LINK_DROP (i : Nat) : Nat := 0x0C04034 + 0x800 * i
def R.FHS_P_FEC_CORR (i : Nat) : Nat := 0x0C04038 + 0x800 * i
def R.FHS_P_FEC_UNCORR (i : Nat) : Nat := 0x0C0403C + 0x800 * i
def R.FHS_P_Q_WEIGHT (i j : Nat) : Nat := 0x0C04100 + 0x800 * i + 0x40 * j
def R.FHS_P_Q_BUF (i j : Nat) : Nat := 0x0C04104 + 0x800 * i + 0x40 * j
def R.FHS_P_Q_SHAPE (i j : Nat) : Nat := 0x0C04108 + 0x800 * i + 0x40 * j
def R.FHS_P_Q_RATE (i j : Nat) : Nat := 0x0C0410C + 0x800 * i + 0x40 * j
def R.FHS_P_Q_BURST (i j : Nat) : Nat := 0x0C04110 + 0x800 * i + 0x40 * j
def R.FHS_P_Q_DEPTH (i j : Nat) : Nat := 0x0C04114 + 0x800 * i + 0x40 * j
def R.FHS_P_Q_PEAK (i j : Nat) : Nat := 0x0C04118 + 0x800 * i + 0x40 * j
def R.FHS_P_Q_DROP (i j : Nat) : Nat := 0x0C0411C + 0x800 * i + 0x40 * j
def R.FHS_P_Q_TOKENS (i j : Nat) : Nat := 0x0C04120 + 0x800 * i + 0x40 * j
def R.SPK_CTL : Nat := 0x0D00000
def R.SPK_STAT : Nat := 0x0D00004
def R.SPK_GEN : Nat := 0x0D00008
def R.SPK_DISC_ERR : Nat := 0x0D0000C
def R.SPK_UID_LO : Nat := 0x0D00010
def R.SPK_UID_HI : Nat := 0x0D00014
def R.SPK_LEADER_LO : Nat := 0x0D00018
def R.SPK_LEADER_HI : Nat := 0x0D0001C
def R.SPK_DISC_TIME : Nat := 0x0D00020
def R.SPK_COLL_FN : Nat := 0x0D00024
def R.SPK_COLL_TIMEOUT : Nat := 0x0D00028
def R.SPK_TC2_QUANTUM : Nat := 0x0D0002C
def R.SPK_TC3_QUANTUM : Nat := 0x0D00030
def R.SPK_MISROUTE : Nat := 0x0D00034
def R.SPK_P_CTL (i : Nat) : Nat := 0x0D01000 + 0x100 * i
def R.SPK_P_STAT (i : Nat) : Nat := 0x0D01004 + 0x100 * i
def R.SPK_P_PUID_LO (i : Nat) : Nat := 0x0D01008 + 0x100 * i
def R.SPK_P_PUID_HI (i : Nat) : Nat := 0x0D0100C + 0x100 * i
def R.SPK_P_RTT (i : Nat) : Nat := 0x0D01010 + 0x100 * i
def R.SPK_P_RETRY (i : Nat) : Nat := 0x0D01014 + 0x100 * i
def R.SPK_P_FEC_CORR (i : Nat) : Nat := 0x0D01018 + 0x100 * i
def R.SPK_P_FEC_UNCORR (i : Nat) : Nat := 0x0D0101C + 0x100 * i
def R.SPK_P_TX_FLITS (i : Nat) : Nat := 0x0D01020 + 0x100 * i
def R.SPK_P_RX_FLITS (i : Nat) : Nat := 0x0D01024 + 0x100 * i
def R.CRY_ERR : Nat := 0x0E00004
def R.CRY_INVAL : Nat := 0x0E00020
def R.CRY_INVAL_ADDR_LO : Nat := 0x0E00024
def R.CRY_INVAL_ADDR_HI : Nat := 0x0E00028
def R.CRY_DIGQ_ADDR_LO : Nat := 0x0E00030
def R.CRY_DIGQ_ADDR_HI : Nat := 0x0E00034
def R.CRY_DIGQ_LEN : Nat := 0x0E00038
def R.CRY_DIGQ_W (i : Nat) : Nat := 0x0E00040 + 0x4 * i
def R.CRY_FN_AUDIT (i : Nat) : Nat := 0x0E00100 + 0x4 * i
def R.CRY_CELL_AUDIT (i : Nat) : Nat := 0x0E01000 + 0x40 * i
def R.CRY_CELL_WSET_LO (i : Nat) : Nat := 0x0E01004 + 0x40 * i
def R.CRY_CELL_WSET_HI (i : Nat) : Nat := 0x0E01008 + 0x40 * i
def R.CRY_CELL_WSET_LEN (i : Nat) : Nat := 0x0E0100C + 0x40 * i
def R.CRY_CELL_LOG_CTL (i : Nat) : Nat := 0x0E01010 + 0x40 * i
def R.CRY_CELL_LOG_BASE_LO (i : Nat) : Nat := 0x0E01014 + 0x40 * i
def R.CRY_CELL_LOG_BASE_HI (i : Nat) : Nat := 0x0E01018 + 0x40 * i
def R.CRY_CELL_LOG_SIZE (i : Nat) : Nat := 0x0E0101C + 0x40 * i
def R.CRY_CELL_LOG_PIDX (i : Nat) : Nat := 0x0E01020 + 0x40 * i
def R.CRY_CELL_LOG_CIDX (i : Nat) : Nat := 0x0E01024 + 0x40 * i
def R.CRY_CELL_LOG_DROP (i : Nat) : Nat := 0x0E01028 + 0x40 * i
def R.CRY_TWIN_CTL : Nat := 0x0E02000
def R.CRY_TWIN_STAT : Nat := 0x0E02004
def R.CRY_TWIN_PUID_LO : Nat := 0x0E02008
def R.CRY_TWIN_PUID_HI : Nat := 0x0E0200C
def R.CRY_TWIN_CNT : Nat := 0x0E02010
def R.CRY_TWIN_EXCL : Nat := 0x0E02014
def R.CRY_TWIN_DIV_KEY_LO : Nat := 0x0E02018
def R.CRY_TWIN_DIV_KEY_HI : Nat := 0x0E0201C
def R.CRY_TWIN_DIV_STAGE : Nat := 0x0E02020
def R.CRY_RPL_CTL : Nat := 0x0E03000
def R.CRY_RPL_LIST_LO : Nat := 0x0E03004
def R.CRY_RPL_LIST_HI : Nat := 0x0E03008
def R.CRY_RPL_N : Nat := 0x0E0300C
def R.FWL_CTL : Nat := 0x0F00000
def R.FWL_STAT : Nat := 0x0F00004
def R.FWL_ERR : Nat := 0x0F00008
def R.FWL_SHADOW_BASE_LO : Nat := 0x0F00010
def R.FWL_SHADOW_BASE_HI : Nat := 0x0F00014
def R.FWL_SHADOW_SIZE : Nat := 0x0F00018
def R.FWL_CELL_CTL (i : Nat) : Nat := 0x0F01000 + 0x40 * i
def R.FWL_CELL_THR (i : Nat) : Nat := 0x0F01004 + 0x40 * i
def R.FWL_CELL_NEXT_LO (i : Nat) : Nat := 0x0F01008 + 0x40 * i
def R.FWL_CELL_NEXT_HI (i : Nat) : Nat := 0x0F0100C + 0x40 * i
def R.FWL_CELL_PLAN_LO (i : Nat) : Nat := 0x0F01010 + 0x40 * i
def R.FWL_CELL_PLAN_HI (i : Nat) : Nat := 0x0F01014 + 0x40 * i
def R.FWL_CELL_EPOCH (i : Nat) : Nat := 0x0F01018 + 0x40 * i
def R.FWL_CELL_CNT_COMMIT (i : Nat) : Nat := 0x0F0101C + 0x40 * i
def R.FWL_CELL_CNT_REPLAY (i : Nat) : Nat := 0x0F01020 + 0x40 * i
def R.FWL_CELL_CNT_NOSPEC (i : Nat) : Nat := 0x0F01024 + 0x40 * i
def R.FWL_CELL_CNT_LATE (i : Nat) : Nat := 0x0F01028 + 0x40 * i
def R.FWL_CELL_CNT_DROP (i : Nat) : Nat := 0x0F0102C + 0x40 * i
def R.VIS_ID (p : Nat) : Nat := p + 0x0000000
def R.VIS_CAPS (p : Nat) : Nat := p + 0x0000004
def R.VIS_TILEMAP (p : Nat) : Nat := p + 0x0000008
def R.VIS_STATUS (p : Nat) : Nat := p + 0x0000010
def R.VIS_ERR (p : Nat) : Nat := p + 0x0000014
def R.VIS_DB_LO (p : Nat) : Nat := p + 0x0000020
def R.VIS_DB_HI (p : Nat) : Nat := p + 0x0000024
def R.VIS_SH_LO (p : Nat) : Nat := p + 0x0000028
def R.VIS_SH_HI (p : Nat) : Nat := p + 0x000002C
def R.VIS_POLL (p : Nat) : Nat := p + 0x0000030
def R.VIS_POLL_BO (p : Nat) : Nat := p + 0x0000034
def R.VIS_SQ_BASE_LO (p i : Nat) : Nat := p + 0x0000100 + 0x20 * i
def R.VIS_SQ_BASE_HI (p i : Nat) : Nat := p + 0x0000104 + 0x20 * i
def R.VIS_SQ_CFG (p i : Nat) : Nat := p + 0x0000108 + 0x20 * i
def R.VIS_CQ_BASE_LO (p i : Nat) : Nat := p + 0x0000200 + 0x20 * i
def R.VIS_CQ_BASE_HI (p i : Nat) : Nat := p + 0x0000204 + 0x20 * i
def R.VIS_CQ_CFG (p i : Nat) : Nat := p + 0x0000208 + 0x20 * i
def R.VIS_CQ_COAL (p i : Nat) : Nat := p + 0x000020C + 0x20 * i
def R.VIS_CQ_DIVERT (p i : Nat) : Nat := p + 0x0000210 + 0x20 * i
def R.VIS_EQ_BASE_LO (p : Nat) : Nat := p + 0x0000300
def R.VIS_EQ_BASE_HI (p : Nat) : Nat := p + 0x0000304
def R.VIS_EQ_CFG (p : Nat) : Nat := p + 0x0000308
def R.VIS_EQ_COAL (p : Nat) : Nat := p + 0x000030C
def R.VIS_EQ_DROP (p : Nat) : Nat := p + 0x0000310
def R.VIS_EQ_STAT (p : Nat) : Nat := p + 0x0000314
def R.VIS_RR_BASE_LO (p : Nat) : Nat := p + 0x0000380
def R.VIS_RR_BASE_HI (p : Nat) : Nat := p + 0x0000384
def R.VIS_RR_CFG (p : Nat) : Nat := p + 0x0000388
def R.VIS_RR_COAL (p : Nat) : Nat := p + 0x000038C
def R.VIS_RR_BKLOG_LO (p : Nat) : Nat := p + 0x0000390
def R.VIS_RR_BKLOG_HI (p : Nat) : Nat := p + 0x0000394
def R.VIS_RR_BKLOG_SIZE (p : Nat) : Nat := p + 0x0000398
def R.VIS_RR_LOST (p : Nat) : Nat := p + 0x000039C
def R.VIS_TILEMASK (p : Nat) : Nat := p + 0x0000500
def R.VIS_COREMASK (p : Nat) : Nat := p + 0x0000504
def R.VIS_QUOTA (p : Nat) : Nat := p + 0x0000508
def R.VIS_BEL_SNAP (p i : Nat) : Nat := p + 0x0000610 + 0x4 * i
def R.VIS_SEQ_CMD (p : Nat) : Nat := p + 0x0000700
def R.VIS_SEQ_CMD_STAT (p : Nat) : Nat := p + 0x0000704
def R.VIS_MSIX_LO (p i : Nat) : Nat := p + 0x000E000 + 0x10 * i
def R.VIS_MSIX_HI (p i : Nat) : Nat := p + 0x000E004 + 0x10 * i
def R.VIS_MSIX_DATA (p i : Nat) : Nat := p + 0x000E008 + 0x10 * i
def R.VIS_MSIX_CTL (p i : Nat) : Nat := p + 0x000E00C + 0x10 * i
def R.VIS_PBA (p : Nat) : Nat := p + 0x000F000

/-- The VIS page of a function: VI0-VI15 are functions 0-15, the PF is function 16 (R313, R314). -/
def visPage (f : Nat) : Nat := if f = 16 then 0x0010000 else 0x1000000 + 0x10000 * f


/-! Fields. -/

def F.GLB_ID_PART : Fld := ⟨31, 16⟩
def F.GLB_ID_STEP : Fld := ⟨7, 0⟩
def F.GLB_CAPS_TILES : Fld := ⟨5, 0⟩
def F.GLB_CAPS_CORES : Fld := ⟨12, 8⟩
def F.GLB_CAPS_HBM_STACKS : Fld := ⟨19, 16⟩
def F.GLB_CAPS_SPOKE_PORTS : Fld := ⟨28, 24⟩
def F.GLB_TILEMAP_MAP : Fld := ⟨31, 0⟩
def F.GLB_STATUS_SEALED : Fld := ⟨0, 0⟩
def F.GLB_STATUS_START : Fld := ⟨5, 4⟩
def F.GLB_STATUS_OVERRIDE : Fld := ⟨6, 6⟩
def F.GLB_SEAL_KEY : Fld := ⟨31, 0⟩
def F.GLB_EXPERT_BITS : Fld := ⟨12, 0⟩
def F.GLB_ERR_SEAL_WR : Fld := ⟨0, 0⟩
def F.GLB_ERR_EXPERT_WR : Fld := ⟨1, 1⟩
def F.GLB_ERR_REPORT_LOST : Fld := ⟨2, 2⟩
def F.GLB_DISC_OFFSET : Fld := ⟨24, 0⟩
def F.GLB_DISC_FUNC : Fld := ⟨29, 25⟩
def F.GLB_DISC_KIND : Fld := ⟨30, 30⟩
def F.GLB_DISC_VALID : Fld := ⟨31, 31⟩
def F.GLB_POLL_LATE_CNT : Fld := ⟨31, 0⟩
def F.GLB_ISL_STAT_FREQ_MHZ : Fld := ⟨15, 0⟩
def F.GLB_ISL_STAT_POWERED : Fld := ⟨16, 16⟩
def F.GLB_CLO_RT_CORES : Fld := ⟨15, 0⟩
def F.GLB_NAV_RT_TILES : Fld := ⟨31, 0⟩
def F.GLB_NAV_PRE_TILES : Fld := ⟨31, 0⟩
def F.GLB_NAV_PRE_SE_SE : Fld := ⟨23, 0⟩
def F.GLB_RST_CAUSE_PORST : Fld := ⟨0, 0⟩
def F.GLB_RST_CAUSE_SYSRST : Fld := ⟨1, 1⟩
def F.GLB_RST_CAUSE_PERST : Fld := ⟨2, 2⟩
def F.GLB_RST_CAUSE_PF_FLR : Fld := ⟨3, 3⟩
def F.GLB_RST_CAUSE_LINK_DOWN : Fld := ⟨4, 4⟩
def F.GLB_RST_CAUSE_VF_FLR : Fld := ⟨5, 5⟩
def F.GLB_VIRST_VI : Fld := ⟨3, 0⟩
def F.GLB_VIRST_GO : Fld := ⟨31, 31⟩
def F.GLB_VIRST_STAT_VIS : Fld := ⟨15, 0⟩
def F.GLB_HOLD_BASE_LO_ADDR : Fld := ⟨31, 6⟩
def F.GLB_HOLD_BASE_HI_ADDR : Fld := ⟨31, 0⟩
def F.GLB_HOLD_SIZE_ENTRIES : Fld := ⟨16, 0⟩
def F.GLB_HOLD_CNT_CNT : Fld := ⟨31, 0⟩
def F.GLB_UNIT_SEL_KIND : Fld := ⟨3, 0⟩
def F.GLB_UNIT_SEL_INDEX : Fld := ⟨12, 8⟩
def F.GLB_UNIT_STAT_MGMT : Fld := ⟨1, 0⟩
def F.GLB_UNIT_STAT_DATA : Fld := ⟨5, 4⟩
def F.GLB_UNIT_STAT_SKEW : Fld := ⟨8, 8⟩
def F.GLB_UNIT_STAT_DRAINING : Fld := ⟨9, 9⟩
def F.GLB_UNIT_CLR_GO : Fld := ⟨0, 0⟩
def F.GLB_SKEW_CNT_CNT : Fld := ⟨31, 0⟩
def F.GLB_MODES_PROFILE : Fld := ⟨1, 0⟩
def F.GLB_MODES_RADIO : Fld := ⟨3, 2⟩
def F.GLB_MODES_START : Fld := ⟨5, 4⟩
def F.GLB_MODES_OVERRIDE : Fld := ⟨6, 6⟩
def F.GLB_MODES_TWIN : Fld := ⟨10, 8⟩
def F.GLB_MODES_SEALED : Fld := ⟨12, 12⟩
def F.GLB_MODES_EXPERT : Fld := ⟨28, 16⟩
def F.GLB_PMB_CFG_NAVE_ADDR : Fld := ⟨6, 0⟩
def F.GLB_PMB_CFG_CLO_ADDR : Fld := ⟨14, 8⟩
def F.GLB_PMB_CFG_RATE : Fld := ⟨16, 16⟩
def F.GLB_PMB_CFG_SLEW : Fld := ⟨31, 24⟩
def F.GLB_ELE_STAT_PMB_ERR : Fld := ⟨0, 0⟩
def F.GLB_ELE_STAT_REG : Fld := ⟨1, 1⟩
def F.GLB_ELE_STAT_MODE_ERR : Fld := ⟨2, 2⟩
def F.PF_MSIX_LO_ADDR : Fld := ⟨31, 2⟩
def F.PF_MSIX_HI_ADDR : Fld := ⟨31, 0⟩
def F.PF_MSIX_DATA_DATA : Fld := ⟨31, 0⟩
def F.PF_MSIX_CTL_MASK : Fld := ⟨0, 0⟩
def F.PF_PBA_PENDING : Fld := ⟨31, 0⟩
def F.CHM_CTL_FORCE_RECOVERY : Fld := ⟨0, 0⟩
def F.CHM_ERR_OVR_STATE : Fld := ⟨0, 0⟩
def F.CHM_ERR_CMD_BUSY : Fld := ⟨1, 1⟩
def F.CHM_BOOT_STAT_REASON : Fld := ⟨2, 0⟩
def F.CHM_BOOT_STAT_BANK : Fld := ⟨4, 4⟩
def F.CHM_BOOT_STAT_FALLBACK : Fld := ⟨5, 5⟩
def F.CHM_BOOT_STAT_BOOT_SRC : Fld := ⟨9, 8⟩
def F.CHM_BOOT_STAT_PROFILE : Fld := ⟨13, 12⟩
def F.CHM_BOOT_STAT_TWIN_EN : Fld := ⟨16, 16⟩
def F.CHM_BOOT_STAT_REVOKED : Fld := ⟨23, 20⟩
def F.CHM_FW_CHF_VERSION : Fld := ⟨31, 0⟩
def F.CHM_FW_CRF_VERSION : Fld := ⟨31, 0⟩
def F.CHM_FW_SLF_VERSION : Fld := ⟨31, 0⟩
def F.CHM_ILEVEL0_CHF : Fld := ⟨15, 0⟩
def F.CHM_ILEVEL0_CRF : Fld := ⟨31, 16⟩
def F.CHM_ILEVEL1_SLF : Fld := ⟨15, 0⟩
def F.CHM_OVR_EN : Fld := ⟨0, 0⟩
def F.CHM_CMD_OP : Fld := ⟨7, 0⟩
def F.CHM_CMD_GO : Fld := ⟨31, 31⟩
def F.CHM_STAT_BUSY : Fld := ⟨0, 0⟩
def F.CHM_STAT_RESULT : Fld := ⟨7, 4⟩
def F.CHM_STAT_PROBE_START : Fld := ⟨9, 8⟩
def F.CHM_STAT_PROBE_REASON : Fld := ⟨14, 12⟩
def F.CHM_STAT_SESSION : Fld := ⟨16, 16⟩
def F.CHM_ARG_ARG : Fld := ⟨31, 0⟩
def F.CHM_RSP_RSP : Fld := ⟨31, 0⟩
def F.CHM_PROF_REQ_PROFILE : Fld := ⟨1, 0⟩
def F.CHM_PROF_REQ_SG : Fld := ⟨9, 8⟩
def F.CHM_PROF_REQ_GO : Fld := ⟨31, 31⟩
def F.CHM_PROF_STAT_CUR : Fld := ⟨1, 0⟩
def F.CHM_PROF_STAT_TARGET : Fld := ⟨5, 4⟩
def F.CHM_PROF_STAT_PENDING : Fld := ⟨8, 8⟩
def F.CHM_PROF_STAT_HELD : Fld := ⟨9, 9⟩
def F.CHM_PROF_SG_SG : Fld := ⟨1, 0⟩
def F.CHM_TILE_PWR_TILES : Fld := ⟨31, 0⟩
def F.CHM_DVFS_NV_REQ : Fld := ⟨1, 0⟩
def F.CHM_DVFS_CL_REQ : Fld := ⟨5, 4⟩
def F.CHM_DVFS_NV_EFF : Fld := ⟨17, 16⟩
def F.CHM_DVFS_CL_EFF : Fld := ⟨21, 20⟩
def F.CHM_THR_HOT : Fld := ⟨7, 0⟩
def F.CHM_THR_HBM_HOT : Fld := ⟨15, 8⟩
def F.CHM_THR_STAT_ACTIVE : Fld := ⟨0, 0⟩
def F.CHM_THR_STAT_CAUSE : Fld := ⟨2, 1⟩
def F.CHM_THR_CNT_CNT : Fld := ⟨31, 0⟩
def F.CHM_SMB_ADDR_ADDR : Fld := ⟨6, 0⟩
def F.CHM_EID_EID : Fld := ⟨7, 0⟩
def F.CHM_TEMP_TEMP : Fld := ⟨11, 0⟩
def F.CHM_TMAX_VALUE : Fld := ⟨11, 0⟩
def F.CHM_TMAX_SENSOR : Fld := ⟨20, 16⟩
def F.CHM_PWR_MW : Fld := ⟨31, 0⟩
def F.CHM_ENERGY_LO_MJ : Fld := ⟨31, 0⟩
def F.CHM_ENERGY_HI_MJ : Fld := ⟨31, 0⟩
def F.CHM_CORE_SIG_CORES : Fld := ⟨15, 0⟩
def F.CHM_WIN_WORD : Fld := ⟨31, 0⟩
def F.BEL_STATUS_TSTATE : Fld := ⟨1, 0⟩
def F.BEL_STATUS_SET_RANGE : Fld := ⟨8, 8⟩
def F.BEL_STATUS_OFS_LOST : Fld := ⟨9, 9⟩
def F.BEL_STATUS_ADJ_CLAMPED : Fld := ⟨10, 10⟩
def F.BEL_STATUS_TIME_STEPPED : Fld := ⟨11, 11⟩
def F.BEL_STATUS_NONOWNER : Fld := ⟨12, 12⟩
def F.BEL_CTL_OWNER : Fld := ⟨0, 0⟩
def F.BEL_TOD_NS_NS : Fld := ⟨29, 0⟩
def F.BEL_TOD_SEC_LO_SEC : Fld := ⟨31, 0⟩
def F.BEL_TOD_SEC_HI_SEC : Fld := ⟨15, 0⟩
def F.BEL_TOD_FRAC_FRAC : Fld := ⟨15, 0⟩
def F.BEL_SNAP_DNC_LO_DNC : Fld := ⟨31, 0⟩
def F.BEL_SNAP_DNC_HI_DNC : Fld := ⟨31, 0⟩
def F.BEL_DNC_LO_DNC : Fld := ⟨31, 0⟩
def F.BEL_DNC_HI_DNC : Fld := ⟨31, 0⟩
def F.BEL_SET_SEC_LO_SEC : Fld := ⟨31, 0⟩
def F.BEL_SET_SEC_HI_SEC : Fld := ⟨15, 0⟩
def F.BEL_SET_NS_NS : Fld := ⟨31, 0⟩
def F.BEL_SET_FRAC_FRAC : Fld := ⟨15, 0⟩
def F.BEL_SET_CTL_GO : Fld := ⟨0, 0⟩
def F.BEL_SET_CTL_OFS_GO : Fld := ⟨1, 1⟩
def F.BEL_SET_CTL_AT_DNC : Fld := ⟨2, 2⟩
def F.BEL_SET_CTL_CANCEL : Fld := ⟨3, 3⟩
def F.BEL_SET_DNC_LO_DNC : Fld := ⟨31, 0⟩
def F.BEL_SET_DNC_HI_DNC : Fld := ⟨7, 0⟩
def F.BEL_OFS_LO_OFS : Fld := ⟨31, 0⟩
def F.BEL_OFS_HI_OFS : Fld := ⟨31, 0⟩
def F.BEL_FREQ_ADJ_ADJ : Fld := ⟨31, 0⟩
def F.BEL_SG_CTL_EN : Fld := ⟨0, 0⟩
def F.BEL_SG_CTL_NSYM : Fld := ⟨11, 8⟩
def F.BEL_SG_PERIOD_NS : Fld := ⟨31, 0⟩
def F.BEL_SG_PHASE_NS : Fld := ⟨31, 0⟩
def F.BEL_SG_COUNT_COUNT : Fld := ⟨31, 0⟩
def F.BEL_SG_DNC_LO_DNC : Fld := ⟨31, 0⟩
def F.BEL_SG_DNC_HI_DNC : Fld := ⟨31, 0⟩
def F.BEL_SG_STAT_STATE : Fld := ⟨1, 0⟩
def F.BEL_SG_STAT_CFG_ERR : Fld := ⟨8, 8⟩
def F.BEL_SG_STAT_SKIPPED : Fld := ⟨9, 9⟩
def F.BEL_SG_SYM_T : Fld := ⟨31, 0⟩
def F.BEL_CMP_CTL_MODE : Fld := ⟨2, 0⟩
def F.BEL_CMP_CTL_SG : Fld := ⟨5, 4⟩
def F.BEL_CMP_CTL_ARM : Fld := ⟨8, 8⟩
def F.BEL_CMP_CTL_DEST : Fld := ⟨19, 16⟩
def F.BEL_CMP_TGT_LO_TGT : Fld := ⟨31, 0⟩
def F.BEL_CMP_TGT_HI_TGT : Fld := ⟨7, 0⟩
def F.BEL_CMP_PERIOD_NS : Fld := ⟨31, 0⟩
def F.BEL_CMP_STAT_FIRED : Fld := ⟨0, 0⟩
def F.BEL_CMP_STAT_CFG_ERR : Fld := ⟨1, 1⟩
def F.BEL_CMP_STAT_QOVF : Fld := ⟨2, 2⟩
def F.BEL_CMP_FIRE_LO_DNC : Fld := ⟨31, 0⟩
def F.BEL_CMP_FIRE_HI_DNC : Fld := ⟨31, 0⟩
def F.BEL_PPSOUT_CTL_EN : Fld := ⟨0, 0⟩
def F.BEL_PPSOUT_OFS_NS : Fld := ⟨31, 0⟩
def F.BEL_PPSOUT_WIDTH_US : Fld := ⟨31, 0⟩
def F.BEL_PPSIN_CTL_EN : Fld := ⟨0, 0⟩
def F.BEL_PPSIN_CTL_EDGE : Fld := ⟨1, 1⟩
def F.BEL_PPSIN_NS_NS : Fld := ⟨31, 0⟩
def F.BEL_PPSIN_SEC_LO_SEC : Fld := ⟨31, 0⟩
def F.BEL_PPSIN_SEC_HI_SEC : Fld := ⟨15, 0⟩
def F.BEL_PPSIN_DNC_LO_DNC : Fld := ⟨31, 0⟩
def F.BEL_PPSIN_DNC_HI_DNC : Fld := ⟨31, 0⟩
def F.BEL_PPSIN_CNT_CNT : Fld := ⟨15, 0⟩
def F.BEL_RCLK_CTL_EN : Fld := ⟨0, 0⟩
def F.BEL_RCLK_CTL_FREQ : Fld := ⟨2, 1⟩
def F.BEL_TSR_BASE_LO_ADDR : Fld := ⟨31, 8⟩
def F.BEL_TSR_BASE_HI_ADDR : Fld := ⟨31, 0⟩
def F.BEL_TSR_CIDX_LO_ADDR : Fld := ⟨31, 2⟩
def F.BEL_TSR_CIDX_HI_ADDR : Fld := ⟨31, 0⟩
def F.BEL_TSR_CTL_EN : Fld := ⟨0, 0⟩
def F.BEL_TSR_DROP_CNT : Fld := ⟨31, 0⟩
def F.BEL_TSR_STAT_OVF : Fld := ⟨0, 0⟩
def F.BEL_TSR_STAT_PIDX : Fld := ⟨31, 16⟩
def F.BEL_TSR_CORR_EGRESS : Fld := ⟨15, 0⟩
def F.BEL_TSR_CORR_INGRESS : Fld := ⟨31, 16⟩
def F.SE_CTL_EN : Fld := ⟨0, 0⟩
def F.SE_ERR_SEM_AGENT : Fld := ⟨0, 0⟩
def F.SE_ERR_SEM_OVF : Fld := ⟨1, 1⟩
def F.SE_ERR_SEM_BUSY : Fld := ⟨2, 2⟩
def F.SE_ERR_RESV_START : Fld := ⟨3, 3⟩
def F.SE_FENCE_STAT_VIS : Fld := ⟨15, 0⟩
def F.SE_FENCE_STAT_PF : Fld := ⟨16, 16⟩
def F.SE_FENCE_MAX_NS : Fld := ⟨15, 0⟩
def F.SE_CH_OWN_VI : Fld := ⟨3, 0⟩
def F.SE_CH_OWN_PF : Fld := ⟨4, 4⟩
def F.SE_CH_CTL_GO : Fld := ⟨0, 0⟩
def F.SE_CH_CTL_BOUNDARY : Fld := ⟨1, 1⟩
def F.SE_CH_LIST_LO_ADDR : Fld := ⟨31, 0⟩
def F.SE_CH_LIST_HI_ADDR : Fld := ⟨31, 0⟩
def F.SE_CH_STAT_STATE : Fld := ⟨1, 0⟩
def F.SE_CH_STAT_SWAP_PEND : Fld := ⟨2, 2⟩
def F.SE_CH_STAT_STATUS : Fld := ⟨15, 8⟩
def F.SE_CH_BYTES_BYTES : Fld := ⟨31, 0⟩
def F.SE_CH_CUR_ADDR : Fld := ⟨31, 0⟩
def F.SE_CH_HAZ_CNT : Fld := ⟨31, 0⟩
def F.SE_PERF_BYTES_CNT : Fld := ⟨31, 0⟩
def F.SE_SEM_CFG_DEPTH : Fld := ⟨8, 0⟩
def F.SE_SEM_CFG_PROD : Fld := ⟨23, 16⟩
def F.SE_SEM_CFG_CONS : Fld := ⟨31, 24⟩
def F.SE_SEM_OWN_VI : Fld := ⟨3, 0⟩
def F.SE_SEM_OWN_PF : Fld := ⟨4, 4⟩
def F.SE_SEM_OWN_EN : Fld := ⟨8, 8⟩
def F.SE_SEM_CNT_FULL : Fld := ⟨8, 0⟩
def F.SE_SEM_CNT_EMPTY : Fld := ⟨24, 16⟩
def F.SE_SEM_OP_OP : Fld := ⟨1, 0⟩
def F.SE_CSL_EN : Fld := ⟨0, 0⟩
def F.SE_CSL_LINE : Fld := ⟨18, 6⟩
def F.MMU_CTL_EN : Fld := ⟨0, 0⟩
def F.MMU_ERR_INV_BUSY : Fld := ⟨0, 0⟩
def F.MMU_ERR_INV_ARG : Fld := ⟨1, 1⟩
def F.MMU_PF_ROOT_LO_ADDR : Fld := ⟨31, 12⟩
def F.MMU_PF_ROOT_HI_ADDR : Fld := ⟨31, 0⟩
def F.MMU_PF_WAYMASK_WAYS : Fld := ⟨15, 0⟩
def F.MMU_INV_GO : Fld := ⟨0, 0⟩
def F.MMU_INV_SPACE : Fld := ⟨8, 4⟩
def F.MMU_INV_ALL : Fld := ⟨9, 9⟩
def F.MMU_INV_VA_LO_VA : Fld := ⟨31, 16⟩
def F.MMU_INV_VA_HI_VA : Fld := ⟨15, 0⟩
def F.MMU_INV_SIZE_PAGES : Fld := ⟨23, 0⟩
def F.MMU_VI_ROOT_LO_ADDR : Fld := ⟨31, 0⟩
def F.MMU_VI_ROOT_HI_ADDR : Fld := ⟨31, 0⟩
def F.MMU_VI_WAYMASK_WAYS : Fld := ⟨15, 0⟩
def F.MMU_VI_WIN_BASE_LO_ADDR : Fld := ⟨31, 16⟩
def F.MMU_VI_WIN_BASE_HI_ADDR : Fld := ⟨31, 0⟩
def F.MMU_VI_WIN_LIMIT_LO_ADDR : Fld := ⟨31, 16⟩
def F.MMU_VI_WIN_LIMIT_HI_ADDR : Fld := ⟨31, 0⟩
def F.MMU_FAULT_VA_LO_VA : Fld := ⟨31, 0⟩
def F.MMU_FAULT_VA_HI_VA : Fld := ⟨31, 0⟩
def F.MMU_FAULT_INFO_REASON : Fld := ⟨2, 0⟩
def F.MMU_FAULT_INFO_LEVEL : Fld := ⟨5, 4⟩
def F.MMU_FAULT_INFO_FRAME : Fld := ⟨6, 6⟩
def F.MMU_FAULT_INFO_AGENT : Fld := ⟨15, 8⟩
def F.MMU_FAULT_INFO_VALID : Fld := ⟨16, 16⟩
def F.MMU_FAULT_CNT_CNT : Fld := ⟨31, 0⟩
def F.MEM_CTL_SPILL_WAYS : Fld := ⟨3, 0⟩
def F.MEM_STAT_SLOTS : Fld := ⟨5, 0⟩
def F.MEM_STAT_SPILL_SHORT : Fld := ⟨8, 8⟩
def F.MEM_STAT_SPILL_CLAMP : Fld := ⟨9, 9⟩
def F.MEM_STAT_HOT : Fld := ⟨23, 16⟩
def F.MEM_STAT_SELFREF : Fld := ⟨31, 24⟩
def F.MEM_STAT_PRE_EFF_TILES : Fld := ⟨31, 0⟩
def F.MEM_CE_THR_THR : Fld := ⟨31, 0⟩
def F.MEM_HBM_CE_CNT : Fld := ⟨31, 0⟩
def F.MEM_HBM_UE_CNT : Fld := ⟨31, 0⟩
def F.MEM_HBM_UE_ADDR_LO_PA : Fld := ⟨31, 0⟩
def F.MEM_HBM_UE_ADDR_HI_PA : Fld := ⟨30, 0⟩
def F.MEM_HBM_UE_ADDR_HI_VALID : Fld := ⟨31, 31⟩
def F.MEM_HBM_TEMP_TEMP : Fld := ⟨7, 0⟩
def F.MEM_TC_HIT_CNT : Fld := ⟨31, 0⟩
def F.MEM_TC_MISS_CNT : Fld := ⟨31, 0⟩
def F.MEM_TC_MERGE_CNT : Fld := ⟨31, 0⟩
def F.MEM_TC_DEAD_CNT : Fld := ⟨31, 0⟩
def F.MEM_TC_CE_CNT : Fld := ⟨31, 0⟩
def F.MEM_TC_UE_CNT : Fld := ⟨31, 0⟩
def F.SEQ_CTL_EN : Fld := ⟨0, 0⟩
def F.SEQ_ERR_GRP_CFG : Fld := ⟨0, 0⟩
def F.SEQ_ERR_CMD_BUSY : Fld := ⟨1, 1⟩
def F.SEQ_TBL_LO_ADDR : Fld := ⟨31, 12⟩
def F.SEQ_TBL_HI_ADDR : Fld := ⟨31, 0⟩
def F.SEQ_TBL_SIZE_ENTRIES : Fld := ⟨31, 0⟩
def F.SEQ_CMD_INDEX : Fld := ⟨19, 0⟩
def F.SEQ_CMD_OP : Fld := ⟨25, 24⟩
def F.SEQ_CMD_GO : Fld := ⟨31, 31⟩
def F.SEQ_CMD_STAT_BUSY : Fld := ⟨0, 0⟩
def F.SEQ_CMD_STAT_RESULT : Fld := ⟨6, 4⟩
def F.SEQ_SAT_THR : Fld := ⟨6, 0⟩
def F.SEQ_OCC_PCT : Fld := ⟨6, 0⟩
def F.SEQ_CNT_APPEND_CNT : Fld := ⟨31, 0⟩
def F.SEQ_CNT_FULL_CNT : Fld := ⟨31, 0⟩
def F.SEQ_CNT_INACTIVE_CNT : Fld := ⟨31, 0⟩
def F.SEQ_GRP_CFG_VALID : Fld := ⟨0, 0⟩
def F.SEQ_GRP_CFG_MODE : Fld := ⟨1, 1⟩
def F.SEQ_GRP_CFG_USE : Fld := ⟨2, 2⟩
def F.SEQ_GRP_CFG_LAYERS : Fld := ⟨9, 4⟩
def F.SEQ_GRP_CFG_LAYB : Fld := ⟨31, 16⟩
def F.SEQ_GRP_OWN_VI : Fld := ⟨3, 0⟩
def F.SEQ_GRP_OWN_PF : Fld := ⟨4, 4⟩
def F.SEQ_BCTX_CTL_JOIN_CAP : Fld := ⟨15, 0⟩
def F.SEQ_BCTX_BUDGET_UNITS : Fld := ⟨31, 0⟩
def F.SEQ_BCTX_STEP_STEP : Fld := ⟨31, 0⟩
def F.SEQ_BCTX_DEFER_CNT : Fld := ⟨31, 0⟩
def F.SEQ_BCTX_JOIN_CNT : Fld := ⟨31, 0⟩
def F.SEQ_BCTX_OWN_VI : Fld := ⟨3, 0⟩
def F.SEQ_BCTX_OWN_PF : Fld := ⟨4, 4⟩
def F.NAV_CTL_PRE_REQ : Fld := ⟨0, 0⟩
def F.NAV_CTL_PRE_REL : Fld := ⟨1, 1⟩
def F.NAV_CTL_CLR : Fld := ⟨2, 2⟩
def F.NAV_STAT_STATE : Fld := ⟨2, 0⟩
def F.NAV_STAT_ROLE : Fld := ⟨3, 3⟩
def F.NAV_STAT_ECC_CE : Fld := ⟨8, 8⟩
def F.NAV_STAT_PRE_OVER : Fld := ⟨9, 9⟩
def F.NAV_STAT_OWNER : Fld := ⟨19, 16⟩
def F.NAV_STAT_OWNER_PF : Fld := ⟨20, 20⟩
def F.NAV_CNT_PASS_CNT : Fld := ⟨31, 0⟩
def F.NAV_CNT_MVP_CNT : Fld := ⟨31, 0⟩
def F.NAV_CNT_STALL_CNT : Fld := ⟨31, 0⟩
def F.NAV_CNT_PRE_CNT : Fld := ⟨31, 0⟩
def F.NAV_PRE_MAX_NS : Fld := ⟨15, 0⟩
def F.NAV_STR_STAT_HELD : Fld := ⟨8, 0⟩
def F.NAV_STR_STAT_MODE : Fld := ⟨17, 16⟩
def F.NAV_STR_STAT_OPEN : Fld := ⟨18, 18⟩
def F.NAV_STR_AGE_CYC : Fld := ⟨15, 0⟩
def F.CLO_CTL_EN : Fld := ⟨0, 0⟩
def F.CLO_CTL_HALT : Fld := ⟨1, 1⟩
def F.CLO_CTL_STEP : Fld := ⟨2, 2⟩
def F.CLO_CTL_CLR : Fld := ⟨3, 3⟩
def F.CLO_CTL_RESUME : Fld := ⟨4, 4⟩
def F.CLO_STAT_STATE : Fld := ⟨1, 0⟩
def F.CLO_STAT_AOVF : Fld := ⟨8, 8⟩
def F.CLO_STAT_EVOVF : Fld := ⟨9, 9⟩
def F.CLO_STAT_IMWR : Fld := ⟨10, 10⟩
def F.CLO_STAT_DMECC : Fld := ⟨11, 11⟩
def F.CLO_STAT_FAULT : Fld := ⟨15, 12⟩
def F.CLO_STAT_FAULT_PC : Fld := ⟨27, 16⟩
def F.CLO_ENTRY_BUNDLE : Fld := ⟨11, 0⟩
def F.CLO_IVEC_BUNDLE : Fld := ⟨11, 0⟩
def F.CLO_STI_MASK : Fld := ⟨15, 0⟩
def F.CLO_EVP_EVP : Fld := ⟨18, 0⟩
def F.CLO_IEN_IEN : Fld := ⟨18, 0⟩
def F.CLO_EVLOST_CNT : Fld := ⟨31, 0⟩
def F.CLO_DBG_SCALE : Fld := ⟨4, 0⟩
def F.CLO_DBG_BFP : Fld := ⟨8, 8⟩
def F.CLO_DBG_HEAD : Fld := ⟨15, 12⟩
def F.CLO_DBG_RRB : Fld := ⟨19, 16⟩
def F.CLO_DBG_PC : Fld := ⟨31, 20⟩
def F.CLO_IMA_ADDR : Fld := ⟨13, 0⟩
def F.CLO_IMD_DATA : Fld := ⟨31, 0⟩
def F.CLO_DMA_ADDR : Fld := ⟨18, 2⟩
def F.CLO_DMD_DATA : Fld := ⟨31, 0⟩
def F.CLO_PERF_CYC_CNT : Fld := ⟨31, 0⟩
def F.CLO_PERF_EXT_CNT : Fld := ⟨31, 0⟩
def F.CLO_PERF_OPND_CNT : Fld := ⟨31, 0⟩
def F.RFI_CTL_MODE : Fld := ⟨1, 0⟩
def F.RFI_CTL_RX_EN : Fld := ⟨4, 4⟩
def F.RFI_CTL_TX_EN : Fld := ⟨5, 5⟩
def F.RFI_CTL_SG : Fld := ⟨9, 8⟩
def F.RFI_STAT_RX_LOCK : Fld := ⟨0, 0⟩
def F.RFI_STAT_TX_LOCK : Fld := ⟨1, 1⟩
def F.RFI_STAT_ALIGN_JUMP : Fld := ⟨8, 8⟩
def F.RFI_STAT_CFG_ERR : Fld := ⟨9, 9⟩
def F.RFI_STAT_RX_LOCK_LOST : Fld := ⟨10, 10⟩
def F.RFI_STAT_TX_LOCK_LOST : Fld := ⟨11, 11⟩
def F.RFI_STAT_ALIGN_PH : Fld := ⟨27, 16⟩
def F.RFI_JRX_CFG_L : Fld := ⟨3, 0⟩
def F.RFI_JRX_CFG_M : Fld := ⟨7, 4⟩
def F.RFI_JRX_CFG_N : Fld := ⟨12, 8⟩
def F.RFI_JRX_CFG_E : Fld := ⟨19, 16⟩
def F.RFI_JRX_CFG_CLKMUL : Fld := ⟨28, 24⟩
def F.RFI_JTX_CFG_L : Fld := ⟨3, 0⟩
def F.RFI_JTX_CFG_M : Fld := ⟨7, 4⟩
def F.RFI_JTX_CFG_N : Fld := ⟨12, 8⟩
def F.RFI_JTX_CFG_E : Fld := ⟨19, 16⟩
def F.RFI_JTX_CFG_CLKMUL : Fld := ⟨28, 24⟩
def F.RFI_SYSREF_CTL_CONT : Fld := ⟨0, 0⟩
def F.RFI_RX_LAT_SAMPLES : Fld := ⟨12, 0⟩
def F.RFI_TX_LAT_SAMPLES : Fld := ⟨12, 0⟩
def F.RFI_ORX_SETTLE_US : Fld := ⟨7, 0⟩
def F.RFI_RXMAP_I : Fld := ⟨3, 0⟩
def F.RFI_RXMAP_Q : Fld := ⟨7, 4⟩
def F.RFI_RXMAP_DEC : Fld := ⟨9, 8⟩
def F.RFI_RXMAP_EN : Fld := ⟨16, 16⟩
def F.RFI_TXMAP_I : Fld := ⟨3, 0⟩
def F.RFI_TXMAP_Q : Fld := ⟨7, 4⟩
def F.RFI_TXMAP_INT : Fld := ⟨9, 8⟩
def F.RFI_TXMAP_EN : Fld := ⟨16, 16⟩
def F.RFI_CST_BASE_LO_ADDR : Fld := ⟨31, 6⟩
def F.RFI_CST_BASE_HI_ADDR : Fld := ⟨31, 0⟩
def F.RFI_PDR_BASE_LO_ADDR : Fld := ⟨31, 14⟩
def F.RFI_PDR_BASE_HI_ADDR : Fld := ⟨31, 0⟩
def F.RFI_PDR_PIDX_CNT : Fld := ⟨31, 0⟩
def F.RFI_PDR_CIDX_CNT : Fld := ⟨31, 0⟩
def F.RFI_PDR_DROP_CNT : Fld := ⟨31, 0⟩
def F.RFI_CNV_FMT_ADDR : Fld := ⟨7, 0⟩
def F.RFI_CNV_FMT_W24 : Fld := ⟨8, 8⟩
def F.RFI_CNV_FMT_SCK_DIV : Fld := ⟨15, 12⟩
def F.RFI_SBUF_BASE_LO_ADDR : Fld := ⟨31, 12⟩
def F.RFI_SBUF_BASE_HI_ADDR : Fld := ⟨31, 0⟩
def F.RFI_SBUF_NSAMP_N : Fld := ⟨19, 0⟩
def F.RFI_DPD_CTL_EN : Fld := ⟨0, 0⟩
def F.RFI_DPD_CTL_ACTIVE : Fld := ⟨1, 1⟩
def F.RFI_DPD_CTL_SWAP : Fld := ⟨2, 2⟩
def F.RFI_DPD_CTL_LT_EN : Fld := ⟨3, 3⟩
def F.RFI_DPD_CTL_LT_DEC : Fld := ⟨4, 4⟩
def F.RFI_DPD_STAT_TERM_ERR : Fld := ⟨0, 0⟩
def F.RFI_DPD_STAT_ACT_WR : Fld := ⟨1, 1⟩
def F.RFI_DPD_STAT_PEND_WR : Fld := ⟨2, 2⟩
def F.RFI_DPD_LT_CORE : Fld := ⟨3, 0⟩
def F.RFI_DPD_LT_LT_LAT : Fld := ⟨15, 8⟩
def F.RFI_DPD_LT_UNDER_CNT : Fld := ⟨31, 0⟩
def F.RFI_DPD_CAP_GO : Fld := ⟨0, 0⟩
def F.RFI_DPD_CAP_SYM : Fld := ⟨11, 8⟩
def F.RFI_DPD_CAP_LEN : Fld := ⟨20, 16⟩
def F.RFI_DPD_CAP_STAT_DONE : Fld := ⟨0, 0⟩
def F.RFI_DPD_CAP_ADDR_LO_ADDR : Fld := ⟨31, 12⟩
def F.RFI_DPD_CAP_ADDR_HI_ADDR : Fld := ⟨31, 0⟩
def F.RFI_DPD_TERM_K : Fld := ⟨3, 0⟩
def F.RFI_DPD_TERM_M : Fld := ⟨6, 4⟩
def F.RFI_DPD_TERM_L : Fld := ⟨10, 8⟩
def F.RFI_DPD_TERM_VALID : Fld := ⟨15, 15⟩
def F.RFI_DPD_COEF_V : Fld := ⟨19, 0⟩
def F.RFI_AGC_CTL_MODE : Fld := ⟨1, 0⟩
def F.RFI_AGC_CTL_FREEZE_SRC : Fld := ⟨3, 2⟩
def F.RFI_AGC_CTL_OUT : Fld := ⟨4, 4⟩
def F.RFI_AGC_TARGET_DBFS : Fld := ⟨7, 0⟩
def F.RFI_AGC_GAIN_G : Fld := ⟨5, 0⟩
def F.RFI_AGC_LIM_GMIN : Fld := ⟨5, 0⟩
def F.RFI_AGC_LIM_GMAX : Fld := ⟨13, 8⟩
def F.RFI_AGC_LIM_MAX_STEP : Fld := ⟨19, 16⟩
def F.RFI_AGC_LIM_STEP : Fld := ⟨25, 24⟩
def F.RFI_AGC_STEPD_UP_THR : Fld := ⟨7, 0⟩
def F.RFI_AGC_STEPD_DN_THR : Fld := ⟨15, 8⟩
def F.RFI_AGC_STEPD_DWELL : Fld := ⟨31, 16⟩
def F.RFI_AGC_FRZ_FREEZE_DLY : Fld := ⟨7, 0⟩
def F.RFI_AGC_LAT_SAMPLES : Fld := ⟨11, 0⟩
def F.RFI_AGC_STAT_FROZEN : Fld := ⟨0, 0⟩
def F.RFI_AGC_STAT_CFG_ERR : Fld := ⟨8, 8⟩
def F.RFI_MON_EN : Fld := ⟨0, 0⟩
def F.RFI_MON_NID2 : Fld := ⟨2, 1⟩
def F.RFI_MON_CELL : Fld := ⟨7, 4⟩
def F.RFI_MON_SSB : Fld := ⟨31, 16⟩
def F.RFI_PRA_CTL_EN : Fld := ⟨0, 0⟩
def F.RFI_PRA_CTL_LEN : Fld := ⟨1, 1⟩
def F.RFI_PRA_CTL_FORMAT : Fld := ⟨5, 2⟩
def F.RFI_PRA_CTL_SET : Fld := ⟨7, 6⟩
def F.RFI_PRA_CTL_MASK : Fld := ⟨11, 8⟩
def F.RFI_PRA_CTL_SCS : Fld := ⟨12, 12⟩
def F.RFI_PRA_ROOT_ROOT : Fld := ⟨9, 0⟩
def F.RFI_PRA_NCS_NCS : Fld := ⟨9, 0⟩
def F.RFI_PRA_THR_THR : Fld := ⟨9, 0⟩
def F.RFI_PRA_OCC_CMP : Fld := ⟨3, 0⟩
def F.RFI_PRA_OCC_SC : Fld := ⟨21, 8⟩
def F.RFI_SYN_CTL_EN : Fld := ⟨0, 0⟩
def F.RFI_SYN_CTL_SRC : Fld := ⟨1, 1⟩
def F.RFI_SYN_CTL_CELL : Fld := ⟨5, 2⟩
def F.RFI_SYN_CTL_AVG_SHIFT : Fld := ⟨11, 8⟩
def F.RFI_SYN_CTL_HOLD : Fld := ⟨23, 16⟩
def F.RFI_SYN_LIM_DEADBAND : Fld := ⟨15, 0⟩
def F.RFI_SYN_LIM_MAX_STEP : Fld := ⟨31, 16⟩
def F.RFI_SYN_FMT_ADDR : Fld := ⟨7, 0⟩
def F.RFI_SYN_FMT_W24 : Fld := ⟨8, 8⟩
def F.RFI_SYN_FMT_SCK_DIV : Fld := ⟨15, 12⟩
def F.RFI_SYN_FMT_RES : Fld := ⟨31, 16⟩
def F.RFI_SYN_WORD_WORD : Fld := ⟨23, 0⟩
def F.FHS_CTL_EN : Fld := ⟨0, 0⟩
def F.FHS_ERR_CFG_ERR : Fld := ⟨0, 0⟩
def F.FHS_ERR_BUF_CFG : Fld := ⟨1, 1⟩
def F.FHS_ERR_MAC_BUSY : Fld := ⟨2, 2⟩
def F.FHS_QUAD_CFG_MODE : Fld := ⟨0, 0⟩
def F.FHS_DAMP_MS : Fld := ⟨9, 0⟩
def F.FHS_AGE_S : Fld := ⟨15, 0⟩
def F.FHS_REFILL_NS : Fld := ⟨19, 0⟩
def F.FHS_HOST_FN_FN : Fld := ⟨16, 0⟩
def F.FHS_HOST_FLOOD_FN : Fld := ⟨4, 0⟩
def F.FHS_CNT_LEARN_FULL_CNT : Fld := ⟨31, 0⟩
def F.FHS_CNT_LEARN_DROP_CNT : Fld := ⟨31, 0⟩
def F.FHS_CNT_MOVE_CNT : Fld := ⟨31, 0⟩
def F.FHS_CNT_FLAP_CNT : Fld := ⟨31, 0⟩
def F.FHS_CNT_FLOW_MISS_CNT : Fld := ⟨31, 0⟩
def F.FHS_CNT_SECT_ERR_CNT : Fld := ⟨31, 0⟩
def F.FHS_INT_DROP_CNT : Fld := ⟨31, 0⟩
def F.FHS_MAC_CMD_INDEX : Fld := ⟨11, 0⟩
def F.FHS_MAC_CMD_OP : Fld := ⟨17, 16⟩
def F.FHS_MAC_CMD_PORT : Fld := ⟨23, 20⟩
def F.FHS_MAC_CMD_GO : Fld := ⟨31, 31⟩
def F.FHS_MAC_D0_MAC : Fld := ⟨31, 0⟩
def F.FHS_MAC_D1_MAC : Fld := ⟨15, 0⟩
def F.FHS_MAC_D2_VID : Fld := ⟨11, 0⟩
def F.FHS_MAC_D2_PORT : Fld := ⟨15, 12⟩
def F.FHS_MAC_D2_FUNC : Fld := ⟨20, 16⟩
def F.FHS_MAC_D2_VALID : Fld := ⟨24, 24⟩
def F.FHS_MAC_D2_STATIC : Fld := ⟨25, 25⟩
def F.FHS_MAC_D2_HIT : Fld := ⟨26, 26⟩
def F.FHS_VLAN_VID : Fld := ⟨11, 0⟩
def F.FHS_VLAN_VALID : Fld := ⟨15, 15⟩
def F.FHS_VLAN_MASK_MEMBER : Fld := ⟨10, 0⟩
def F.FHS_VLAN_MASK_UNTAG : Fld := ⟨26, 16⟩
def F.FHS_FLOW_PC_ID : Fld := ⟨15, 0⟩
def F.FHS_FLOW_KIND : Fld := ⟨18, 16⟩
def F.FHS_FLOW_VALID : Fld := ⟨19, 19⟩
def F.FHS_FLOW_CELL : Fld := ⟨23, 20⟩
def F.FHS_FLOW_ANT : Fld := ⟨27, 24⟩
def F.FHS_FLOW_ATTR_COMP : Fld := ⟨1, 0⟩
def F.FHS_FLOW_ATTR_HDR : Fld := ⟨2, 2⟩
def F.FHS_FLOW_ATTR_QUEUE : Fld := ⟨10, 8⟩
def F.FHS_FLOW_ATTR_PORT : Fld := ⟨19, 16⟩
def F.FHS_CELL_SBUF_LO_ADDR : Fld := ⟨31, 12⟩
def F.FHS_CELL_SBUF_HI_ADDR : Fld := ⟨31, 0⟩
def F.FHS_CELL_CFG_NANT : Fld := ⟨4, 0⟩
def F.FHS_CELL_CFG_MU : Fld := ⟨10, 8⟩
def F.FHS_CELL_CFG_EN : Fld := ⟨12, 12⟩
def F.FHS_CELL_SECT_CNT : Fld := ⟨31, 0⟩
def F.FHS_P_CTL_EN : Fld := ⟨0, 0⟩
def F.FHS_P_CTL_FEC : Fld := ⟨2, 1⟩
def F.FHS_P_CTL_LEARN : Fld := ⟨3, 3⟩
def F.FHS_P_CTL_DEF_PCP : Fld := ⟨6, 4⟩
def F.FHS_P_CTL_PVID : Fld := ⟨27, 16⟩
def F.FHS_P_STAT_LINK : Fld := ⟨0, 0⟩
def F.FHS_P_STAT_BLOCK_LOCK : Fld := ⟨1, 1⟩
def F.FHS_P_STAT_FEC_ALIGN : Fld := ⟨2, 2⟩
def F.FHS_P_STAT_LINK_DOWN_SEEN : Fld := ⟨8, 8⟩
def F.FHS_P_PCPMAP_MAP : Fld := ⟨23, 0⟩
def F.FHS_P_RX_FRAMES_CNT : Fld := ⟨31, 0⟩
def F.FHS_P_RX_BYTES_LO_CNT : Fld := ⟨31, 0⟩
def F.FHS_P_RX_BYTES_HI_CNT : Fld := ⟨31, 0⟩
def F.FHS_P_TX_FRAMES_CNT : Fld := ⟨31, 0⟩
def F.FHS_P_TX_BYTES_LO_CNT : Fld := ⟨31, 0⟩
def F.FHS_P_TX_BYTES_HI_CNT : Fld := ⟨31, 0⟩
def F.FHS_P_RX_ERR_CNT : Fld := ⟨31, 0⟩
def F.FHS_P_VLAN_DROP_CNT : Fld := ⟨31, 0⟩
def F.FHS_P_PAUSE_DROP_CNT : Fld := ⟨31, 0⟩
def F.FHS_P_LINK_DROP_CNT : Fld := ⟨31, 0⟩
def F.FHS_P_FEC_CORR_CNT : Fld := ⟨31, 0⟩
def F.FHS_P_FEC_UNCORR_CNT : Fld := ⟨31, 0⟩
def F.FHS_P_Q_WEIGHT_W : Fld := ⟨7, 0⟩
def F.FHS_P_Q_BUF_LIMIT : Fld := ⟨15, 0⟩
def F.FHS_P_Q_BUF_RESV : Fld := ⟨31, 16⟩
def F.FHS_P_Q_SHAPE_EN : Fld := ⟨0, 0⟩
def F.FHS_P_Q_RATE_RATE : Fld := ⟨31, 0⟩
def F.FHS_P_Q_BURST_BURST : Fld := ⟨23, 0⟩
def F.FHS_P_Q_DEPTH_CELLS : Fld := ⟨15, 0⟩
def F.FHS_P_Q_DEPTH_FRAMES : Fld := ⟨31, 16⟩
def F.FHS_P_Q_PEAK_CELLS : Fld := ⟨15, 0⟩
def F.FHS_P_Q_DROP_CNT : Fld := ⟨31, 0⟩
def F.FHS_P_Q_TOKENS_BYTES : Fld := ⟨31, 0⟩
def F.SPK_CTL_EN : Fld := ⟨0, 0⟩
def F.SPK_STAT_DSTATE : Fld := ⟨2, 0⟩
def F.SPK_STAT_NODE : Fld := ⟨15, 8⟩
def F.SPK_STAT_WHEEL_SIZE : Fld := ⟨20, 16⟩
def F.SPK_STAT_NWHEELS : Fld := ⟨28, 24⟩
def F.SPK_STAT_GLOBAL : Fld := ⟨29, 29⟩
def F.SPK_GEN_GEN : Fld := ⟨31, 0⟩
def F.SPK_DISC_ERR_MISCABLED : Fld := ⟨0, 0⟩
def F.SPK_DISC_ERR_PRUNED : Fld := ⟨1, 1⟩
def F.SPK_DISC_ERR_HUB_TIMEOUT : Fld := ⟨2, 2⟩
def F.SPK_DISC_ERR_HUB_CONFLICT : Fld := ⟨3, 3⟩
def F.SPK_UID_LO_UID : Fld := ⟨31, 0⟩
def F.SPK_UID_HI_UID : Fld := ⟨31, 0⟩
def F.SPK_LEADER_LO_UID : Fld := ⟨31, 0⟩
def F.SPK_LEADER_HI_UID : Fld := ⟨31, 0⟩
def F.SPK_DISC_TIME_US : Fld := ⟨31, 0⟩
def F.SPK_COLL_FN_FN : Fld := ⟨16, 0⟩
def F.SPK_COLL_TIMEOUT_MS : Fld := ⟨13, 0⟩
def F.SPK_TC2_QUANTUM_BYTES : Fld := ⟨16, 0⟩
def F.SPK_TC3_QUANTUM_BYTES : Fld := ⟨16, 0⟩
def F.SPK_MISROUTE_CNT : Fld := ⟨31, 0⟩
def F.SPK_P_CTL_EN : Fld := ⟨0, 0⟩
def F.SPK_P_STAT_LSTATE : Fld := ⟨2, 0⟩
def F.SPK_P_STAT_SLOW : Fld := ⟨3, 3⟩
def F.SPK_P_STAT_PARTNER : Fld := ⟨15, 8⟩
def F.SPK_P_STAT_PARTNER_HUB : Fld := ⟨16, 16⟩
def F.SPK_P_PUID_LO_UID : Fld := ⟨31, 0⟩
def F.SPK_P_PUID_HI_UID : Fld := ⟨31, 0⟩
def F.SPK_P_RTT_NS : Fld := ⟨31, 0⟩
def F.SPK_P_RETRY_CNT : Fld := ⟨31, 0⟩
def F.SPK_P_FEC_CORR_CNT : Fld := ⟨31, 0⟩
def F.SPK_P_FEC_UNCORR_CNT : Fld := ⟨31, 0⟩
def F.SPK_P_TX_FLITS_CNT : Fld := ⟨31, 0⟩
def F.SPK_P_RX_FLITS_CNT : Fld := ⟨31, 0⟩
def F.CRY_ERR_LOG_OVF : Fld := ⟨1, 1⟩
def F.CRY_ERR_RPL_ERR : Fld := ⟨2, 2⟩
def F.CRY_INVAL_GO : Fld := ⟨0, 0⟩
def F.CRY_INVAL_ALL : Fld := ⟨1, 1⟩
def F.CRY_INVAL_ADDR_LO_ADDR : Fld := ⟨31, 0⟩
def F.CRY_INVAL_ADDR_HI_ADDR : Fld := ⟨31, 0⟩
def F.CRY_DIGQ_ADDR_LO_ADDR : Fld := ⟨31, 0⟩
def F.CRY_DIGQ_ADDR_HI_ADDR : Fld := ⟨31, 0⟩
def F.CRY_DIGQ_LEN_BYTES : Fld := ⟨31, 0⟩
def F.CRY_DIGQ_W_W : Fld := ⟨31, 0⟩
def F.CRY_FN_AUDIT_MODE : Fld := ⟨1, 0⟩
def F.CRY_CELL_AUDIT_MODE : Fld := ⟨1, 0⟩
def F.CRY_CELL_WSET_LO_ADDR : Fld := ⟨31, 0⟩
def F.CRY_CELL_WSET_HI_ADDR : Fld := ⟨31, 0⟩
def F.CRY_CELL_WSET_LEN_LEN : Fld := ⟨31, 0⟩
def F.CRY_CELL_LOG_CTL_EN : Fld := ⟨0, 0⟩
def F.CRY_CELL_LOG_CTL_SAMPLES : Fld := ⟨1, 1⟩
def F.CRY_CELL_LOG_BASE_LO_ADDR : Fld := ⟨31, 6⟩
def F.CRY_CELL_LOG_BASE_HI_ADDR : Fld := ⟨31, 0⟩
def F.CRY_CELL_LOG_SIZE_UNITS : Fld := ⟨15, 0⟩
def F.CRY_CELL_LOG_PIDX_BYTES : Fld := ⟨31, 0⟩
def F.CRY_CELL_LOG_CIDX_BYTES : Fld := ⟨31, 0⟩
def F.CRY_CELL_LOG_DROP_CNT : Fld := ⟨31, 0⟩
def F.CRY_TWIN_CTL_EN : Fld := ⟨0, 0⟩
def F.CRY_TWIN_CTL_ROLE : Fld := ⟨1, 1⟩
def F.CRY_TWIN_CTL_WAIT : Fld := ⟨29, 16⟩
def F.CRY_TWIN_STAT_STATE : Fld := ⟨2, 0⟩
def F.CRY_TWIN_STAT_REASON : Fld := ⟨7, 4⟩
def F.CRY_TWIN_STAT_NODE : Fld := ⟨15, 8⟩
def F.CRY_TWIN_STAT_STRAP : Fld := ⟨16, 16⟩
def F.CRY_TWIN_PUID_LO_UID : Fld := ⟨31, 0⟩
def F.CRY_TWIN_PUID_HI_UID : Fld := ⟨31, 0⟩
def F.CRY_TWIN_CNT_CNT : Fld := ⟨31, 0⟩
def F.CRY_TWIN_EXCL_CNT : Fld := ⟨31, 0⟩
def F.CRY_TWIN_DIV_KEY_LO_KEY : Fld := ⟨31, 0⟩
def F.CRY_TWIN_DIV_KEY_HI_KEY : Fld := ⟨31, 0⟩
def F.CRY_TWIN_DIV_STAGE_ENTRY : Fld := ⟨3, 0⟩
def F.CRY_TWIN_DIV_STAGE_KIND : Fld := ⟨15, 8⟩
def F.CRY_TWIN_DIV_STAGE_INDEX : Fld := ⟨23, 16⟩
def F.CRY_TWIN_DIV_STAGE_PARTNER : Fld := ⟨31, 24⟩
def F.CRY_RPL_CTL_EN : Fld := ⟨0, 0⟩
def F.CRY_RPL_CTL_CELL : Fld := ⟨7, 4⟩
def F.CRY_RPL_LIST_LO_ADDR : Fld := ⟨31, 0⟩
def F.CRY_RPL_LIST_HI_ADDR : Fld := ⟨31, 0⟩
def F.CRY_RPL_N_N : Fld := ⟨9, 0⟩
def F.FWL_CTL_EN : Fld := ⟨0, 0⟩
def F.FWL_STAT_USED : Fld := ⟨15, 0⟩
def F.FWL_STAT_PEAK : Fld := ⟨31, 16⟩
def F.FWL_ERR_SHADOW_FULL : Fld := ⟨0, 0⟩
def F.FWL_ERR_PRED_FAULT : Fld := ⟨1, 1⟩
def F.FWL_ERR_PLAN_ERR : Fld := ⟨2, 2⟩
def F.FWL_SHADOW_BASE_LO_ADDR : Fld := ⟨31, 16⟩
def F.FWL_SHADOW_BASE_HI_ADDR : Fld := ⟨31, 0⟩
def F.FWL_SHADOW_SIZE_BLOCKS : Fld := ⟨15, 0⟩
def F.FWL_CELL_CTL_EN : Fld := ⟨0, 0⟩
def F.FWL_CELL_CTL_SPEC : Fld := ⟨1, 1⟩
def F.FWL_CELL_CTL_SG : Fld := ⟨3, 2⟩
def F.FWL_CELL_CTL_FORCE_REPLAY : Fld := ⟨4, 4⟩
def F.FWL_CELL_CTL_MIN_HIST : Fld := ⟨15, 8⟩
def F.FWL_CELL_THR_THR : Fld := ⟨15, 0⟩
def F.FWL_CELL_NEXT_LO_ADDR : Fld := ⟨31, 0⟩
def F.FWL_CELL_NEXT_HI_ADDR : Fld := ⟨31, 0⟩
def F.FWL_CELL_PLAN_LO_ADDR : Fld := ⟨31, 0⟩
def F.FWL_CELL_PLAN_HI_ADDR : Fld := ⟨31, 0⟩
def F.FWL_CELL_EPOCH_EPOCH : Fld := ⟨15, 0⟩
def F.FWL_CELL_CNT_COMMIT_CNT : Fld := ⟨31, 0⟩
def F.FWL_CELL_CNT_REPLAY_CNT : Fld := ⟨31, 0⟩
def F.FWL_CELL_CNT_NOSPEC_CNT : Fld := ⟨31, 0⟩
def F.FWL_CELL_CNT_LATE_CNT : Fld := ⟨31, 0⟩
def F.FWL_CELL_CNT_DROP_CNT : Fld := ⟨31, 0⟩
def F.VIS_ID_ID : Fld := ⟨31, 0⟩
def F.VIS_CAPS_CAPS : Fld := ⟨31, 0⟩
def F.VIS_TILEMAP_MAP : Fld := ⟨31, 0⟩
def F.VIS_STATUS_SEALED : Fld := ⟨0, 0⟩
def F.VIS_STATUS_EXPERT_HST : Fld := ⟨1, 1⟩
def F.VIS_ERR_CFG_WR : Fld := ⟨0, 0⟩
def F.VIS_ERR_CFG : Fld := ⟨1, 1⟩
def F.VIS_ERR_PF_FIELD : Fld := ⟨2, 2⟩
def F.VIS_DB_LO_ADDR : Fld := ⟨31, 12⟩
def F.VIS_DB_HI_ADDR : Fld := ⟨31, 0⟩
def F.VIS_SH_LO_ADDR : Fld := ⟨31, 12⟩
def F.VIS_SH_HI_ADDR : Fld := ⟨31, 0⟩
def F.VIS_POLL_INTERVAL : Fld := ⟨15, 0⟩
def F.VIS_POLL_BO_BACKOFF : Fld := ⟨15, 0⟩
def F.VIS_POLL_BO_IDLE : Fld := ⟨31, 16⟩
def F.VIS_SQ_BASE_LO_ADDR : Fld := ⟨31, 0⟩
def F.VIS_SQ_BASE_HI_ADDR : Fld := ⟨31, 0⟩
def F.VIS_SQ_CFG_EN : Fld := ⟨0, 0⟩
def F.VIS_SQ_CFG_LOG2SIZE : Fld := ⟨8, 4⟩
def F.VIS_SQ_CFG_CQ : Fld := ⟨14, 12⟩
def F.VIS_SQ_CFG_FETCH : Fld := ⟨31, 24⟩
def F.VIS_CQ_BASE_LO_ADDR : Fld := ⟨31, 0⟩
def F.VIS_CQ_BASE_HI_ADDR : Fld := ⟨31, 0⟩
def F.VIS_CQ_CFG_EN : Fld := ⟨0, 0⟩
def F.VIS_CQ_CFG_LOG2SIZE : Fld := ⟨8, 4⟩
def F.VIS_CQ_CFG_VEC : Fld := ⟨21, 16⟩
def F.VIS_CQ_CFG_INT_EN : Fld := ⟨22, 22⟩
def F.VIS_CQ_COAL_COAL_CNT : Fld := ⟨8, 0⟩
def F.VIS_CQ_COAL_COAL_TIME : Fld := ⟨31, 16⟩
def F.VIS_CQ_DIVERT_CNT : Fld := ⟨31, 0⟩
def F.VIS_EQ_BASE_LO_ADDR : Fld := ⟨31, 0⟩
def F.VIS_EQ_BASE_HI_ADDR : Fld := ⟨31, 0⟩
def F.VIS_EQ_CFG_EN : Fld := ⟨0, 0⟩
def F.VIS_EQ_CFG_LOG2SIZE : Fld := ⟨8, 4⟩
def F.VIS_EQ_CFG_VEC : Fld := ⟨21, 16⟩
def F.VIS_EQ_CFG_INT_EN : Fld := ⟨22, 22⟩
def F.VIS_EQ_COAL_COAL_CNT : Fld := ⟨8, 0⟩
def F.VIS_EQ_COAL_COAL_TIME : Fld := ⟨31, 16⟩
def F.VIS_EQ_DROP_CNT : Fld := ⟨31, 0⟩
def F.VIS_EQ_STAT_OVF : Fld := ⟨0, 0⟩
def F.VIS_RR_BASE_LO_ADDR : Fld := ⟨31, 0⟩
def F.VIS_RR_BASE_HI_ADDR : Fld := ⟨31, 0⟩
def F.VIS_RR_CFG_EN : Fld := ⟨0, 0⟩
def F.VIS_RR_CFG_LOG2SIZE : Fld := ⟨8, 4⟩
def F.VIS_RR_CFG_VEC : Fld := ⟨21, 16⟩
def F.VIS_RR_CFG_INT_EN : Fld := ⟨22, 22⟩
def F.VIS_RR_COAL_COAL_CNT : Fld := ⟨8, 0⟩
def F.VIS_RR_COAL_COAL_TIME : Fld := ⟨31, 16⟩
def F.VIS_RR_BKLOG_LO_ADDR : Fld := ⟨31, 6⟩
def F.VIS_RR_BKLOG_HI_ADDR : Fld := ⟨31, 0⟩
def F.VIS_RR_BKLOG_SIZE_ENTRIES : Fld := ⟨16, 0⟩
def F.VIS_RR_LOST_CNT : Fld := ⟨31, 0⟩
def F.VIS_TILEMASK_TILES : Fld := ⟨31, 0⟩
def F.VIS_COREMASK_CORES : Fld := ⟨15, 0⟩
def F.VIS_QUOTA_CHANNELS : Fld := ⟨7, 0⟩
def F.VIS_QUOTA_PAIRS : Fld := ⟨15, 8⟩
def F.VIS_BEL_SNAP_SNAP : Fld := ⟨31, 0⟩
def F.VIS_SEQ_CMD_INDEX : Fld := ⟨19, 0⟩
def F.VIS_SEQ_CMD_OP : Fld := ⟨25, 24⟩
def F.VIS_SEQ_CMD_GO : Fld := ⟨31, 31⟩
def F.VIS_SEQ_CMD_STAT_BUSY : Fld := ⟨0, 0⟩
def F.VIS_SEQ_CMD_STAT_RESULT : Fld := ⟨6, 4⟩
def F.VIS_MSIX_LO_ADDR : Fld := ⟨31, 2⟩
def F.VIS_MSIX_HI_ADDR : Fld := ⟨31, 0⟩
def F.VIS_MSIX_DATA_DATA : Fld := ⟨31, 0⟩
def F.VIS_MSIX_CTL_MASK : Fld := ⟨0, 0⟩
def F.VIS_PBA_PENDING : Fld := ⟨7, 0⟩

/-! Rows. -/

def regsGlobal0 : List RegDef := [
  ⟨0x0, [], false, 0x96320010, [⟨F.GLB_ID_PART, .ro, none, .any, false⟩, ⟨F.GLB_ID_STEP, .ro, none, .any, false⟩]⟩, -- GLB_ID
  ⟨0x4, [], false, 0x11081020, [⟨F.GLB_CAPS_TILES, .ro, none, .any, false⟩, ⟨F.GLB_CAPS_CORES, .ro, none, .any, false⟩, ⟨F.GLB_CAPS_HBM_STACKS, .ro, none, .any, false⟩, ⟨F.GLB_CAPS_SPOKE_PORTS, .ro, none, .any, false⟩]⟩, -- GLB_CAPS
  ⟨0x8, [], false, 0xFFFFFFFF, [⟨F.GLB_TILEMAP_MAP, .ro, none, .any, false⟩]⟩, -- GLB_TILEMAP
  ⟨0x10, [], false, 0x30, [⟨F.GLB_STATUS_SEALED, .ro, none, .any, false⟩, ⟨F.GLB_STATUS_START, .ro, none, .any, false⟩, ⟨F.GLB_STATUS_OVERRIDE, .ro, none, .any, false⟩]⟩, -- GLB_STATUS
  ⟨0x14, [], false, 0x0, [⟨F.GLB_SEAL_KEY, .trig, none, .any, false⟩]⟩, -- GLB_SEAL
  ⟨0x18, [], true, 0x0, [⟨F.GLB_EXPERT_BITS, .rw, none, .any, false⟩]⟩, -- GLB_EXPERT
  ⟨0x1C, [], false, 0x0, [⟨F.GLB_ERR_SEAL_WR, .w1c, none, .any, false⟩, ⟨F.GLB_ERR_EXPERT_WR, .w1c, none, .any, false⟩, ⟨F.GLB_ERR_REPORT_LOST, .w1c, none, .any, false⟩]⟩, -- GLB_ERR
  ⟨0x20, [], false, 0x0, [⟨F.GLB_DISC_OFFSET, .ro, none, .any, false⟩, ⟨F.GLB_DISC_FUNC, .ro, none, .any, false⟩, ⟨F.GLB_DISC_KIND, .ro, none, .any, false⟩, ⟨F.GLB_DISC_VALID, .w1c, none, .any, false⟩]⟩, -- GLB_DISC
  ⟨0x24, [], false, 0x0, [⟨F.GLB_POLL_LATE_CNT, .ro, none, .any, false⟩]⟩, -- GLB_POLL_LATE
  ⟨0x100, [(9, 0x4)], false, 0x0, [⟨F.GLB_ISL_STAT_FREQ_MHZ, .ro, none, .any, false⟩, ⟨F.GLB_ISL_STAT_POWERED, .ro, none, .any, false⟩]⟩, -- GLB_ISL_STAT
  ⟨0x300, [], true, 0x0, [⟨F.GLB_CLO_RT_CORES, .rw, none, .any, false⟩]⟩, -- GLB_CLO_RT
  ⟨0x304, [], true, 0x0, [⟨F.GLB_NAV_RT_TILES, .rw, none, .any, false⟩]⟩, -- GLB_NAV_RT
  ⟨0x308, [], true, 0x0, [⟨F.GLB_NAV_PRE_TILES, .rw, none, .any, false⟩]⟩, -- GLB_NAV_PRE
  ⟨0x30C, [], true, 0xC00000, [⟨F.GLB_NAV_PRE_SE_SE, .rw, some 4, .any, false⟩]⟩, -- GLB_NAV_PRE_SE
  ⟨0x400, [], false, 0x1, [⟨F.GLB_RST_CAUSE_PORST, .w1c, none, .any, false⟩, ⟨F.GLB_RST_CAUSE_SYSRST, .w1c, none, .any, false⟩, ⟨F.GLB_RST_CAUSE_PERST, .w1c, none, .any, false⟩, ⟨F.GLB_RST_CAUSE_PF_FLR, .w1c, none, .any, false⟩, ⟨F.GLB_RST_CAUSE_LINK_DOWN, .w1c, none, .any, false⟩, ⟨F.GLB_RST_CAUSE_VF_FLR, .w1c, none, .any, false⟩]⟩, -- GLB_RST_CAUSE
  ⟨0x404, [], false, 0x0, [⟨F.GLB_VIRST_VI, .rw, none, .any, false⟩, ⟨F.GLB_VIRST_GO, .trig, none, .any, false⟩]⟩, -- GLB_VIRST
  ⟨0x408, [], false, 0x0, [⟨F.GLB_VIRST_STAT_VIS, .ro, none, .any, false⟩]⟩, -- GLB_VIRST_STAT
  ⟨0x410, [], true, 0x0, [⟨F.GLB_HOLD_BASE_LO_ADDR, .rw, none, .any, false⟩]⟩, -- GLB_HOLD_BASE_LO
  ⟨0x414, [], true, 0x0, [⟨F.GLB_HOLD_BASE_HI_ADDR, .rw, none, .any, false⟩]⟩, -- GLB_HOLD_BASE_HI
  ⟨0x418, [], true, 0x0, [⟨F.GLB_HOLD_SIZE_ENTRIES, .rw, none, .range 0 65536, false⟩]⟩, -- GLB_HOLD_SIZE
  ⟨0x41C, [], false, 0x0, [⟨F.GLB_HOLD_CNT_CNT, .ro, none, .any, false⟩]⟩, -- GLB_HOLD_CNT
  ⟨0x420, [], false, 0x0, [⟨F.GLB_UNIT_SEL_KIND, .rw, none, .any, false⟩, ⟨F.GLB_UNIT_SEL_INDEX, .rw, none, .any, false⟩]⟩, -- GLB_UNIT_SEL
  ⟨0x424, [], false, 0x0, [⟨F.GLB_UNIT_STAT_MGMT, .ro, none, .any, false⟩, ⟨F.GLB_UNIT_STAT_DATA, .ro, none, .any, false⟩, ⟨F.GLB_UNIT_STAT_SKEW, .ro, none, .any, false⟩, ⟨F.GLB_UNIT_STAT_DRAINING, .ro, none, .any, false⟩]⟩, -- GLB_UNIT_STAT
  ⟨0x428, [], false, 0x0, [⟨F.GLB_UNIT_CLR_GO, .trig, none, .any, false⟩]⟩, -- GLB_UNIT_CLR
  ⟨0x42C, [], false, 0x0, [⟨F.GLB_SKEW_CNT_CNT, .ro, none, .any, false⟩]⟩, -- GLB_SKEW_CNT
  ⟨0x500, [], false, 0x0, [⟨F.GLB_MODES_PROFILE, .ro, none, .any, false⟩, ⟨F.GLB_MODES_RADIO, .ro, none, .any, false⟩, ⟨F.GLB_MODES_START, .ro, none, .any, false⟩, ⟨F.GLB_MODES_OVERRIDE, .ro, none, .any, false⟩, ⟨F.GLB_MODES_TWIN, .ro, none, .any, false⟩, ⟨F.GLB_MODES_SEALED, .ro, none, .any, false⟩, ⟨F.GLB_MODES_EXPERT, .ro, none, .any, false⟩]⟩, -- GLB_MODES
  ⟨0x600, [], true, 0x32014140, [⟨F.GLB_PMB_CFG_NAVE_ADDR, .rw, some 11, .any, false⟩, ⟨F.GLB_PMB_CFG_CLO_ADDR, .rw, some 11, .any, false⟩, ⟨F.GLB_PMB_CFG_RATE, .rw, some 11, .any, false⟩, ⟨F.GLB_PMB_CFG_SLEW, .rw, some 11, .range 10 200, false⟩]⟩, -- GLB_PMB_CFG
  ⟨0x604, [], false, 0x0, [⟨F.GLB_ELE_STAT_PMB_ERR, .w1c, none, .any, false⟩, ⟨F.GLB_ELE_STAT_REG, .ro, none, .any, false⟩, ⟨F.GLB_ELE_STAT_MODE_ERR, .w1c, none, .any, false⟩]⟩, -- GLB_ELE_STAT
  ⟨0xE0000, [(64, 0x10)], false, 0x0, [⟨F.PF_MSIX_LO_ADDR, .rw, none, .any, false⟩]⟩, -- PF_MSIX_LO
  ⟨0xE0004, [(64, 0x10)], false, 0x0, [⟨F.PF_MSIX_HI_ADDR, .rw, none, .any, false⟩]⟩ -- PF_MSIX_HI
]

def regsGlobal1 : List RegDef := [
  ⟨0xE0008, [(64, 0x10)], false, 0x0, [⟨F.PF_MSIX_DATA_DATA, .rw, none, .any, false⟩]⟩, -- PF_MSIX_DATA
  ⟨0xE000C, [(64, 0x10)], false, 0x1, [⟨F.PF_MSIX_CTL_MASK, .rw, none, .any, false⟩]⟩, -- PF_MSIX_CTL
  ⟨0xE8000, [(2, 0x4)], false, 0x0, [⟨F.PF_PBA_PENDING, .ro, none, .any, false⟩]⟩ -- PF_PBA
]

def regsGlobal : List RegDef := regsGlobal0 ++ regsGlobal1

def regsChapter : List RegDef := [
  ⟨0x100000, [], false, 0x0, [⟨F.CHM_CTL_FORCE_RECOVERY, .rw, some 11, .any, false⟩]⟩, -- CHM_CTL
  ⟨0x100004, [], false, 0x0, [⟨F.CHM_ERR_OVR_STATE, .w1c, none, .any, false⟩, ⟨F.CHM_ERR_CMD_BUSY, .w1c, none, .any, false⟩]⟩, -- CHM_ERR
  ⟨0x100008, [], false, 0x0, [⟨F.CHM_BOOT_STAT_REASON, .ro, none, .any, false⟩, ⟨F.CHM_BOOT_STAT_BANK, .ro, none, .any, false⟩, ⟨F.CHM_BOOT_STAT_FALLBACK, .ro, none, .any, false⟩, ⟨F.CHM_BOOT_STAT_BOOT_SRC, .ro, none, .any, false⟩, ⟨F.CHM_BOOT_STAT_PROFILE, .ro, none, .any, false⟩, ⟨F.CHM_BOOT_STAT_TWIN_EN, .ro, none, .any, false⟩, ⟨F.CHM_BOOT_STAT_REVOKED, .ro, none, .any, false⟩]⟩, -- CHM_BOOT_STAT
  ⟨0x100010, [], false, 0x0, [⟨F.CHM_FW_CHF_VERSION, .ro, none, .any, false⟩]⟩, -- CHM_FW_CHF
  ⟨0x100014, [], false, 0x0, [⟨F.CHM_FW_CRF_VERSION, .ro, none, .any, false⟩]⟩, -- CHM_FW_CRF
  ⟨0x100018, [], false, 0x0, [⟨F.CHM_FW_SLF_VERSION, .ro, none, .any, false⟩]⟩, -- CHM_FW_SLF
  ⟨0x10001C, [], false, 0x0, [⟨F.CHM_ILEVEL0_CHF, .ro, none, .any, false⟩, ⟨F.CHM_ILEVEL0_CRF, .ro, none, .any, false⟩]⟩, -- CHM_ILEVEL0
  ⟨0x100020, [], false, 0x0, [⟨F.CHM_ILEVEL1_SLF, .ro, none, .any, false⟩]⟩, -- CHM_ILEVEL1
  ⟨0x100024, [], true, 0x0, [⟨F.CHM_OVR_EN, .rw, some 11, .any, false⟩]⟩, -- CHM_OVR
  ⟨0x100030, [], false, 0x0, [⟨F.CHM_CMD_OP, .rw, none, .any, false⟩, ⟨F.CHM_CMD_GO, .trig, none, .any, false⟩]⟩, -- CHM_CMD
  ⟨0x100034, [], false, 0x0, [⟨F.CHM_STAT_BUSY, .ro, none, .any, false⟩, ⟨F.CHM_STAT_RESULT, .ro, none, .any, false⟩, ⟨F.CHM_STAT_PROBE_START, .ro, none, .any, false⟩, ⟨F.CHM_STAT_PROBE_REASON, .ro, none, .any, false⟩, ⟨F.CHM_STAT_SESSION, .ro, none, .any, false⟩]⟩, -- CHM_STAT
  ⟨0x100038, [(4, 0x4)], false, 0x0, [⟨F.CHM_ARG_ARG, .rw, none, .any, false⟩]⟩, -- CHM_ARG
  ⟨0x100048, [(4, 0x4)], false, 0x0, [⟨F.CHM_RSP_RSP, .ro, none, .any, false⟩]⟩, -- CHM_RSP
  ⟨0x100060, [], false, 0x0, [⟨F.CHM_PROF_REQ_PROFILE, .rw, none, .codes 3, false⟩, ⟨F.CHM_PROF_REQ_SG, .rw, none, .any, false⟩, ⟨F.CHM_PROF_REQ_GO, .trig, none, .any, false⟩]⟩, -- CHM_PROF_REQ
  ⟨0x100064, [], false, 0x0, [⟨F.CHM_PROF_STAT_CUR, .ro, none, .any, false⟩, ⟨F.CHM_PROF_STAT_TARGET, .ro, none, .any, false⟩, ⟨F.CHM_PROF_STAT_PENDING, .ro, none, .any, false⟩, ⟨F.CHM_PROF_STAT_HELD, .ro, none, .any, false⟩]⟩, -- CHM_PROF_STAT
  ⟨0x100068, [], false, 0x0, [⟨F.CHM_PROF_SG_SG, .rw, none, .any, false⟩]⟩, -- CHM_PROF_SG
  ⟨0x10006C, [], false, 0xFFFFFFFF, [⟨F.CHM_TILE_PWR_TILES, .ro, none, .any, false⟩]⟩, -- CHM_TILE_PWR
  ⟨0x100070, [], false, 0x0, [⟨F.CHM_DVFS_NV_REQ, .rw, some 11, .any, false⟩, ⟨F.CHM_DVFS_CL_REQ, .rw, some 11, .codes 3, false⟩, ⟨F.CHM_DVFS_NV_EFF, .ro, none, .any, false⟩, ⟨F.CHM_DVFS_CL_EFF, .ro, none, .any, false⟩]⟩, -- CHM_DVFS
  ⟨0x100074, [], false, 0x5F64, [⟨F.CHM_THR_HOT, .rw, some 11, .range 85 100, false⟩, ⟨F.CHM_THR_HBM_HOT, .rw, some 11, .range 75 95, false⟩]⟩, -- CHM_THR
  ⟨0x100078, [], false, 0x0, [⟨F.CHM_THR_STAT_ACTIVE, .ro, none, .any, false⟩, ⟨F.CHM_THR_STAT_CAUSE, .ro, none, .any, false⟩]⟩, -- CHM_THR_STAT
  ⟨0x10007C, [], false, 0x0, [⟨F.CHM_THR_CNT_CNT, .ro, none, .any, false⟩]⟩, -- CHM_THR_CNT
  ⟨0x100080, [], true, 0x4A, [⟨F.CHM_SMB_ADDR_ADDR, .rw, none, .any, false⟩]⟩, -- CHM_SMB_ADDR
  ⟨0x100084, [], false, 0x0, [⟨F.CHM_EID_EID, .ro, none, .any, false⟩]⟩, -- CHM_EID
  ⟨0x100100, [(24, 0x4)], false, 0x0, [⟨F.CHM_TEMP_TEMP, .ro, none, .any, false⟩]⟩, -- CHM_TEMP
  ⟨0x100180, [], false, 0x0, [⟨F.CHM_TMAX_VALUE, .ro, none, .any, false⟩, ⟨F.CHM_TMAX_SENSOR, .ro, none, .any, false⟩]⟩, -- CHM_TMAX
  ⟨0x100200, [(7, 0x4)], false, 0x0, [⟨F.CHM_PWR_MW, .ro, none, .any, false⟩]⟩, -- CHM_PWR
  ⟨0x100220, [], false, 0x0, [⟨F.CHM_ENERGY_LO_MJ, .ro, none, .any, false⟩]⟩, -- CHM_ENERGY_LO
  ⟨0x100224, [], false, 0x0, [⟨F.CHM_ENERGY_HI_MJ, .ro, none, .any, false⟩]⟩, -- CHM_ENERGY_HI
  ⟨0x101000, [], false, 0x0, [⟨F.CHM_CORE_SIG_CORES, .trig, none, .any, false⟩]⟩, -- CHM_CORE_SIG
  ⟨0x110000, [(16384, 0x4)], false, 0x0, [⟨F.CHM_WIN_WORD, .rw, none, .any, false⟩]⟩ -- CHM_WIN
]

def regsBelfry0 : List RegDef := [
  ⟨0x200000, [], false, 0x0, [⟨F.BEL_STATUS_TSTATE, .ro, none, .any, false⟩, ⟨F.BEL_STATUS_SET_RANGE, .w1c, none, .any, false⟩, ⟨F.BEL_STATUS_OFS_LOST, .w1c, none, .any, false⟩, ⟨F.BEL_STATUS_ADJ_CLAMPED, .w1c, none, .any, false⟩, ⟨F.BEL_STATUS_TIME_STEPPED, .w1c, none, .any, false⟩, ⟨F.BEL_STATUS_NONOWNER, .w1c, none, .any, false⟩]⟩, -- BEL_STATUS
  ⟨0x200004, [], true, 0x0, [⟨F.BEL_CTL_OWNER, .rw, some 0, .any, false⟩]⟩, -- BEL_CTL
  ⟨0x200010, [], false, 0x0, [⟨F.BEL_TOD_NS_NS, .ro, none, .any, false⟩]⟩, -- BEL_TOD_NS
  ⟨0x200014, [], false, 0x0, [⟨F.BEL_TOD_SEC_LO_SEC, .ro, none, .any, false⟩]⟩, -- BEL_TOD_SEC_LO
  ⟨0x200018, [], false, 0x0, [⟨F.BEL_TOD_SEC_HI_SEC, .ro, none, .any, false⟩]⟩, -- BEL_TOD_SEC_HI
  ⟨0x20001C, [], false, 0x0, [⟨F.BEL_TOD_FRAC_FRAC, .ro, none, .any, false⟩]⟩, -- BEL_TOD_FRAC
  ⟨0x200020, [], false, 0x0, [⟨F.BEL_SNAP_DNC_LO_DNC, .ro, none, .any, false⟩]⟩, -- BEL_SNAP_DNC_LO
  ⟨0x200024, [], false, 0x0, [⟨F.BEL_SNAP_DNC_HI_DNC, .ro, none, .any, false⟩]⟩, -- BEL_SNAP_DNC_HI
  ⟨0x200028, [], false, 0x0, [⟨F.BEL_DNC_LO_DNC, .ro, none, .any, false⟩]⟩, -- BEL_DNC_LO
  ⟨0x20002C, [], false, 0x0, [⟨F.BEL_DNC_HI_DNC, .ro, none, .any, false⟩]⟩, -- BEL_DNC_HI
  ⟨0x200040, [], false, 0x0, [⟨F.BEL_SET_SEC_LO_SEC, .rw, none, .any, false⟩]⟩, -- BEL_SET_SEC_LO
  ⟨0x200044, [], false, 0x0, [⟨F.BEL_SET_SEC_HI_SEC, .rw, none, .any, false⟩]⟩, -- BEL_SET_SEC_HI
  ⟨0x200048, [], false, 0x0, [⟨F.BEL_SET_NS_NS, .rw, none, .any, false⟩]⟩, -- BEL_SET_NS
  ⟨0x20004C, [], false, 0x0, [⟨F.BEL_SET_FRAC_FRAC, .rw, none, .any, false⟩]⟩, -- BEL_SET_FRAC
  ⟨0x200050, [], false, 0x0, [⟨F.BEL_SET_CTL_GO, .w1s, none, .any, false⟩, ⟨F.BEL_SET_CTL_OFS_GO, .w1s, some 0, .any, false⟩, ⟨F.BEL_SET_CTL_AT_DNC, .rw, some 0, .any, false⟩, ⟨F.BEL_SET_CTL_CANCEL, .w1s, none, .any, false⟩]⟩, -- BEL_SET_CTL
  ⟨0x200054, [], false, 0x0, [⟨F.BEL_SET_DNC_LO_DNC, .rw, some 0, .any, false⟩]⟩, -- BEL_SET_DNC_LO
  ⟨0x200058, [], false, 0x0, [⟨F.BEL_SET_DNC_HI_DNC, .rw, some 0, .any, false⟩]⟩, -- BEL_SET_DNC_HI
  ⟨0x200060, [], false, 0x0, [⟨F.BEL_OFS_LO_OFS, .rw, some 0, .any, false⟩]⟩, -- BEL_OFS_LO
  ⟨0x200064, [], false, 0x0, [⟨F.BEL_OFS_HI_OFS, .rw, some 0, .any, false⟩]⟩, -- BEL_OFS_HI
  ⟨0x200070, [], false, 0x0, [⟨F.BEL_FREQ_ADJ_ADJ, .rw, none, .any, false⟩]⟩, -- BEL_FREQ_ADJ
  ⟨0x200100, [(4, 0x40)], false, 0x0, [⟨F.BEL_SG_CTL_EN, .rw, none, .any, false⟩, ⟨F.BEL_SG_CTL_NSYM, .rw, none, .any, false⟩]⟩, -- BEL_SG_CTL
  ⟨0x200104, [(4, 0x40)], false, 0x0, [⟨F.BEL_SG_PERIOD_NS, .rw, none, .any, false⟩]⟩, -- BEL_SG_PERIOD
  ⟨0x200108, [(4, 0x40)], false, 0x0, [⟨F.BEL_SG_PHASE_NS, .rw, none, .any, false⟩]⟩, -- BEL_SG_PHASE
  ⟨0x20010C, [(4, 0x40)], false, 0x0, [⟨F.BEL_SG_COUNT_COUNT, .ro, none, .any, false⟩]⟩, -- BEL_SG_COUNT
  ⟨0x200110, [(4, 0x40)], false, 0x0, [⟨F.BEL_SG_DNC_LO_DNC, .ro, none, .any, false⟩]⟩, -- BEL_SG_DNC_LO
  ⟨0x200114, [(4, 0x40)], false, 0x0, [⟨F.BEL_SG_DNC_HI_DNC, .ro, none, .any, false⟩]⟩, -- BEL_SG_DNC_HI
  ⟨0x200118, [(4, 0x40)], false, 0x0, [⟨F.BEL_SG_STAT_STATE, .ro, none, .any, false⟩, ⟨F.BEL_SG_STAT_CFG_ERR, .w1c, none, .any, false⟩, ⟨F.BEL_SG_STAT_SKIPPED, .w1c, none, .any, false⟩]⟩, -- BEL_SG_STAT
  ⟨0x200200, [(4, 0x40), (14, 0x4)], false, 0x0, [⟨F.BEL_SG_SYM_T, .rw, none, .any, false⟩]⟩, -- BEL_SG_SYM
  ⟨0x200400, [(16, 0x20)], false, 0x2, [⟨F.BEL_CMP_CTL_MODE, .rw, none, .any, false⟩, ⟨F.BEL_CMP_CTL_SG, .rw, none, .any, false⟩, ⟨F.BEL_CMP_CTL_ARM, .rw, none, .any, false⟩, ⟨F.BEL_CMP_CTL_DEST, .rw, none, .any, false⟩]⟩, -- BEL_CMP_CTL
  ⟨0x200404, [(16, 0x20)], false, 0x0, [⟨F.BEL_CMP_TGT_LO_TGT, .rw, none, .any, false⟩]⟩ -- BEL_CMP_TGT_LO
]

def regsBelfry1 : List RegDef := [
  ⟨0x200408, [(16, 0x20)], false, 0x0, [⟨F.BEL_CMP_TGT_HI_TGT, .rw, none, .any, false⟩]⟩, -- BEL_CMP_TGT_HI
  ⟨0x20040C, [(16, 0x20)], false, 0x0, [⟨F.BEL_CMP_PERIOD_NS, .rw, none, .any, false⟩]⟩, -- BEL_CMP_PERIOD
  ⟨0x200410, [(16, 0x20)], false, 0x0, [⟨F.BEL_CMP_STAT_FIRED, .w1c, none, .any, false⟩, ⟨F.BEL_CMP_STAT_CFG_ERR, .w1c, none, .any, false⟩, ⟨F.BEL_CMP_STAT_QOVF, .w1c, none, .any, false⟩]⟩, -- BEL_CMP_STAT
  ⟨0x200414, [(16, 0x20)], false, 0x0, [⟨F.BEL_CMP_FIRE_LO_DNC, .ro, none, .any, false⟩]⟩, -- BEL_CMP_FIRE_LO
  ⟨0x200418, [(16, 0x20)], false, 0x0, [⟨F.BEL_CMP_FIRE_HI_DNC, .ro, none, .any, false⟩]⟩, -- BEL_CMP_FIRE_HI
  ⟨0x200800, [], false, 0x0, [⟨F.BEL_PPSOUT_CTL_EN, .rw, none, .any, false⟩]⟩, -- BEL_PPSOUT_CTL
  ⟨0x200804, [], false, 0x0, [⟨F.BEL_PPSOUT_OFS_NS, .rw, none, .range 0 999999999, false⟩]⟩, -- BEL_PPSOUT_OFS
  ⟨0x200808, [], false, 0x186A0, [⟨F.BEL_PPSOUT_WIDTH_US, .rw, none, .range 1 999999, false⟩]⟩, -- BEL_PPSOUT_WIDTH
  ⟨0x200810, [], false, 0x0, [⟨F.BEL_PPSIN_CTL_EN, .rw, none, .any, false⟩, ⟨F.BEL_PPSIN_CTL_EDGE, .rw, none, .any, false⟩]⟩, -- BEL_PPSIN_CTL
  ⟨0x200814, [], false, 0x0, [⟨F.BEL_PPSIN_NS_NS, .ro, none, .any, false⟩]⟩, -- BEL_PPSIN_NS
  ⟨0x200818, [], false, 0x0, [⟨F.BEL_PPSIN_SEC_LO_SEC, .ro, none, .any, false⟩]⟩, -- BEL_PPSIN_SEC_LO
  ⟨0x20081C, [], false, 0x0, [⟨F.BEL_PPSIN_SEC_HI_SEC, .ro, none, .any, false⟩]⟩, -- BEL_PPSIN_SEC_HI
  ⟨0x200820, [], false, 0x0, [⟨F.BEL_PPSIN_DNC_LO_DNC, .ro, none, .any, false⟩]⟩, -- BEL_PPSIN_DNC_LO
  ⟨0x200824, [], false, 0x0, [⟨F.BEL_PPSIN_DNC_HI_DNC, .ro, none, .any, false⟩]⟩, -- BEL_PPSIN_DNC_HI
  ⟨0x200828, [], false, 0x0, [⟨F.BEL_PPSIN_CNT_CNT, .ro, none, .any, false⟩]⟩, -- BEL_PPSIN_CNT
  ⟨0x200830, [], false, 0x0, [⟨F.BEL_RCLK_CTL_EN, .rw, none, .any, false⟩, ⟨F.BEL_RCLK_CTL_FREQ, .rw, none, .codes 3, false⟩]⟩, -- BEL_RCLK_CTL
  ⟨0x200900, [(8, 0x20)], true, 0x0, [⟨F.BEL_TSR_BASE_LO_ADDR, .rw, none, .any, false⟩]⟩, -- BEL_TSR_BASE_LO
  ⟨0x200904, [(8, 0x20)], true, 0x0, [⟨F.BEL_TSR_BASE_HI_ADDR, .rw, none, .any, false⟩]⟩, -- BEL_TSR_BASE_HI
  ⟨0x200908, [(8, 0x20)], true, 0x0, [⟨F.BEL_TSR_CIDX_LO_ADDR, .rw, none, .any, false⟩]⟩, -- BEL_TSR_CIDX_LO
  ⟨0x20090C, [(8, 0x20)], true, 0x0, [⟨F.BEL_TSR_CIDX_HI_ADDR, .rw, none, .any, false⟩]⟩, -- BEL_TSR_CIDX_HI
  ⟨0x200910, [(8, 0x20)], false, 0x0, [⟨F.BEL_TSR_CTL_EN, .rw, none, .any, false⟩]⟩, -- BEL_TSR_CTL
  ⟨0x200914, [(8, 0x20)], false, 0x0, [⟨F.BEL_TSR_DROP_CNT, .ro, none, .any, false⟩]⟩, -- BEL_TSR_DROP
  ⟨0x200918, [(8, 0x20)], false, 0x0, [⟨F.BEL_TSR_STAT_OVF, .w1c, none, .any, false⟩, ⟨F.BEL_TSR_STAT_PIDX, .ro, none, .any, false⟩]⟩, -- BEL_TSR_STAT
  ⟨0x20091C, [(8, 0x20)], false, 0x0, [⟨F.BEL_TSR_CORR_EGRESS, .rw, some 0, .any, false⟩, ⟨F.BEL_TSR_CORR_INGRESS, .rw, some 0, .any, false⟩]⟩ -- BEL_TSR_CORR
]

def regsBelfry : List RegDef := regsBelfry0 ++ regsBelfry1

def regsStream : List RegDef := [
  ⟨0x300000, [], true, 0x0, [⟨F.SE_CTL_EN, .rw, none, .any, false⟩]⟩, -- SE_CTL
  ⟨0x300004, [], false, 0x0, [⟨F.SE_ERR_SEM_AGENT, .w1c, none, .any, false⟩, ⟨F.SE_ERR_SEM_OVF, .w1c, none, .any, false⟩, ⟨F.SE_ERR_SEM_BUSY, .w1c, none, .any, false⟩, ⟨F.SE_ERR_RESV_START, .w1c, none, .any, false⟩]⟩, -- SE_ERR
  ⟨0x300010, [], false, 0x0, [⟨F.SE_FENCE_STAT_VIS, .ro, none, .any, false⟩, ⟨F.SE_FENCE_STAT_PF, .ro, none, .any, false⟩]⟩, -- SE_FENCE_STAT
  ⟨0x300014, [], false, 0x0, [⟨F.SE_FENCE_MAX_NS, .ro, none, .any, false⟩]⟩, -- SE_FENCE_MAX
  ⟨0x301000, [(24, 0x400), (8, 0x40)], false, 0x10, [⟨F.SE_CH_OWN_VI, .rw, none, .any, false⟩, ⟨F.SE_CH_OWN_PF, .rw, none, .any, false⟩]⟩, -- SE_CH_OWN
  ⟨0x301004, [(24, 0x400), (8, 0x40)], false, 0x0, [⟨F.SE_CH_CTL_GO, .trig, some 5, .any, false⟩, ⟨F.SE_CH_CTL_BOUNDARY, .rw, none, .any, false⟩]⟩, -- SE_CH_CTL
  ⟨0x301008, [(24, 0x400), (8, 0x40)], false, 0x0, [⟨F.SE_CH_LIST_LO_ADDR, .rw, some 5, .any, false⟩]⟩, -- SE_CH_LIST_LO
  ⟨0x30100C, [(24, 0x400), (8, 0x40)], false, 0x0, [⟨F.SE_CH_LIST_HI_ADDR, .rw, some 5, .any, false⟩]⟩, -- SE_CH_LIST_HI
  ⟨0x301010, [(24, 0x400), (8, 0x40)], false, 0x0, [⟨F.SE_CH_STAT_STATE, .ro, none, .any, false⟩, ⟨F.SE_CH_STAT_SWAP_PEND, .ro, none, .any, false⟩, ⟨F.SE_CH_STAT_STATUS, .ro, none, .any, false⟩]⟩, -- SE_CH_STAT
  ⟨0x301014, [(24, 0x400), (8, 0x40)], false, 0x0, [⟨F.SE_CH_BYTES_BYTES, .ro, none, .any, false⟩]⟩, -- SE_CH_BYTES
  ⟨0x301018, [(24, 0x400), (8, 0x40)], false, 0x0, [⟨F.SE_CH_CUR_ADDR, .ro, none, .any, false⟩]⟩, -- SE_CH_CUR
  ⟨0x30101C, [(24, 0x400), (8, 0x40)], false, 0x0, [⟨F.SE_CH_HAZ_CNT, .ro, none, .any, false⟩]⟩, -- SE_CH_HAZ
  ⟨0x301200, [(24, 0x400)], false, 0x0, [⟨F.SE_PERF_BYTES_CNT, .ro, none, .any, false⟩]⟩, -- SE_PERF_BYTES
  ⟨0x308000, [(256, 0x10)], false, 0x0, [⟨F.SE_SEM_CFG_DEPTH, .rw, none, .range 1 256, false⟩, ⟨F.SE_SEM_CFG_PROD, .rw, none, .any, false⟩, ⟨F.SE_SEM_CFG_CONS, .rw, none, .any, false⟩]⟩, -- SE_SEM_CFG
  ⟨0x308004, [(256, 0x10)], false, 0x0, [⟨F.SE_SEM_OWN_VI, .rw, none, .any, false⟩, ⟨F.SE_SEM_OWN_PF, .rw, none, .any, false⟩, ⟨F.SE_SEM_OWN_EN, .rw, none, .any, false⟩]⟩, -- SE_SEM_OWN
  ⟨0x308008, [(256, 0x10)], false, 0x0, [⟨F.SE_SEM_CNT_FULL, .ro, none, .any, false⟩, ⟨F.SE_SEM_CNT_EMPTY, .ro, none, .any, false⟩]⟩, -- SE_SEM_CNT
  ⟨0x30800C, [(256, 0x10)], false, 0x0, [⟨F.SE_SEM_OP_OP, .trig, some 5, .any, false⟩]⟩, -- SE_SEM_OP
  ⟨0x309000, [(16, 0x4)], false, 0x0, [⟨F.SE_CSL_EN, .rw, none, .any, false⟩, ⟨F.SE_CSL_LINE, .rw, none, .any, false⟩]⟩ -- SE_CSL
]

def regsMemory0 : List RegDef := [
  ⟨0x400000, [], true, 0x0, [⟨F.MMU_CTL_EN, .rw, none, .any, false⟩]⟩, -- MMU_CTL
  ⟨0x400004, [], false, 0x0, [⟨F.MMU_ERR_INV_BUSY, .w1c, none, .any, false⟩, ⟨F.MMU_ERR_INV_ARG, .w1c, none, .any, false⟩]⟩, -- MMU_ERR
  ⟨0x400010, [], true, 0x0, [⟨F.MMU_PF_ROOT_LO_ADDR, .rw, none, .any, false⟩]⟩, -- MMU_PF_ROOT_LO
  ⟨0x400014, [], true, 0x0, [⟨F.MMU_PF_ROOT_HI_ADDR, .rw, none, .any, false⟩]⟩, -- MMU_PF_ROOT_HI
  ⟨0x400018, [], false, 0xFFFF, [⟨F.MMU_PF_WAYMASK_WAYS, .rw, some 6, .any, false⟩]⟩, -- MMU_PF_WAYMASK
  ⟨0x400020, [], false, 0x0, [⟨F.MMU_INV_GO, .w1s, none, .any, false⟩, ⟨F.MMU_INV_SPACE, .rw, none, .any, false⟩, ⟨F.MMU_INV_ALL, .rw, none, .any, false⟩]⟩, -- MMU_INV
  ⟨0x400024, [], false, 0x0, [⟨F.MMU_INV_VA_LO_VA, .rw, none, .any, false⟩]⟩, -- MMU_INV_VA_LO
  ⟨0x400028, [], false, 0x0, [⟨F.MMU_INV_VA_HI_VA, .rw, none, .any, false⟩]⟩, -- MMU_INV_VA_HI
  ⟨0x40002C, [], false, 0x0, [⟨F.MMU_INV_SIZE_PAGES, .rw, none, .any, false⟩]⟩, -- MMU_INV_SIZE
  ⟨0x401000, [(16, 0x100)], false, 0x0, [⟨F.MMU_VI_ROOT_LO_ADDR, .rw, none, .any, false⟩]⟩, -- MMU_VI_ROOT_LO
  ⟨0x401004, [(16, 0x100)], false, 0x0, [⟨F.MMU_VI_ROOT_HI_ADDR, .rw, none, .any, false⟩]⟩, -- MMU_VI_ROOT_HI
  ⟨0x401008, [(16, 0x100)], false, 0xFFFF, [⟨F.MMU_VI_WAYMASK_WAYS, .rw, some 6, .any, false⟩]⟩, -- MMU_VI_WAYMASK
  ⟨0x401010, [(16, 0x100), (4, 0x10)], true, 0xFFFF0000, [⟨F.MMU_VI_WIN_BASE_LO_ADDR, .rw, none, .any, false⟩]⟩, -- MMU_VI_WIN_BASE_LO
  ⟨0x401014, [(16, 0x100), (4, 0x10)], true, 0x1F, [⟨F.MMU_VI_WIN_BASE_HI_ADDR, .rw, none, .any, false⟩]⟩, -- MMU_VI_WIN_BASE_HI
  ⟨0x401018, [(16, 0x100), (4, 0x10)], true, 0x0, [⟨F.MMU_VI_WIN_LIMIT_LO_ADDR, .rw, none, .any, false⟩]⟩, -- MMU_VI_WIN_LIMIT_LO
  ⟨0x40101C, [(16, 0x100), (4, 0x10)], true, 0x0, [⟨F.MMU_VI_WIN_LIMIT_HI_ADDR, .rw, none, .any, false⟩]⟩, -- MMU_VI_WIN_LIMIT_HI
  ⟨0x401060, [(17, 0x100)], false, 0x0, [⟨F.MMU_FAULT_VA_LO_VA, .ro, none, .any, false⟩]⟩, -- MMU_FAULT_VA_LO
  ⟨0x401064, [(17, 0x100)], false, 0x0, [⟨F.MMU_FAULT_VA_HI_VA, .ro, none, .any, false⟩]⟩, -- MMU_FAULT_VA_HI
  ⟨0x401068, [(17, 0x100)], false, 0x0, [⟨F.MMU_FAULT_INFO_REASON, .ro, none, .any, false⟩, ⟨F.MMU_FAULT_INFO_LEVEL, .ro, none, .any, false⟩, ⟨F.MMU_FAULT_INFO_FRAME, .ro, none, .any, false⟩, ⟨F.MMU_FAULT_INFO_AGENT, .ro, none, .any, false⟩, ⟨F.MMU_FAULT_INFO_VALID, .w1c, none, .any, false⟩]⟩, -- MMU_FAULT_INFO
  ⟨0x40106C, [(17, 0x100)], false, 0x0, [⟨F.MMU_FAULT_CNT_CNT, .ro, none, .any, false⟩]⟩, -- MMU_FAULT_CNT
  ⟨0x408000, [], true, 0x0, [⟨F.MEM_CTL_SPILL_WAYS, .rw, none, .range 0 11, false⟩]⟩, -- MEM_CTL
  ⟨0x408004, [], false, 0x0, [⟨F.MEM_STAT_SLOTS, .ro, none, .any, false⟩, ⟨F.MEM_STAT_SPILL_SHORT, .w1c, none, .any, false⟩, ⟨F.MEM_STAT_SPILL_CLAMP, .w1c, none, .any, false⟩, ⟨F.MEM_STAT_HOT, .ro, none, .any, false⟩, ⟨F.MEM_STAT_SELFREF, .ro, none, .any, false⟩]⟩, -- MEM_STAT
  ⟨0x408008, [], false, 0x0, [⟨F.MEM_STAT_PRE_EFF_TILES, .ro, none, .any, false⟩]⟩, -- MEM_STAT_PRE_EFF
  ⟨0x40800C, [], false, 0x0, [⟨F.MEM_CE_THR_THR, .rw, some 6, .any, false⟩]⟩, -- MEM_CE_THR
  ⟨0x408100, [(8, 0x20)], false, 0x0, [⟨F.MEM_HBM_CE_CNT, .ro, none, .any, false⟩]⟩, -- MEM_HBM_CE
  ⟨0x408104, [(8, 0x20)], false, 0x0, [⟨F.MEM_HBM_UE_CNT, .ro, none, .any, false⟩]⟩, -- MEM_HBM_UE
  ⟨0x408108, [(8, 0x20)], false, 0x0, [⟨F.MEM_HBM_UE_ADDR_LO_PA, .ro, none, .any, false⟩]⟩, -- MEM_HBM_UE_ADDR_LO
  ⟨0x40810C, [(8, 0x20)], false, 0x0, [⟨F.MEM_HBM_UE_ADDR_HI_PA, .ro, none, .any, false⟩, ⟨F.MEM_HBM_UE_ADDR_HI_VALID, .w1c, none, .any, false⟩]⟩, -- MEM_HBM_UE_ADDR_HI
  ⟨0x408110, [(8, 0x20)], false, 0x0, [⟨F.MEM_HBM_TEMP_TEMP, .ro, none, .any, false⟩]⟩, -- MEM_HBM_TEMP
  ⟨0x409000, [(24, 0x20)], false, 0x0, [⟨F.MEM_TC_HIT_CNT, .ro, none, .any, false⟩]⟩ -- MEM_TC_HIT
]

def regsMemory1 : List RegDef := [
  ⟨0x409004, [(24, 0x20)], false, 0x0, [⟨F.MEM_TC_MISS_CNT, .ro, none, .any, false⟩]⟩, -- MEM_TC_MISS
  ⟨0x409008, [(24, 0x20)], false, 0x0, [⟨F.MEM_TC_MERGE_CNT, .ro, none, .any, false⟩]⟩, -- MEM_TC_MERGE
  ⟨0x40900C, [(24, 0x20)], false, 0x0, [⟨F.MEM_TC_DEAD_CNT, .ro, none, .any, false⟩]⟩, -- MEM_TC_DEAD
  ⟨0x409010, [(24, 0x20)], false, 0x0, [⟨F.MEM_TC_CE_CNT, .ro, none, .any, false⟩]⟩, -- MEM_TC_CE
  ⟨0x409014, [(24, 0x20)], false, 0x0, [⟨F.MEM_TC_UE_CNT, .ro, none, .any, false⟩]⟩, -- MEM_TC_UE
  ⟨0x410000, [], true, 0x0, [⟨F.SEQ_CTL_EN, .rw, none, .any, false⟩]⟩, -- SEQ_CTL
  ⟨0x410004, [], false, 0x0, [⟨F.SEQ_ERR_GRP_CFG, .w1c, none, .any, false⟩, ⟨F.SEQ_ERR_CMD_BUSY, .w1c, none, .any, false⟩]⟩, -- SEQ_ERR
  ⟨0x410008, [], true, 0x0, [⟨F.SEQ_TBL_LO_ADDR, .rw, none, .any, false⟩]⟩, -- SEQ_TBL_LO
  ⟨0x41000C, [], true, 0x0, [⟨F.SEQ_TBL_HI_ADDR, .rw, none, .any, false⟩]⟩, -- SEQ_TBL_HI
  ⟨0x410010, [], true, 0x0, [⟨F.SEQ_TBL_SIZE_ENTRIES, .rw, none, .range 1 1048576, false⟩]⟩, -- SEQ_TBL_SIZE
  ⟨0x410020, [], false, 0x0, [⟨F.SEQ_CMD_INDEX, .rw, none, .any, false⟩, ⟨F.SEQ_CMD_OP, .rw, none, .any, false⟩, ⟨F.SEQ_CMD_GO, .trig, none, .any, false⟩]⟩, -- SEQ_CMD
  ⟨0x410024, [], false, 0x0, [⟨F.SEQ_CMD_STAT_BUSY, .ro, none, .any, false⟩, ⟨F.SEQ_CMD_STAT_RESULT, .ro, none, .any, false⟩]⟩, -- SEQ_CMD_STAT
  ⟨0x410030, [], false, 0x55, [⟨F.SEQ_SAT_THR, .rw, some 7, .any, false⟩]⟩, -- SEQ_SAT
  ⟨0x410034, [], false, 0x0, [⟨F.SEQ_OCC_PCT, .ro, none, .any, false⟩]⟩, -- SEQ_OCC
  ⟨0x410040, [], false, 0x0, [⟨F.SEQ_CNT_APPEND_CNT, .ro, none, .any, false⟩]⟩, -- SEQ_CNT_APPEND
  ⟨0x410044, [], false, 0x0, [⟨F.SEQ_CNT_FULL_CNT, .ro, none, .any, false⟩]⟩, -- SEQ_CNT_FULL
  ⟨0x410048, [], false, 0x0, [⟨F.SEQ_CNT_INACTIVE_CNT, .ro, none, .any, false⟩]⟩, -- SEQ_CNT_INACTIVE
  ⟨0x410100, [(64, 0x10)], true, 0x0, [⟨F.SEQ_GRP_CFG_VALID, .rw, none, .any, false⟩, ⟨F.SEQ_GRP_CFG_MODE, .rw, none, .any, false⟩, ⟨F.SEQ_GRP_CFG_USE, .rw, none, .any, false⟩, ⟨F.SEQ_GRP_CFG_LAYERS, .rw, none, .any, false⟩, ⟨F.SEQ_GRP_CFG_LAYB, .rw, none, .any, false⟩]⟩, -- SEQ_GRP_CFG
  ⟨0x410104, [(64, 0x10)], true, 0x0, [⟨F.SEQ_GRP_OWN_VI, .rw, none, .any, false⟩, ⟨F.SEQ_GRP_OWN_PF, .rw, none, .any, false⟩]⟩, -- SEQ_GRP_OWN
  ⟨0x410800, [(64, 0x20)], false, 0x8, [⟨F.SEQ_BCTX_CTL_JOIN_CAP, .rw, some 7, .any, false⟩]⟩, -- SEQ_BCTX_CTL
  ⟨0x410804, [(64, 0x20)], false, 0x1000, [⟨F.SEQ_BCTX_BUDGET_UNITS, .rw, some 7, .any, false⟩]⟩, -- SEQ_BCTX_BUDGET
  ⟨0x410808, [(64, 0x20)], false, 0x0, [⟨F.SEQ_BCTX_STEP_STEP, .ro, none, .any, false⟩]⟩, -- SEQ_BCTX_STEP
  ⟨0x41080C, [(64, 0x20)], false, 0x0, [⟨F.SEQ_BCTX_DEFER_CNT, .ro, none, .any, false⟩]⟩, -- SEQ_BCTX_DEFER
  ⟨0x410810, [(64, 0x20)], false, 0x0, [⟨F.SEQ_BCTX_JOIN_CNT, .ro, none, .any, false⟩]⟩, -- SEQ_BCTX_JOIN
  ⟨0x410814, [(64, 0x20)], true, 0x0, [⟨F.SEQ_BCTX_OWN_VI, .rw, none, .any, false⟩, ⟨F.SEQ_BCTX_OWN_PF, .rw, none, .any, false⟩]⟩ -- SEQ_BCTX_OWN
]

def regsMemory : List RegDef := regsMemory0 ++ regsMemory1

def regsNave : List RegDef := [
  ⟨0x800000, [(32, 0x10000)], false, 0x0, [⟨F.NAV_CTL_PRE_REQ, .trig, some 4, .any, false⟩, ⟨F.NAV_CTL_PRE_REL, .trig, some 4, .any, false⟩, ⟨F.NAV_CTL_CLR, .trig, none, .any, false⟩]⟩, -- NAV_CTL
  ⟨0x800004, [(32, 0x10000)], false, 0x1, [⟨F.NAV_STAT_STATE, .ro, none, .any, false⟩, ⟨F.NAV_STAT_ROLE, .ro, none, .any, false⟩, ⟨F.NAV_STAT_ECC_CE, .w1c, none, .any, false⟩, ⟨F.NAV_STAT_PRE_OVER, .w1c, none, .any, false⟩, ⟨F.NAV_STAT_OWNER, .ro, none, .any, false⟩, ⟨F.NAV_STAT_OWNER_PF, .ro, none, .any, false⟩]⟩, -- NAV_STAT
  ⟨0x800008, [(32, 0x10000)], false, 0x0, [⟨F.NAV_CNT_PASS_CNT, .ro, none, .any, false⟩]⟩, -- NAV_CNT_PASS
  ⟨0x80000C, [(32, 0x10000)], false, 0x0, [⟨F.NAV_CNT_MVP_CNT, .ro, none, .any, false⟩]⟩, -- NAV_CNT_MVP
  ⟨0x800010, [(32, 0x10000)], false, 0x0, [⟨F.NAV_CNT_STALL_CNT, .ro, none, .any, false⟩]⟩, -- NAV_CNT_STALL
  ⟨0x800014, [(32, 0x10000)], false, 0x0, [⟨F.NAV_CNT_PRE_CNT, .ro, none, .any, false⟩]⟩, -- NAV_CNT_PRE
  ⟨0x800018, [(32, 0x10000)], false, 0x0, [⟨F.NAV_PRE_MAX_NS, .ro, none, .any, false⟩]⟩, -- NAV_PRE_MAX
  ⟨0x800100, [(32, 0x10000), (8, 0x10)], false, 0x0, [⟨F.NAV_STR_STAT_HELD, .ro, none, .any, false⟩, ⟨F.NAV_STR_STAT_MODE, .ro, none, .any, false⟩, ⟨F.NAV_STR_STAT_OPEN, .ro, none, .any, false⟩]⟩, -- NAV_STR_STAT
  ⟨0x800104, [(32, 0x10000), (8, 0x10)], false, 0x0, [⟨F.NAV_STR_AGE_CYC, .ro, none, .any, false⟩]⟩ -- NAV_STR_AGE
]

def regsCloister : List RegDef := [
  ⟨0xA00000, [(16, 0x10000)], false, 0x0, [⟨F.CLO_CTL_EN, .rw, none, .any, false⟩, ⟨F.CLO_CTL_HALT, .trig, some 2, .any, false⟩, ⟨F.CLO_CTL_STEP, .trig, some 2, .any, false⟩, ⟨F.CLO_CTL_CLR, .trig, none, .any, false⟩, ⟨F.CLO_CTL_RESUME, .trig, some 2, .any, false⟩]⟩, -- CLO_CTL
  ⟨0xA00004, [(16, 0x10000)], false, 0x0, [⟨F.CLO_STAT_STATE, .ro, none, .any, false⟩, ⟨F.CLO_STAT_AOVF, .w1c, none, .any, false⟩, ⟨F.CLO_STAT_EVOVF, .w1c, none, .any, false⟩, ⟨F.CLO_STAT_IMWR, .w1c, none, .any, false⟩, ⟨F.CLO_STAT_DMECC, .w1c, none, .any, false⟩, ⟨F.CLO_STAT_FAULT, .ro, none, .any, false⟩, ⟨F.CLO_STAT_FAULT_PC, .ro, none, .any, false⟩]⟩, -- CLO_STAT
  ⟨0xA00008, [(16, 0x10000)], false, 0x0, [⟨F.CLO_ENTRY_BUNDLE, .rw, some 2, .any, false⟩]⟩, -- CLO_ENTRY
  ⟨0xA0000C, [(16, 0x10000)], false, 0x0, [⟨F.CLO_IVEC_BUNDLE, .rw, some 2, .any, false⟩]⟩, -- CLO_IVEC
  ⟨0xA00010, [(16, 0x10000)], false, 0x0, [⟨F.CLO_STI_MASK, .rw, some 2, .any, false⟩]⟩, -- CLO_STI
  ⟨0xA00014, [(16, 0x10000)], false, 0x0, [⟨F.CLO_EVP_EVP, .w1c, none, .any, false⟩]⟩, -- CLO_EVP
  ⟨0xA00018, [(16, 0x10000)], false, 0x0, [⟨F.CLO_IEN_IEN, .rw, some 2, .any, false⟩]⟩, -- CLO_IEN
  ⟨0xA0001C, [(16, 0x10000)], false, 0x0, [⟨F.CLO_EVLOST_CNT, .ro, none, .any, false⟩]⟩, -- CLO_EVLOST
  ⟨0xA00020, [(16, 0x10000)], false, 0x0, [⟨F.CLO_DBG_SCALE, .ro, none, .any, false⟩, ⟨F.CLO_DBG_BFP, .ro, none, .any, false⟩, ⟨F.CLO_DBG_HEAD, .ro, none, .any, false⟩, ⟨F.CLO_DBG_RRB, .ro, none, .any, false⟩, ⟨F.CLO_DBG_PC, .ro, none, .any, false⟩]⟩, -- CLO_DBG
  ⟨0xA00030, [(16, 0x10000)], false, 0x0, [⟨F.CLO_IMA_ADDR, .rw, some 2, .any, false⟩]⟩, -- CLO_IMA
  ⟨0xA00034, [(16, 0x10000)], false, 0x0, [⟨F.CLO_IMD_DATA, .trig, some 2, .any, false⟩]⟩, -- CLO_IMD
  ⟨0xA00038, [(16, 0x10000)], false, 0x0, [⟨F.CLO_DMA_ADDR, .rw, some 2, .any, false⟩]⟩, -- CLO_DMA
  ⟨0xA0003C, [(16, 0x10000)], false, 0x0, [⟨F.CLO_DMD_DATA, .trig, some 2, .any, false⟩]⟩, -- CLO_DMD
  ⟨0xA00040, [(16, 0x10000)], false, 0x0, [⟨F.CLO_PERF_CYC_CNT, .ro, none, .any, false⟩]⟩, -- CLO_PERF_CYC
  ⟨0xA00044, [(16, 0x10000)], false, 0x0, [⟨F.CLO_PERF_EXT_CNT, .ro, none, .any, false⟩]⟩, -- CLO_PERF_EXT
  ⟨0xA00048, [(16, 0x10000)], false, 0x0, [⟨F.CLO_PERF_OPND_CNT, .ro, none, .any, false⟩]⟩ -- CLO_PERF_OPND
]

def regsRadio0 : List RegDef := [
  ⟨0xB00000, [], true, 0x0, [⟨F.RFI_CTL_MODE, .rw, none, .codes 3, false⟩, ⟨F.RFI_CTL_RX_EN, .rw, none, .any, false⟩, ⟨F.RFI_CTL_TX_EN, .rw, none, .any, false⟩, ⟨F.RFI_CTL_SG, .rw, none, .any, false⟩]⟩, -- RFI_CTL
  ⟨0xB00004, [], false, 0x0, [⟨F.RFI_STAT_RX_LOCK, .ro, none, .any, false⟩, ⟨F.RFI_STAT_TX_LOCK, .ro, none, .any, false⟩, ⟨F.RFI_STAT_ALIGN_JUMP, .w1c, none, .any, false⟩, ⟨F.RFI_STAT_CFG_ERR, .w1c, none, .any, false⟩, ⟨F.RFI_STAT_RX_LOCK_LOST, .w1c, none, .any, false⟩, ⟨F.RFI_STAT_TX_LOCK_LOST, .w1c, none, .any, false⟩, ⟨F.RFI_STAT_ALIGN_PH, .ro, none, .any, false⟩]⟩, -- RFI_STAT
  ⟨0xB00010, [], true, 0x0, [⟨F.RFI_JRX_CFG_L, .rw, none, .any, false⟩, ⟨F.RFI_JRX_CFG_M, .rw, none, .any, false⟩, ⟨F.RFI_JRX_CFG_N, .rw, none, .any, false⟩, ⟨F.RFI_JRX_CFG_E, .rw, none, .any, false⟩, ⟨F.RFI_JRX_CFG_CLKMUL, .rw, none, .any, false⟩]⟩, -- RFI_JRX_CFG
  ⟨0xB00014, [], true, 0x0, [⟨F.RFI_JTX_CFG_L, .rw, none, .any, false⟩, ⟨F.RFI_JTX_CFG_M, .rw, none, .any, false⟩, ⟨F.RFI_JTX_CFG_N, .rw, none, .any, false⟩, ⟨F.RFI_JTX_CFG_E, .rw, none, .any, false⟩, ⟨F.RFI_JTX_CFG_CLKMUL, .rw, none, .any, false⟩]⟩, -- RFI_JTX_CFG
  ⟨0xB00018, [], false, 0x0, [⟨F.RFI_SYSREF_CTL_CONT, .rw, none, .any, false⟩]⟩, -- RFI_SYSREF_CTL
  ⟨0xB00020, [], false, 0x0, [⟨F.RFI_RX_LAT_SAMPLES, .rw, some 1, .any, false⟩]⟩, -- RFI_RX_LAT
  ⟨0xB00024, [], false, 0x0, [⟨F.RFI_TX_LAT_SAMPLES, .rw, some 1, .any, false⟩]⟩, -- RFI_TX_LAT
  ⟨0xB00028, [], false, 0x2, [⟨F.RFI_ORX_SETTLE_US, .rw, some 1, .any, false⟩]⟩, -- RFI_ORX_SETTLE
  ⟨0xB00040, [(5, 0x4)], true, 0x0, [⟨F.RFI_RXMAP_I, .rw, none, .any, false⟩, ⟨F.RFI_RXMAP_Q, .rw, none, .any, false⟩, ⟨F.RFI_RXMAP_DEC, .rw, none, .codes 3, false⟩, ⟨F.RFI_RXMAP_EN, .rw, none, .any, false⟩]⟩, -- RFI_RXMAP
  ⟨0xB00060, [(4, 0x4)], true, 0x0, [⟨F.RFI_TXMAP_I, .rw, none, .any, false⟩, ⟨F.RFI_TXMAP_Q, .rw, none, .any, false⟩, ⟨F.RFI_TXMAP_INT, .rw, none, .codes 3, false⟩, ⟨F.RFI_TXMAP_EN, .rw, none, .any, false⟩]⟩, -- RFI_TXMAP
  ⟨0xB00080, [], true, 0x0, [⟨F.RFI_CST_BASE_LO_ADDR, .rw, none, .any, false⟩]⟩, -- RFI_CST_BASE_LO
  ⟨0xB00084, [], true, 0x0, [⟨F.RFI_CST_BASE_HI_ADDR, .rw, none, .any, false⟩]⟩, -- RFI_CST_BASE_HI
  ⟨0xB00088, [], false, 0x0, [⟨F.RFI_PDR_BASE_LO_ADDR, .rw, none, .any, false⟩]⟩, -- RFI_PDR_BASE_LO
  ⟨0xB0008C, [], false, 0x0, [⟨F.RFI_PDR_BASE_HI_ADDR, .rw, none, .any, false⟩]⟩, -- RFI_PDR_BASE_HI
  ⟨0xB00090, [], false, 0x0, [⟨F.RFI_PDR_PIDX_CNT, .ro, none, .any, false⟩]⟩, -- RFI_PDR_PIDX
  ⟨0xB00094, [], false, 0x0, [⟨F.RFI_PDR_CIDX_CNT, .rw, none, .any, false⟩]⟩, -- RFI_PDR_CIDX
  ⟨0xB00098, [], false, 0x0, [⟨F.RFI_PDR_DROP_CNT, .ro, none, .any, false⟩]⟩, -- RFI_PDR_DROP
  ⟨0xB000A0, [], false, 0x0, [⟨F.RFI_CNV_FMT_ADDR, .rw, none, .any, false⟩, ⟨F.RFI_CNV_FMT_W24, .rw, none, .any, false⟩, ⟨F.RFI_CNV_FMT_SCK_DIV, .rw, none, .any, false⟩]⟩, -- RFI_CNV_FMT
  ⟨0xB000B0, [], true, 0x0, [⟨F.RFI_SBUF_BASE_LO_ADDR, .rw, none, .any, false⟩]⟩, -- RFI_SBUF_BASE_LO
  ⟨0xB000B4, [], true, 0x0, [⟨F.RFI_SBUF_BASE_HI_ADDR, .rw, none, .any, false⟩]⟩, -- RFI_SBUF_BASE_HI
  ⟨0xB000B8, [], true, 0x0, [⟨F.RFI_SBUF_NSAMP_N, .rw, none, .range 1 491520, false⟩]⟩, -- RFI_SBUF_NSAMP
  ⟨0xB01000, [(4, 0x2000)], false, 0x0, [⟨F.RFI_DPD_CTL_EN, .rw, none, .any, false⟩, ⟨F.RFI_DPD_CTL_ACTIVE, .ro, none, .any, false⟩, ⟨F.RFI_DPD_CTL_SWAP, .w1s, some 1, .any, false⟩, ⟨F.RFI_DPD_CTL_LT_EN, .rw, some 1, .any, false⟩, ⟨F.RFI_DPD_CTL_LT_DEC, .rw, some 1, .any, false⟩]⟩, -- RFI_DPD_CTL
  ⟨0xB01004, [(4, 0x2000)], false, 0x0, [⟨F.RFI_DPD_STAT_TERM_ERR, .w1c, none, .any, false⟩, ⟨F.RFI_DPD_STAT_ACT_WR, .w1c, none, .any, false⟩, ⟨F.RFI_DPD_STAT_PEND_WR, .w1c, none, .any, false⟩]⟩, -- RFI_DPD_STAT
  ⟨0xB01008, [(4, 0x2000)], false, 0x0, [⟨F.RFI_DPD_LT_CORE, .rw, some 1, .any, false⟩, ⟨F.RFI_DPD_LT_LT_LAT, .rw, some 1, .any, false⟩]⟩, -- RFI_DPD_LT
  ⟨0xB0100C, [(4, 0x2000)], false, 0x0, [⟨F.RFI_DPD_LT_UNDER_CNT, .ro, none, .any, false⟩]⟩, -- RFI_DPD_LT_UNDER
  ⟨0xB01010, [(4, 0x2000)], false, 0x0, [⟨F.RFI_DPD_CAP_GO, .trig, some 1, .any, false⟩, ⟨F.RFI_DPD_CAP_SYM, .rw, some 1, .any, false⟩, ⟨F.RFI_DPD_CAP_LEN, .rw, some 1, .any, false⟩]⟩, -- RFI_DPD_CAP
  ⟨0xB01014, [(4, 0x2000)], false, 0x0, [⟨F.RFI_DPD_CAP_STAT_DONE, .w1c, none, .any, false⟩]⟩, -- RFI_DPD_CAP_STAT
  ⟨0xB01018, [(4, 0x2000)], false, 0x0, [⟨F.RFI_DPD_CAP_ADDR_LO_ADDR, .rw, some 1, .any, false⟩]⟩, -- RFI_DPD_CAP_ADDR_LO
  ⟨0xB0101C, [(4, 0x2000)], false, 0x0, [⟨F.RFI_DPD_CAP_ADDR_HI_ADDR, .rw, some 1, .any, false⟩]⟩, -- RFI_DPD_CAP_ADDR_HI
  ⟨0xB01800, [(4, 0x2000), (2, 0x800), (128, 0x4)], false, 0x0, [⟨F.RFI_DPD_TERM_K, .rw, some 1, .any, false⟩, ⟨F.RFI_DPD_TERM_M, .rw, some 1, .any, false⟩, ⟨F.RFI_DPD_TERM_L, .rw, some 1, .any, false⟩, ⟨F.RFI_DPD_TERM_VALID, .rw, some 1, .any, false⟩]⟩ -- RFI_DPD_TERM
]

def regsRadio1 : List RegDef := [
  ⟨0xB01A00, [(4, 0x2000), (2, 0x800), (256, 0x4)], false, 0x0, [⟨F.RFI_DPD_COEF_V, .rw, some 1, .any, false⟩]⟩, -- RFI_DPD_COEF
  ⟨0xB09000, [(5, 0x40)], false, 0x0, [⟨F.RFI_AGC_CTL_MODE, .rw, none, .codes 3, false⟩, ⟨F.RFI_AGC_CTL_FREEZE_SRC, .rw, some 1, .any, false⟩, ⟨F.RFI_AGC_CTL_OUT, .rw, none, .any, false⟩]⟩, -- RFI_AGC_CTL
  ⟨0xB09004, [(5, 0x40)], false, 0x0, [⟨F.RFI_AGC_TARGET_DBFS, .rw, none, .any, false⟩]⟩, -- RFI_AGC_TARGET
  ⟨0xB09008, [(5, 0x40)], false, 0x0, [⟨F.RFI_AGC_GAIN_G, .rw, none, .any, false⟩]⟩, -- RFI_AGC_GAIN
  ⟨0xB0900C, [(5, 0x40)], false, 0x0, [⟨F.RFI_AGC_LIM_GMIN, .rw, some 1, .any, false⟩, ⟨F.RFI_AGC_LIM_GMAX, .rw, some 1, .any, false⟩, ⟨F.RFI_AGC_LIM_MAX_STEP, .rw, some 1, .any, false⟩, ⟨F.RFI_AGC_LIM_STEP, .rw, none, .codes 3, false⟩]⟩, -- RFI_AGC_LIM
  ⟨0xB09010, [(5, 0x40)], false, 0x0, [⟨F.RFI_AGC_STEPD_UP_THR, .rw, none, .any, false⟩, ⟨F.RFI_AGC_STEPD_DN_THR, .rw, none, .any, false⟩, ⟨F.RFI_AGC_STEPD_DWELL, .rw, none, .any, false⟩]⟩, -- RFI_AGC_STEPD
  ⟨0xB09014, [(5, 0x40)], false, 0x0, [⟨F.RFI_AGC_FRZ_FREEZE_DLY, .rw, some 1, .any, false⟩]⟩, -- RFI_AGC_FRZ
  ⟨0xB09018, [(5, 0x40)], false, 0x0, [⟨F.RFI_AGC_LAT_SAMPLES, .rw, some 1, .any, false⟩]⟩, -- RFI_AGC_LAT
  ⟨0xB0901C, [(5, 0x40)], false, 0x0, [⟨F.RFI_AGC_STAT_FROZEN, .ro, none, .any, false⟩, ⟨F.RFI_AGC_STAT_CFG_ERR, .w1c, none, .any, false⟩]⟩, -- RFI_AGC_STAT
  ⟨0xB09020, [(5, 0x40)], false, 0x0, [⟨F.RFI_MON_EN, .rw, some 1, .any, false⟩, ⟨F.RFI_MON_NID2, .rw, some 1, .any, false⟩, ⟨F.RFI_MON_CELL, .rw, some 1, .any, false⟩, ⟨F.RFI_MON_SSB, .rw, some 1, .any, false⟩]⟩, -- RFI_MON
  ⟨0xB0A000, [(4, 0x40)], false, 0x0, [⟨F.RFI_PRA_CTL_EN, .rw, none, .any, false⟩, ⟨F.RFI_PRA_CTL_LEN, .rw, none, .any, false⟩, ⟨F.RFI_PRA_CTL_FORMAT, .rw, none, .any, false⟩, ⟨F.RFI_PRA_CTL_SET, .rw, none, .codes 2, false⟩, ⟨F.RFI_PRA_CTL_MASK, .rw, none, .any, false⟩, ⟨F.RFI_PRA_CTL_SCS, .rw, none, .any, false⟩]⟩, -- RFI_PRA_CTL
  ⟨0xB0A004, [(4, 0x40)], false, 0x0, [⟨F.RFI_PRA_ROOT_ROOT, .rw, none, .any, false⟩]⟩, -- RFI_PRA_ROOT
  ⟨0xB0A008, [(4, 0x40)], false, 0x0, [⟨F.RFI_PRA_NCS_NCS, .rw, none, .any, false⟩]⟩, -- RFI_PRA_NCS
  ⟨0xB0A00C, [(4, 0x40)], false, 0x0, [⟨F.RFI_PRA_THR_THR, .rw, none, .any, false⟩]⟩, -- RFI_PRA_THR
  ⟨0xB0A010, [(4, 0x40)], false, 0x0, [⟨F.RFI_PRA_OCC_CMP, .rw, none, .any, false⟩, ⟨F.RFI_PRA_OCC_SC, .rw, none, .any, false⟩]⟩, -- RFI_PRA_OCC
  ⟨0xB0B000, [], false, 0x40400, [⟨F.RFI_SYN_CTL_EN, .rw, none, .any, false⟩, ⟨F.RFI_SYN_CTL_SRC, .rw, some 1, .any, false⟩, ⟨F.RFI_SYN_CTL_CELL, .rw, some 1, .any, false⟩, ⟨F.RFI_SYN_CTL_AVG_SHIFT, .rw, some 1, .any, false⟩, ⟨F.RFI_SYN_CTL_HOLD, .rw, some 1, .any, false⟩]⟩, -- RFI_SYN_CTL
  ⟨0xB0B004, [], false, 0x640014, [⟨F.RFI_SYN_LIM_DEADBAND, .rw, none, .any, false⟩, ⟨F.RFI_SYN_LIM_MAX_STEP, .rw, none, .any, false⟩]⟩, -- RFI_SYN_LIM
  ⟨0xB0B008, [], false, 0x17100, [⟨F.RFI_SYN_FMT_ADDR, .rw, none, .any, false⟩, ⟨F.RFI_SYN_FMT_W24, .rw, none, .any, false⟩, ⟨F.RFI_SYN_FMT_SCK_DIV, .rw, none, .any, false⟩, ⟨F.RFI_SYN_FMT_RES, .rw, none, .any, false⟩]⟩, -- RFI_SYN_FMT
  ⟨0xB0B00C, [], false, 0x0, [⟨F.RFI_SYN_WORD_WORD, .rw, none, .any, false⟩]⟩ -- RFI_SYN_WORD
]

def regsRadio : List RegDef := regsRadio0 ++ regsRadio1

def regsFronthaul0 : List RegDef := [
  ⟨0xC00000, [], true, 0x0, [⟨F.FHS_CTL_EN, .rw, none, .any, false⟩]⟩, -- FHS_CTL
  ⟨0xC00004, [], false, 0x0, [⟨F.FHS_ERR_CFG_ERR, .w1c, none, .any, false⟩, ⟨F.FHS_ERR_BUF_CFG, .w1c, none, .any, false⟩, ⟨F.FHS_ERR_MAC_BUSY, .w1c, none, .any, false⟩]⟩, -- FHS_ERR
  ⟨0xC00008, [(2, 0x4)], true, 0x0, [⟨F.FHS_QUAD_CFG_MODE, .rw, none, .any, false⟩]⟩, -- FHS_QUAD_CFG
  ⟨0xC00010, [], false, 0xA, [⟨F.FHS_DAMP_MS, .rw, some 8, .range 0 1000, false⟩]⟩, -- FHS_DAMP
  ⟨0xC00014, [], false, 0x12C, [⟨F.FHS_AGE_S, .rw, some 8, .any, false⟩]⟩, -- FHS_AGE
  ⟨0xC00018, [], false, 0x3E8, [⟨F.FHS_REFILL_NS, .rw, some 8, .range 100 1000000, false⟩]⟩, -- FHS_REFILL
  ⟨0xC0001C, [], true, 0x0, [⟨F.FHS_HOST_FN_FN, .rw, none, .any, false⟩]⟩, -- FHS_HOST_FN
  ⟨0xC00020, [], false, 0x0, [⟨F.FHS_HOST_FLOOD_FN, .rw, none, .codes 17, false⟩]⟩, -- FHS_HOST_FLOOD
  ⟨0xC00030, [], false, 0x0, [⟨F.FHS_CNT_LEARN_FULL_CNT, .ro, none, .any, false⟩]⟩, -- FHS_CNT_LEARN_FULL
  ⟨0xC00034, [], false, 0x0, [⟨F.FHS_CNT_LEARN_DROP_CNT, .ro, none, .any, false⟩]⟩, -- FHS_CNT_LEARN_DROP
  ⟨0xC00038, [], false, 0x0, [⟨F.FHS_CNT_MOVE_CNT, .ro, none, .any, false⟩]⟩, -- FHS_CNT_MOVE
  ⟨0xC0003C, [], false, 0x0, [⟨F.FHS_CNT_FLAP_CNT, .ro, none, .any, false⟩]⟩, -- FHS_CNT_FLAP
  ⟨0xC00040, [], false, 0x0, [⟨F.FHS_CNT_FLOW_MISS_CNT, .ro, none, .any, false⟩]⟩, -- FHS_CNT_FLOW_MISS
  ⟨0xC00044, [], false, 0x0, [⟨F.FHS_CNT_SECT_ERR_CNT, .ro, none, .any, false⟩]⟩, -- FHS_CNT_SECT_ERR
  ⟨0xC00048, [(3, 0x4)], false, 0x0, [⟨F.FHS_INT_DROP_CNT, .ro, none, .any, false⟩]⟩, -- FHS_INT_DROP
  ⟨0xC00060, [], false, 0x0, [⟨F.FHS_MAC_CMD_INDEX, .rw, none, .any, false⟩, ⟨F.FHS_MAC_CMD_OP, .rw, none, .any, false⟩, ⟨F.FHS_MAC_CMD_PORT, .rw, none, .any, false⟩, ⟨F.FHS_MAC_CMD_GO, .w1s, none, .any, false⟩]⟩, -- FHS_MAC_CMD
  ⟨0xC00064, [], false, 0x0, [⟨F.FHS_MAC_D0_MAC, .rw, none, .any, false⟩]⟩, -- FHS_MAC_D0
  ⟨0xC00068, [], false, 0x0, [⟨F.FHS_MAC_D1_MAC, .rw, none, .any, false⟩]⟩, -- FHS_MAC_D1
  ⟨0xC0006C, [], false, 0x0, [⟨F.FHS_MAC_D2_VID, .rw, none, .any, false⟩, ⟨F.FHS_MAC_D2_PORT, .rw, none, .any, false⟩, ⟨F.FHS_MAC_D2_FUNC, .rw, none, .any, false⟩, ⟨F.FHS_MAC_D2_VALID, .rw, none, .any, false⟩, ⟨F.FHS_MAC_D2_STATIC, .rw, none, .any, false⟩, ⟨F.FHS_MAC_D2_HIT, .ro, none, .any, false⟩]⟩, -- FHS_MAC_D2
  ⟨0xC00100, [(64, 0x8)], false, 0x0, [⟨F.FHS_VLAN_VID, .rw, none, .any, false⟩, ⟨F.FHS_VLAN_VALID, .rw, none, .any, false⟩]⟩, -- FHS_VLAN
  ⟨0xC00104, [(64, 0x8)], false, 0x0, [⟨F.FHS_VLAN_MASK_MEMBER, .rw, none, .any, false⟩, ⟨F.FHS_VLAN_MASK_UNTAG, .rw, none, .any, false⟩]⟩, -- FHS_VLAN_MASK
  ⟨0xC01000, [(256, 0x10)], false, 0x0, [⟨F.FHS_FLOW_PC_ID, .rw, none, .any, false⟩, ⟨F.FHS_FLOW_KIND, .rw, none, .codes 4, false⟩, ⟨F.FHS_FLOW_VALID, .rw, none, .any, false⟩, ⟨F.FHS_FLOW_CELL, .rw, none, .any, false⟩, ⟨F.FHS_FLOW_ANT, .rw, none, .any, false⟩]⟩, -- FHS_FLOW
  ⟨0xC01004, [(256, 0x10)], false, 0x0, [⟨F.FHS_FLOW_ATTR_COMP, .rw, none, .any, false⟩, ⟨F.FHS_FLOW_ATTR_HDR, .rw, none, .any, false⟩, ⟨F.FHS_FLOW_ATTR_QUEUE, .rw, none, .any, false⟩, ⟨F.FHS_FLOW_ATTR_PORT, .rw, none, .any, false⟩]⟩, -- FHS_FLOW_ATTR
  ⟨0xC03000, [(16, 0x20)], true, 0x0, [⟨F.FHS_CELL_SBUF_LO_ADDR, .rw, none, .any, false⟩]⟩, -- FHS_CELL_SBUF_LO
  ⟨0xC03004, [(16, 0x20)], true, 0x0, [⟨F.FHS_CELL_SBUF_HI_ADDR, .rw, none, .any, false⟩]⟩, -- FHS_CELL_SBUF_HI
  ⟨0xC03008, [(16, 0x20)], false, 0x0, [⟨F.FHS_CELL_CFG_NANT, .rw, none, .range 1 16, false⟩, ⟨F.FHS_CELL_CFG_MU, .rw, none, .any, false⟩, ⟨F.FHS_CELL_CFG_EN, .rw, none, .any, false⟩]⟩, -- FHS_CELL_CFG
  ⟨0xC0300C, [(16, 0x20)], false, 0x0, [⟨F.FHS_CELL_SECT_CNT, .ro, none, .any, false⟩]⟩, -- FHS_CELL_SECT
  ⟨0xC04000, [(8, 0x800)], false, 0x0, [⟨F.FHS_P_CTL_EN, .rw, none, .any, false⟩, ⟨F.FHS_P_CTL_FEC, .rw, none, .codes 3, false⟩, ⟨F.FHS_P_CTL_LEARN, .rw, none, .any, false⟩, ⟨F.FHS_P_CTL_DEF_PCP, .rw, none, .any, false⟩, ⟨F.FHS_P_CTL_PVID, .rw, none, .any, false⟩]⟩, -- FHS_P_CTL
  ⟨0xC04004, [(8, 0x800)], false, 0x0, [⟨F.FHS_P_STAT_LINK, .ro, none, .any, false⟩, ⟨F.FHS_P_STAT_BLOCK_LOCK, .ro, none, .any, false⟩, ⟨F.FHS_P_STAT_FEC_ALIGN, .ro, none, .any, false⟩, ⟨F.FHS_P_STAT_LINK_DOWN_SEEN, .w1c, none, .any, false⟩]⟩, -- FHS_P_STAT
  ⟨0xC04008, [(8, 0x800)], false, 0xFAC688, [⟨F.FHS_P_PCPMAP_MAP, .rw, none, .any, false⟩]⟩ -- FHS_P_PCPMAP
]

def regsFronthaul1 : List RegDef := [
  ⟨0xC04010, [(8, 0x800)], false, 0x0, [⟨F.FHS_P_RX_FRAMES_CNT, .ro, none, .any, false⟩]⟩, -- FHS_P_RX_FRAMES
  ⟨0xC04014, [(8, 0x800)], false, 0x0, [⟨F.FHS_P_RX_BYTES_LO_CNT, .ro, none, .any, false⟩]⟩, -- FHS_P_RX_BYTES_LO
  ⟨0xC04018, [(8, 0x800)], false, 0x0, [⟨F.FHS_P_RX_BYTES_HI_CNT, .ro, none, .any, false⟩]⟩, -- FHS_P_RX_BYTES_HI
  ⟨0xC0401C, [(8, 0x800)], false, 0x0, [⟨F.FHS_P_TX_FRAMES_CNT, .ro, none, .any, false⟩]⟩, -- FHS_P_TX_FRAMES
  ⟨0xC04020, [(8, 0x800)], false, 0x0, [⟨F.FHS_P_TX_BYTES_LO_CNT, .ro, none, .any, false⟩]⟩, -- FHS_P_TX_BYTES_LO
  ⟨0xC04024, [(8, 0x800)], false, 0x0, [⟨F.FHS_P_TX_BYTES_HI_CNT, .ro, none, .any, false⟩]⟩, -- FHS_P_TX_BYTES_HI
  ⟨0xC04028, [(8, 0x800)], false, 0x0, [⟨F.FHS_P_RX_ERR_CNT, .ro, none, .any, false⟩]⟩, -- FHS_P_RX_ERR
  ⟨0xC0402C, [(8, 0x800)], false, 0x0, [⟨F.FHS_P_VLAN_DROP_CNT, .ro, none, .any, false⟩]⟩, -- FHS_P_VLAN_DROP
  ⟨0xC04030, [(8, 0x800)], false, 0x0, [⟨F.FHS_P_PAUSE_DROP_CNT, .ro, none, .any, false⟩]⟩, -- FHS_P_PAUSE_DROP
  ⟨0xC04034, [(8, 0x800)], false, 0x0, [⟨F.FHS_P_LINK_DROP_CNT, .ro, none, .any, false⟩]⟩, -- FHS_P_LINK_DROP
  ⟨0xC04038, [(8, 0x800)], false, 0x0, [⟨F.FHS_P_FEC_CORR_CNT, .ro, none, .any, false⟩]⟩, -- FHS_P_FEC_CORR
  ⟨0xC0403C, [(8, 0x800)], false, 0x0, [⟨F.FHS_P_FEC_UNCORR_CNT, .ro, none, .any, false⟩]⟩, -- FHS_P_FEC_UNCORR
  ⟨0xC04100, [(8, 0x800), (8, 0x40)], false, 0x1, [⟨F.FHS_P_Q_WEIGHT_W, .rw, none, .range 1 255, false⟩]⟩, -- FHS_P_Q_WEIGHT
  ⟨0xC04104, [(8, 0x800), (8, 0x40)], false, 0x800, [⟨F.FHS_P_Q_BUF_LIMIT, .rw, some 8, .any, false⟩, ⟨F.FHS_P_Q_BUF_RESV, .rw, some 8, .any, false⟩]⟩, -- FHS_P_Q_BUF
  ⟨0xC04108, [(8, 0x800), (8, 0x40)], false, 0x0, [⟨F.FHS_P_Q_SHAPE_EN, .rw, some 8, .any, false⟩]⟩, -- FHS_P_Q_SHAPE
  ⟨0xC0410C, [(8, 0x800), (8, 0x40)], false, 0x0, [⟨F.FHS_P_Q_RATE_RATE, .rw, some 8, .any, false⟩]⟩, -- FHS_P_Q_RATE
  ⟨0xC04110, [(8, 0x800), (8, 0x40)], false, 0x0, [⟨F.FHS_P_Q_BURST_BURST, .rw, some 8, .any, false⟩]⟩, -- FHS_P_Q_BURST
  ⟨0xC04114, [(8, 0x800), (8, 0x40)], false, 0x0, [⟨F.FHS_P_Q_DEPTH_CELLS, .ro, none, .any, false⟩, ⟨F.FHS_P_Q_DEPTH_FRAMES, .ro, none, .any, false⟩]⟩, -- FHS_P_Q_DEPTH
  ⟨0xC04118, [(8, 0x800), (8, 0x40)], false, 0x0, [⟨F.FHS_P_Q_PEAK_CELLS, .rw, none, .any, false⟩]⟩, -- FHS_P_Q_PEAK
  ⟨0xC0411C, [(8, 0x800), (8, 0x40)], false, 0x0, [⟨F.FHS_P_Q_DROP_CNT, .ro, none, .any, false⟩]⟩, -- FHS_P_Q_DROP
  ⟨0xC04120, [(8, 0x800), (8, 0x40)], false, 0x0, [⟨F.FHS_P_Q_TOKENS_BYTES, .ro, none, .any, false⟩]⟩ -- FHS_P_Q_TOKENS
]

def regsFronthaul : List RegDef := regsFronthaul0 ++ regsFronthaul1

def regsSpoke : List RegDef := [
  ⟨0xD00000, [], true, 0x0, [⟨F.SPK_CTL_EN, .rw, none, .any, false⟩]⟩, -- SPK_CTL
  ⟨0xD00004, [], false, 0x0, [⟨F.SPK_STAT_DSTATE, .ro, none, .any, false⟩, ⟨F.SPK_STAT_NODE, .ro, none, .any, false⟩, ⟨F.SPK_STAT_WHEEL_SIZE, .ro, none, .any, false⟩, ⟨F.SPK_STAT_NWHEELS, .ro, none, .any, false⟩, ⟨F.SPK_STAT_GLOBAL, .ro, none, .any, false⟩]⟩, -- SPK_STAT
  ⟨0xD00008, [], false, 0x0, [⟨F.SPK_GEN_GEN, .ro, none, .any, false⟩]⟩, -- SPK_GEN
  ⟨0xD0000C, [], false, 0x0, [⟨F.SPK_DISC_ERR_MISCABLED, .w1c, none, .any, false⟩, ⟨F.SPK_DISC_ERR_PRUNED, .w1c, none, .any, false⟩, ⟨F.SPK_DISC_ERR_HUB_TIMEOUT, .w1c, none, .any, false⟩, ⟨F.SPK_DISC_ERR_HUB_CONFLICT, .w1c, none, .any, false⟩]⟩, -- SPK_DISC_ERR
  ⟨0xD00010, [], false, 0x0, [⟨F.SPK_UID_LO_UID, .ro, none, .any, false⟩]⟩, -- SPK_UID_LO
  ⟨0xD00014, [], false, 0x0, [⟨F.SPK_UID_HI_UID, .ro, none, .any, false⟩]⟩, -- SPK_UID_HI
  ⟨0xD00018, [], false, 0x0, [⟨F.SPK_LEADER_LO_UID, .ro, none, .any, false⟩]⟩, -- SPK_LEADER_LO
  ⟨0xD0001C, [], false, 0x0, [⟨F.SPK_LEADER_HI_UID, .ro, none, .any, false⟩]⟩, -- SPK_LEADER_HI
  ⟨0xD00020, [], false, 0x0, [⟨F.SPK_DISC_TIME_US, .ro, none, .any, false⟩]⟩, -- SPK_DISC_TIME
  ⟨0xD00024, [], true, 0x0, [⟨F.SPK_COLL_FN_FN, .rw, none, .any, false⟩]⟩, -- SPK_COLL_FN
  ⟨0xD00028, [], false, 0x3E8, [⟨F.SPK_COLL_TIMEOUT_MS, .rw, some 9, .range 1 10000, false⟩]⟩, -- SPK_COLL_TIMEOUT
  ⟨0xD0002C, [], false, 0x1000, [⟨F.SPK_TC2_QUANTUM_BYTES, .rw, some 9, .range 256 65536, false⟩]⟩, -- SPK_TC2_QUANTUM
  ⟨0xD00030, [], false, 0x1000, [⟨F.SPK_TC3_QUANTUM_BYTES, .rw, some 9, .range 256 65536, false⟩]⟩, -- SPK_TC3_QUANTUM
  ⟨0xD00034, [], false, 0x0, [⟨F.SPK_MISROUTE_CNT, .ro, none, .any, false⟩]⟩, -- SPK_MISROUTE
  ⟨0xD01000, [(17, 0x100)], false, 0x1, [⟨F.SPK_P_CTL_EN, .rw, some 9, .any, false⟩]⟩, -- SPK_P_CTL
  ⟨0xD01004, [(17, 0x100)], false, 0x0, [⟨F.SPK_P_STAT_LSTATE, .ro, none, .any, false⟩, ⟨F.SPK_P_STAT_SLOW, .ro, none, .any, false⟩, ⟨F.SPK_P_STAT_PARTNER, .ro, none, .any, false⟩, ⟨F.SPK_P_STAT_PARTNER_HUB, .ro, none, .any, false⟩]⟩, -- SPK_P_STAT
  ⟨0xD01008, [(17, 0x100)], false, 0x0, [⟨F.SPK_P_PUID_LO_UID, .ro, none, .any, false⟩]⟩, -- SPK_P_PUID_LO
  ⟨0xD0100C, [(17, 0x100)], false, 0x0, [⟨F.SPK_P_PUID_HI_UID, .ro, none, .any, false⟩]⟩, -- SPK_P_PUID_HI
  ⟨0xD01010, [(17, 0x100)], false, 0x0, [⟨F.SPK_P_RTT_NS, .ro, none, .any, false⟩]⟩, -- SPK_P_RTT
  ⟨0xD01014, [(17, 0x100)], false, 0x0, [⟨F.SPK_P_RETRY_CNT, .ro, none, .any, false⟩]⟩, -- SPK_P_RETRY
  ⟨0xD01018, [(17, 0x100)], false, 0x0, [⟨F.SPK_P_FEC_CORR_CNT, .ro, none, .any, false⟩]⟩, -- SPK_P_FEC_CORR
  ⟨0xD0101C, [(17, 0x100)], false, 0x0, [⟨F.SPK_P_FEC_UNCORR_CNT, .ro, none, .any, false⟩]⟩, -- SPK_P_FEC_UNCORR
  ⟨0xD01020, [(17, 0x100)], false, 0x0, [⟨F.SPK_P_TX_FLITS_CNT, .ro, none, .any, false⟩]⟩, -- SPK_P_TX_FLITS
  ⟨0xD01024, [(17, 0x100)], false, 0x0, [⟨F.SPK_P_RX_FLITS_CNT, .ro, none, .any, false⟩]⟩ -- SPK_P_RX_FLITS
]

def regsCrypt0 : List RegDef := [
  ⟨0xE00004, [], false, 0x0, [⟨F.CRY_ERR_LOG_OVF, .w1c, none, .any, false⟩, ⟨F.CRY_ERR_RPL_ERR, .w1c, none, .any, false⟩]⟩, -- CRY_ERR
  ⟨0xE00020, [], false, 0x0, [⟨F.CRY_INVAL_GO, .w1s, some 10, .any, false⟩, ⟨F.CRY_INVAL_ALL, .rw, some 10, .any, false⟩]⟩, -- CRY_INVAL
  ⟨0xE00024, [], false, 0x0, [⟨F.CRY_INVAL_ADDR_LO_ADDR, .rw, some 10, .any, false⟩]⟩, -- CRY_INVAL_ADDR_LO
  ⟨0xE00028, [], false, 0x0, [⟨F.CRY_INVAL_ADDR_HI_ADDR, .rw, some 10, .any, false⟩]⟩, -- CRY_INVAL_ADDR_HI
  ⟨0xE00030, [], false, 0x0, [⟨F.CRY_DIGQ_ADDR_LO_ADDR, .rw, none, .any, false⟩]⟩, -- CRY_DIGQ_ADDR_LO
  ⟨0xE00034, [], false, 0x0, [⟨F.CRY_DIGQ_ADDR_HI_ADDR, .rw, none, .any, false⟩]⟩, -- CRY_DIGQ_ADDR_HI
  ⟨0xE00038, [], false, 0x0, [⟨F.CRY_DIGQ_LEN_BYTES, .rw, none, .any, false⟩]⟩, -- CRY_DIGQ_LEN
  ⟨0xE00040, [(8, 0x4)], false, 0x0, [⟨F.CRY_DIGQ_W_W, .ro, none, .any, false⟩]⟩, -- CRY_DIGQ_W
  ⟨0xE00100, [(17, 0x4)], false, 0x0, [⟨F.CRY_FN_AUDIT_MODE, .rw, none, .codes 3, false⟩]⟩, -- CRY_FN_AUDIT
  ⟨0xE01000, [(16, 0x40)], false, 0x0, [⟨F.CRY_CELL_AUDIT_MODE, .rw, none, .codes 3, false⟩]⟩, -- CRY_CELL_AUDIT
  ⟨0xE01004, [(16, 0x40)], false, 0x0, [⟨F.CRY_CELL_WSET_LO_ADDR, .rw, none, .any, false⟩]⟩, -- CRY_CELL_WSET_LO
  ⟨0xE01008, [(16, 0x40)], false, 0x0, [⟨F.CRY_CELL_WSET_HI_ADDR, .rw, none, .any, false⟩]⟩, -- CRY_CELL_WSET_HI
  ⟨0xE0100C, [(16, 0x40)], false, 0x0, [⟨F.CRY_CELL_WSET_LEN_LEN, .rw, none, .any, false⟩]⟩, -- CRY_CELL_WSET_LEN
  ⟨0xE01010, [(16, 0x40)], false, 0x0, [⟨F.CRY_CELL_LOG_CTL_EN, .rw, none, .any, false⟩, ⟨F.CRY_CELL_LOG_CTL_SAMPLES, .rw, some 10, .any, false⟩]⟩, -- CRY_CELL_LOG_CTL
  ⟨0xE01014, [(16, 0x40)], true, 0x0, [⟨F.CRY_CELL_LOG_BASE_LO_ADDR, .rw, none, .any, false⟩]⟩, -- CRY_CELL_LOG_BASE_LO
  ⟨0xE01018, [(16, 0x40)], true, 0x0, [⟨F.CRY_CELL_LOG_BASE_HI_ADDR, .rw, none, .any, false⟩]⟩, -- CRY_CELL_LOG_BASE_HI
  ⟨0xE0101C, [(16, 0x40)], true, 0x0, [⟨F.CRY_CELL_LOG_SIZE_UNITS, .rw, none, .any, false⟩]⟩, -- CRY_CELL_LOG_SIZE
  ⟨0xE01020, [(16, 0x40)], false, 0x0, [⟨F.CRY_CELL_LOG_PIDX_BYTES, .ro, none, .any, false⟩]⟩, -- CRY_CELL_LOG_PIDX
  ⟨0xE01024, [(16, 0x40)], false, 0x0, [⟨F.CRY_CELL_LOG_CIDX_BYTES, .rw, none, .any, false⟩]⟩, -- CRY_CELL_LOG_CIDX
  ⟨0xE01028, [(16, 0x40)], false, 0x0, [⟨F.CRY_CELL_LOG_DROP_CNT, .ro, none, .any, false⟩]⟩, -- CRY_CELL_LOG_DROP
  ⟨0xE02000, [], false, 0x640000, [⟨F.CRY_TWIN_CTL_EN, .rw, none, .any, false⟩, ⟨F.CRY_TWIN_CTL_ROLE, .rw, none, .any, false⟩, ⟨F.CRY_TWIN_CTL_WAIT, .rw, some 10, .range 1 10000, false⟩]⟩, -- CRY_TWIN_CTL
  ⟨0xE02004, [], false, 0x0, [⟨F.CRY_TWIN_STAT_STATE, .ro, none, .any, false⟩, ⟨F.CRY_TWIN_STAT_REASON, .ro, none, .any, false⟩, ⟨F.CRY_TWIN_STAT_NODE, .ro, none, .any, false⟩, ⟨F.CRY_TWIN_STAT_STRAP, .ro, none, .any, false⟩]⟩, -- CRY_TWIN_STAT
  ⟨0xE02008, [], false, 0x0, [⟨F.CRY_TWIN_PUID_LO_UID, .ro, none, .any, false⟩]⟩, -- CRY_TWIN_PUID_LO
  ⟨0xE0200C, [], false, 0x0, [⟨F.CRY_TWIN_PUID_HI_UID, .ro, none, .any, false⟩]⟩, -- CRY_TWIN_PUID_HI
  ⟨0xE02010, [], false, 0x0, [⟨F.CRY_TWIN_CNT_CNT, .ro, none, .any, false⟩]⟩, -- CRY_TWIN_CNT
  ⟨0xE02014, [], false, 0x0, [⟨F.CRY_TWIN_EXCL_CNT, .ro, none, .any, false⟩]⟩, -- CRY_TWIN_EXCL
  ⟨0xE02018, [], false, 0x0, [⟨F.CRY_TWIN_DIV_KEY_LO_KEY, .ro, none, .any, false⟩]⟩, -- CRY_TWIN_DIV_KEY_LO
  ⟨0xE0201C, [], false, 0x0, [⟨F.CRY_TWIN_DIV_KEY_HI_KEY, .ro, none, .any, false⟩]⟩, -- CRY_TWIN_DIV_KEY_HI
  ⟨0xE02020, [], false, 0x0, [⟨F.CRY_TWIN_DIV_STAGE_ENTRY, .ro, none, .any, false⟩, ⟨F.CRY_TWIN_DIV_STAGE_KIND, .ro, none, .any, false⟩, ⟨F.CRY_TWIN_DIV_STAGE_INDEX, .ro, none, .any, false⟩, ⟨F.CRY_TWIN_DIV_STAGE_PARTNER, .ro, none, .any, false⟩]⟩, -- CRY_TWIN_DIV_STAGE
  ⟨0xE03000, [], false, 0x0, [⟨F.CRY_RPL_CTL_EN, .rw, some 10, .any, false⟩, ⟨F.CRY_RPL_CTL_CELL, .rw, some 10, .any, false⟩]⟩ -- CRY_RPL_CTL
]

def regsCrypt1 : List RegDef := [
  ⟨0xE03004, [], false, 0x0, [⟨F.CRY_RPL_LIST_LO_ADDR, .rw, some 10, .any, false⟩]⟩, -- CRY_RPL_LIST_LO
  ⟨0xE03008, [], false, 0x0, [⟨F.CRY_RPL_LIST_HI_ADDR, .rw, some 10, .any, false⟩]⟩, -- CRY_RPL_LIST_HI
  ⟨0xE0300C, [], false, 0x0, [⟨F.CRY_RPL_N_N, .rw, some 10, .any, false⟩]⟩ -- CRY_RPL_N
]

def regsCrypt : List RegDef := regsCrypt0 ++ regsCrypt1

def regsFreewheel : List RegDef := [
  ⟨0xF00000, [], true, 0x0, [⟨F.FWL_CTL_EN, .rw, none, .any, false⟩]⟩, -- FWL_CTL
  ⟨0xF00004, [], false, 0x0, [⟨F.FWL_STAT_USED, .ro, none, .any, false⟩, ⟨F.FWL_STAT_PEAK, .ro, none, .any, false⟩]⟩, -- FWL_STAT
  ⟨0xF00008, [], false, 0x0, [⟨F.FWL_ERR_SHADOW_FULL, .w1c, none, .any, false⟩, ⟨F.FWL_ERR_PRED_FAULT, .w1c, none, .any, false⟩, ⟨F.FWL_ERR_PLAN_ERR, .w1c, none, .any, false⟩]⟩, -- FWL_ERR
  ⟨0xF00010, [], true, 0x0, [⟨F.FWL_SHADOW_BASE_LO_ADDR, .rw, none, .any, false⟩]⟩, -- FWL_SHADOW_BASE_LO
  ⟨0xF00014, [], true, 0x0, [⟨F.FWL_SHADOW_BASE_HI_ADDR, .rw, none, .any, false⟩]⟩, -- FWL_SHADOW_BASE_HI
  ⟨0xF00018, [], true, 0x0, [⟨F.FWL_SHADOW_SIZE_BLOCKS, .rw, none, .any, false⟩]⟩, -- FWL_SHADOW_SIZE
  ⟨0xF01000, [(16, 0x40)], false, 0x400, [⟨F.FWL_CELL_CTL_EN, .rw, none, .any, false⟩, ⟨F.FWL_CELL_CTL_SPEC, .rw, none, .any, false⟩, ⟨F.FWL_CELL_CTL_SG, .rw, none, .any, false⟩, ⟨F.FWL_CELL_CTL_FORCE_REPLAY, .rw, some 3, .any, false⟩, ⟨F.FWL_CELL_CTL_MIN_HIST, .rw, some 3, .any, false⟩]⟩, -- FWL_CELL_CTL
  ⟨0xF01004, [(16, 0x40)], false, 0xFF70, [⟨F.FWL_CELL_THR_THR, .rw, none, .srange (-320) (0), false⟩]⟩, -- FWL_CELL_THR
  ⟨0xF01008, [(16, 0x40)], false, 0x0, [⟨F.FWL_CELL_NEXT_LO_ADDR, .rw, none, .any, false⟩]⟩, -- FWL_CELL_NEXT_LO
  ⟨0xF0100C, [(16, 0x40)], false, 0x0, [⟨F.FWL_CELL_NEXT_HI_ADDR, .rw, none, .any, false⟩]⟩, -- FWL_CELL_NEXT_HI
  ⟨0xF01010, [(16, 0x40)], false, 0x0, [⟨F.FWL_CELL_PLAN_LO_ADDR, .ro, none, .any, false⟩]⟩, -- FWL_CELL_PLAN_LO
  ⟨0xF01014, [(16, 0x40)], false, 0x0, [⟨F.FWL_CELL_PLAN_HI_ADDR, .ro, none, .any, false⟩]⟩, -- FWL_CELL_PLAN_HI
  ⟨0xF01018, [(16, 0x40)], false, 0x0, [⟨F.FWL_CELL_EPOCH_EPOCH, .ro, none, .any, false⟩]⟩, -- FWL_CELL_EPOCH
  ⟨0xF0101C, [(16, 0x40)], false, 0x0, [⟨F.FWL_CELL_CNT_COMMIT_CNT, .ro, none, .any, false⟩]⟩, -- FWL_CELL_CNT_COMMIT
  ⟨0xF01020, [(16, 0x40)], false, 0x0, [⟨F.FWL_CELL_CNT_REPLAY_CNT, .ro, none, .any, false⟩]⟩, -- FWL_CELL_CNT_REPLAY
  ⟨0xF01024, [(16, 0x40)], false, 0x0, [⟨F.FWL_CELL_CNT_NOSPEC_CNT, .ro, none, .any, false⟩]⟩, -- FWL_CELL_CNT_NOSPEC
  ⟨0xF01028, [(16, 0x40)], false, 0x0, [⟨F.FWL_CELL_CNT_LATE_CNT, .ro, none, .any, false⟩]⟩, -- FWL_CELL_CNT_LATE
  ⟨0xF0102C, [(16, 0x40)], false, 0x0, [⟨F.FWL_CELL_CNT_DROP_CNT, .ro, none, .any, false⟩]⟩ -- FWL_CELL_CNT_DROP
]

def regsVis0 : List RegDef := [
  ⟨0x0, [], false, 0x96320010, [⟨F.VIS_ID_ID, .ro, none, .any, false⟩]⟩, -- VIS_ID
  ⟨0x4, [], false, 0x11081020, [⟨F.VIS_CAPS_CAPS, .ro, none, .any, false⟩]⟩, -- VIS_CAPS
  ⟨0x8, [], false, 0xFFFFFFFF, [⟨F.VIS_TILEMAP_MAP, .ro, none, .any, false⟩]⟩, -- VIS_TILEMAP
  ⟨0x10, [], false, 0x0, [⟨F.VIS_STATUS_SEALED, .ro, none, .any, false⟩, ⟨F.VIS_STATUS_EXPERT_HST, .ro, none, .any, false⟩]⟩, -- VIS_STATUS
  ⟨0x14, [], false, 0x0, [⟨F.VIS_ERR_CFG_WR, .w1c, none, .any, false⟩, ⟨F.VIS_ERR_CFG, .w1c, none, .any, false⟩, ⟨F.VIS_ERR_PF_FIELD, .w1c, none, .any, false⟩]⟩, -- VIS_ERR
  ⟨0x20, [], false, 0x0, [⟨F.VIS_DB_LO_ADDR, .rw, none, .any, false⟩]⟩, -- VIS_DB_LO
  ⟨0x24, [], false, 0x0, [⟨F.VIS_DB_HI_ADDR, .rw, none, .any, false⟩]⟩, -- VIS_DB_HI
  ⟨0x28, [], false, 0x0, [⟨F.VIS_SH_LO_ADDR, .rw, none, .any, false⟩]⟩, -- VIS_SH_LO
  ⟨0x2C, [], false, 0x0, [⟨F.VIS_SH_HI_ADDR, .rw, none, .any, false⟩]⟩, -- VIS_SH_HI
  ⟨0x30, [], false, 0x32, [⟨F.VIS_POLL_INTERVAL, .rw, some 12, .range 25 10000, false⟩]⟩, -- VIS_POLL
  ⟨0x34, [], false, 0xA0032, [⟨F.VIS_POLL_BO_BACKOFF, .rw, some 12, .range 1 10000, false⟩, ⟨F.VIS_POLL_BO_IDLE, .rw, some 12, .range 0 1000, false⟩]⟩, -- VIS_POLL_BO
  ⟨0x100, [(8, 0x20)], false, 0x0, [⟨F.VIS_SQ_BASE_LO_ADDR, .rw, none, .any, false⟩]⟩, -- VIS_SQ_BASE_LO
  ⟨0x104, [(8, 0x20)], false, 0x0, [⟨F.VIS_SQ_BASE_HI_ADDR, .rw, none, .any, false⟩]⟩, -- VIS_SQ_BASE_HI
  ⟨0x108, [(8, 0x20)], false, 0x1F000000, [⟨F.VIS_SQ_CFG_EN, .rw, none, .any, false⟩, ⟨F.VIS_SQ_CFG_LOG2SIZE, .rw, none, .any, false⟩, ⟨F.VIS_SQ_CFG_CQ, .rw, none, .any, false⟩, ⟨F.VIS_SQ_CFG_FETCH, .rw, some 12, .any, false⟩]⟩, -- VIS_SQ_CFG
  ⟨0x200, [(8, 0x20)], false, 0x0, [⟨F.VIS_CQ_BASE_LO_ADDR, .rw, none, .any, false⟩]⟩, -- VIS_CQ_BASE_LO
  ⟨0x204, [(8, 0x20)], false, 0x0, [⟨F.VIS_CQ_BASE_HI_ADDR, .rw, none, .any, false⟩]⟩, -- VIS_CQ_BASE_HI
  ⟨0x208, [(8, 0x20)], false, 0x0, [⟨F.VIS_CQ_CFG_EN, .rw, none, .any, false⟩, ⟨F.VIS_CQ_CFG_LOG2SIZE, .rw, none, .any, false⟩, ⟨F.VIS_CQ_CFG_VEC, .rw, none, .any, false⟩, ⟨F.VIS_CQ_CFG_INT_EN, .rw, none, .any, false⟩]⟩, -- VIS_CQ_CFG
  ⟨0x20C, [(8, 0x20)], false, 0x1, [⟨F.VIS_CQ_COAL_COAL_CNT, .rw, some 12, .range 1 256, false⟩, ⟨F.VIS_CQ_COAL_COAL_TIME, .rw, some 12, .any, false⟩]⟩, -- VIS_CQ_COAL
  ⟨0x210, [(8, 0x20)], false, 0x0, [⟨F.VIS_CQ_DIVERT_CNT, .ro, none, .any, false⟩]⟩, -- VIS_CQ_DIVERT
  ⟨0x300, [], false, 0x0, [⟨F.VIS_EQ_BASE_LO_ADDR, .rw, none, .any, false⟩]⟩, -- VIS_EQ_BASE_LO
  ⟨0x304, [], false, 0x0, [⟨F.VIS_EQ_BASE_HI_ADDR, .rw, none, .any, false⟩]⟩, -- VIS_EQ_BASE_HI
  ⟨0x308, [], false, 0x0, [⟨F.VIS_EQ_CFG_EN, .rw, none, .any, false⟩, ⟨F.VIS_EQ_CFG_LOG2SIZE, .rw, none, .any, false⟩, ⟨F.VIS_EQ_CFG_VEC, .rw, none, .any, false⟩, ⟨F.VIS_EQ_CFG_INT_EN, .rw, none, .any, false⟩]⟩, -- VIS_EQ_CFG
  ⟨0x30C, [], false, 0x1, [⟨F.VIS_EQ_COAL_COAL_CNT, .rw, some 12, .range 1 256, false⟩, ⟨F.VIS_EQ_COAL_COAL_TIME, .rw, some 12, .any, false⟩]⟩, -- VIS_EQ_COAL
  ⟨0x310, [], false, 0x0, [⟨F.VIS_EQ_DROP_CNT, .ro, none, .any, false⟩]⟩, -- VIS_EQ_DROP
  ⟨0x314, [], false, 0x0, [⟨F.VIS_EQ_STAT_OVF, .w1c, none, .any, false⟩]⟩, -- VIS_EQ_STAT
  ⟨0x500, [], true, 0x0, [⟨F.VIS_TILEMASK_TILES, .rw, none, .any, true⟩]⟩, -- VIS_TILEMASK
  ⟨0x504, [], true, 0x0, [⟨F.VIS_COREMASK_CORES, .rw, none, .any, true⟩]⟩, -- VIS_COREMASK
  ⟨0x508, [], true, 0x0, [⟨F.VIS_QUOTA_CHANNELS, .rw, none, .any, true⟩, ⟨F.VIS_QUOTA_PAIRS, .rw, none, .any, true⟩]⟩, -- VIS_QUOTA
  ⟨0x610, [(8, 0x4)], false, 0x0, [⟨F.VIS_BEL_SNAP_SNAP, .ro, none, .any, false⟩]⟩, -- VIS_BEL_SNAP
  ⟨0x700, [], false, 0x0, [⟨F.VIS_SEQ_CMD_INDEX, .rw, none, .any, false⟩, ⟨F.VIS_SEQ_CMD_OP, .rw, none, .any, false⟩, ⟨F.VIS_SEQ_CMD_GO, .trig, none, .any, false⟩]⟩ -- VIS_SEQ_CMD
]

def regsVis1 : List RegDef := [
  ⟨0x704, [], false, 0x0, [⟨F.VIS_SEQ_CMD_STAT_BUSY, .ro, none, .any, false⟩, ⟨F.VIS_SEQ_CMD_STAT_RESULT, .ro, none, .any, false⟩]⟩ -- VIS_SEQ_CMD_STAT
]

def regsVis : List RegDef := regsVis0 ++ regsVis1

def regsVisPf : List RegDef := [
  ⟨0x380, [], false, 0x0, [⟨F.VIS_RR_BASE_LO_ADDR, .rw, none, .any, false⟩]⟩, -- VIS_RR_BASE_LO
  ⟨0x384, [], false, 0x0, [⟨F.VIS_RR_BASE_HI_ADDR, .rw, none, .any, false⟩]⟩, -- VIS_RR_BASE_HI
  ⟨0x388, [], false, 0x0, [⟨F.VIS_RR_CFG_EN, .rw, none, .any, false⟩, ⟨F.VIS_RR_CFG_LOG2SIZE, .rw, none, .any, false⟩, ⟨F.VIS_RR_CFG_VEC, .rw, none, .any, false⟩, ⟨F.VIS_RR_CFG_INT_EN, .rw, none, .any, false⟩]⟩, -- VIS_RR_CFG
  ⟨0x38C, [], false, 0x1, [⟨F.VIS_RR_COAL_COAL_CNT, .rw, some 12, .range 1 256, false⟩, ⟨F.VIS_RR_COAL_COAL_TIME, .rw, some 12, .any, false⟩]⟩, -- VIS_RR_COAL
  ⟨0x390, [], true, 0x0, [⟨F.VIS_RR_BKLOG_LO_ADDR, .rw, none, .any, false⟩]⟩, -- VIS_RR_BKLOG_LO
  ⟨0x394, [], true, 0x0, [⟨F.VIS_RR_BKLOG_HI_ADDR, .rw, none, .any, false⟩]⟩, -- VIS_RR_BKLOG_HI
  ⟨0x398, [], true, 0x0, [⟨F.VIS_RR_BKLOG_SIZE_ENTRIES, .rw, none, .range 0 65536, false⟩]⟩, -- VIS_RR_BKLOG_SIZE
  ⟨0x39C, [], false, 0x0, [⟨F.VIS_RR_LOST_CNT, .ro, none, .any, false⟩]⟩ -- VIS_RR_LOST
]

def regsVisVf : List RegDef := [
  ⟨0xE000, [(8, 0x10)], false, 0x0, [⟨F.VIS_MSIX_LO_ADDR, .rw, none, .any, false⟩]⟩, -- VIS_MSIX_LO
  ⟨0xE004, [(8, 0x10)], false, 0x0, [⟨F.VIS_MSIX_HI_ADDR, .rw, none, .any, false⟩]⟩, -- VIS_MSIX_HI
  ⟨0xE008, [(8, 0x10)], false, 0x0, [⟨F.VIS_MSIX_DATA_DATA, .rw, none, .any, false⟩]⟩, -- VIS_MSIX_DATA
  ⟨0xE00C, [(8, 0x10)], false, 0x1, [⟨F.VIS_MSIX_CTL_MASK, .rw, none, .any, false⟩]⟩, -- VIS_MSIX_CTL
  ⟨0xF000, [], false, 0x0, [⟨F.VIS_PBA_PENDING, .ro, none, .any, false⟩]⟩ -- VIS_PBA
]

/-- Does an offset from an array's base name one of its elements? -/
def dimsHit : Nat → List (Nat × Nat) → Bool
  | d, [] => d == 0
  | d, (c, st) :: rest => d / st < c && dimsHit (d % st) rest

def RegDef.hit (r : RegDef) (off : Nat) : Bool := r.base ≤ off && dimsHit (off - r.base) r.dims

/-- The rows of the block an offset lies in (Table HST-1); the second part is the offset the rows are written against. -/
def blockRows (off : Nat) : List RegDef × Nat :=
  match off / 0x100000 with
  | 0 => if off / 0x10000 = 1 then (regsVis ++ regsVisPf, off - 0x10000) else (regsGlobal, off)
  | 1 => (regsChapter, off)
  | 2 => (regsBelfry, off)
  | 3 => (regsStream, off)
  | 4 => (regsMemory, off)
  | 8 => (regsNave, off)
  | 9 => (regsNave, off)
  | 10 => (regsCloister, off)
  | 11 => (regsRadio, off)
  | 12 => (regsFronthaul, off)
  | 13 => (regsSpoke, off)
  | 14 => (regsCrypt, off)
  | 15 => (regsFreewheel, off)
  | 16 => (regsVis ++ regsVisVf, off % 0x10000)
  | _ => ([], off)

/-- The register at a byte offset of PF BAR0, if one is there (R312). -/
def regRow (off : Nat) : Option RegDef := (blockRows off).1.find? (·.hit (blockRows off).2)

/-- The value a register holds at reset. FHS_P_Q_BUF.RESV starts at 64 for queues 6 and 7 (Table FHL-5); every register
whose table gives no reset value starts at 0 (log entry 1). -/
def resetVal (off : Nat) : BitVec 32 :=
  match regRow off with
  | none => 0
  | some r =>
    if r.base = 0x0C04104 && 6 ≤ (off % 0x800 - 0x104) / 0x40 then 0x00400800
    else BitVec.ofNat 32 r.reset

end Sys2Proof.Machine
end

