-- ==== Sys2Proof/Machine/State.lean ====
section
/-! DEFINITION. The state of the TRK-9632 as plain data. Every register has its one home in `regs`; each block adds what its
chapter gives it beyond registers. A structure's default field values are its state right after PORST_N. -/

namespace Sys2Proof.Machine

/-- How a run stops with a fault. No command of this model faults: the manual gives every command an effect. -/
inductive Fault where
  deriving DecidableEq, Repr

/-- Why a command has no meaning. -/
inductive Refusal where
  /-- The command's meaning is not written yet. Safe: nothing is proved of it. -/
  | notModelled (mnemonic : String)
  deriving DecidableEq, Repr

/-- What the device has sent off the die or across an island, oldest first (R21-R23: a crossing keeps the order of entry). -/
inductive OutMsg where
  /-- Bytes written to a host bus address. -/
  | hostWrite (addr : Nat) (bytes : List Byte)
  /-- An MSI-X message of a function's vector: the address and data of its table entry (R339). -/
  | msix (func vec addr : Nat) (data : Word)
  /-- A Belfry strobe or event: kind 0 slot strobe, 1 symbol strobe, 2 comparator event; source index, detail (symbol or DEST bit), DNC. -/
  | strobe (kind idx detail : Nat) (dnc : Nat)
  /-- A frame on CNV_SPI (R99) or SYN_SPI (R108): its word. -/
  | spi (syn : Bool) (chan : Nat) (word : Nat)
  /-- A frame given to a fronthaul port's PCS (R375). -/
  | fhFrame (port : Nat) (bytes : List Byte)
  /-- Samples sent to the converters of a transmit path (R86). -/
  | txSamples (path : Nat) (x : List IQ)
  /-- A spoke frame on a port (R392). -/
  | spkFrame (port : Nat) (bytes : List Byte)
  /-- An MCTP response (R499-R504). -/
  | mctp (bytes : List Byte)
  /-- A PMBus VOUT_COMMAND (R543): the regulator's address and the voltage in mV. -/
  | pmbus (addr : Nat) (mv : Nat)
  deriving DecidableEq, Repr

/-! Belfry (02_belfry_time). -/

/-- A time of day (R36): the seconds modulo 2^48, the nanoseconds below 10^9, and the 40 internal fraction bits (R37). -/
structure Tod where
  sec  : Nat := 0
  ns   : Nat := 0
  frac : Nat := 0
  deriving DecidableEq, Repr

/-- A snapshot set (R40, R41, R43): TOD and DNC at the last read of BEL_TOD_NS, DNC at the last read of BEL_DNC_LO. -/
structure Snap where
  tod : Tod := {}
  dnc : Nat := 0
  dncOnly : Nat := 0
  deriving DecidableEq, Repr

/-- A slot generator's running grid (R51) and what is due at the present tick (R52, R55). -/
structure Gen where
  period : Nat := 0
  phase  : Nat := 0
  syms   : List Nat := []
  /-- The next symbol strobe of the present slot; `syms.length` when none is left. -/
  nextSym : Nat := 0
  slotDue : Bool := false
  /-- A set or offset came after the last strobe (R54). -/
  jumped  : Bool := false
  /-- EN = 0 was written; the DNC of the tick at which the generator stops (R55). -/
  stopAt  : Option Nat := none
  deriving DecidableEq, Repr

/-- A comparator beyond its registers (R56-R60). -/
structure Cmp where
  target : Nat := 0
  /-- The first DNC at which the target is compared (R57, R58). -/
  cmpFrom : Nat := 0
  /-- The slot strobe of the generator fell at this tick (SLOT mode). -/
  slotHit : Bool := false
  queue   : List Nat := []
  deriving DecidableEq, Repr

structure BelSt where
  tod : Tod := {}
  /-- The device nanosecond counter, 64 bits (R39). -/
  dnc : Nat := 0
  /-- Snapshot sets by agent: functions 0-16 and the Chapter House as 17. -/
  snaps : Tab Snap := []
  /-- A pending set: the staged value and, with AT_DNC, its 40-bit target (R45). -/
  setPend : Option (Tod × Option Nat) := none
  /-- A pending offset in ns (R47). -/
  ofsPend : Option Int := none
  gens : Tab Gen := []
  cmps : Tab Cmp := []
  /-- PPS_OUT: a crossing at this tick (R61), the level, the DNC at which the pulse ends. -/
  ppsDue  : Bool := false
  ppsHigh : Bool := false
  ppsEnd  : Nat := 0
  /-- RCLK_OUT: phase accumulator and level (R63). -/
  rclkAcc   : Nat := 0
  rclkLevel : Bool := false
  deriving DecidableEq, Repr

/-! Host interface (10_host_rings), faults and resets (14_overload_faults_resets). -/

/-- A ring (R318-R321). For an SQ `idx` is the consumer index; for a CQ, the EQ or the RR it is the producer index, `cons` the
doorbell INDEX last read, `resv` the slots reserved (R333), `counted` the entries counted since the last message (R339). -/
structure Ring where
  /-- 0 DISABLED, 1 RUNNING, 2 STOPPED (R321). -/
  state   : Nat := 0
  reason  : Nat := 0
  idx     : Nat := 0
  cons    : Nat := 0
  resv    : Nat := 0
  counted : Nat := 0
  deriving DecidableEq, Repr

/-- A function's doorbell polling (R322): the DNC at which the next poll falls due, the DNC of the last change seen, the INDEX
values read last. -/
structure Poll where
  due     : Nat := 0
  changed : Nat := 0
  seen    : List (Nat × Nat) := []
  deriving DecidableEq, Repr

/-- A ring item accepted and not yet completed (R456). -/
structure RItem where
  /-- Order of acceptance. -/
  id    : Nat
  func  : Nat
  sq    : Nat
  idx   : Nat
  cq    : Nat
  desc  : List Byte
  /-- Its opcode has been taken up. -/
  active  : Bool := false
  /-- R458. -/
  started : Bool := false
  /-- Statuses that apply so far, each with its DETAIL (R326). -/
  outcomes : List (Nat × Nat) := []
  bytes   : Nat := 0
  part    : Bool := false
  /-- Units a TASK asked for and has (R144, R205); `none` until placed. -/
  tilesWant : Nat := 0
  coresWant : Nat := 0
  tiles   : Option (List Nat) := none
  cores   : Option (List Nat) := none
  coresDone : List Nat := []
  chans   : List Nat := []
  chansDone : List Nat := []
  pairs   : Nat := 0
  lists   : List Nat := []
  /-- CQ slots it holds reserved (R333). -/
  resv    : Nat := 0
  /-- The second form of DETAIL (R329). -/
  detail  : Nat := 0
  /-- The audit mode in force when it was accepted, 0 without AUDIT (R438, Table CMB-1). -/
  audit   : Nat := 0
  /-- The bytes its stream items wrote to device or host memory, in order (R448). -/
  outs    : List Byte := []
  /-- The digest of the task image (Table DET-2). -/
  image   : List Byte := []
  /-- The input region as the digest saw it. -/
  inputs  : List Byte := []
  deriving DecidableEq, Repr

/-- A completion that has been formed and not yet written (R329, R331). -/
structure Cpl where
  id     : Nat := 0
  status : Nat
  flags  : Nat := 0
  tag    : Nat := 0
  itemId : Nat := 0
  origin : Nat := 0
  sq     : Nat := 0
  sqIdx  : Nat := 0
  func   : Nat := 0
  cq     : Nat := 0
  detail : Nat := 0
  bytes  : Nat := 0
  dnc    : Nat := 0
  /-- CQ slots it holds reserved (R333). -/
  resv   : Nat := 0
  noint  : Bool := false
  digest : List Byte := []
  /-- Waits for its digest (R439). -/
  wait   : Bool := false
  /-- Held for the twin's record (R448). -/
  held   : Bool := false
  /-- May be the last of its slot, whose PER_BATCH digest it then carries (R438). -/
  batch  : Bool := false
  /-- Its KV append has not been made (R291, R331). -/
  append : Bool := false
  reset  : Bool := false
  /-- What its digest covers (Table DET-2): audit mode (0 none), image digests, weight set (space, address, length), input digest,
  sequence index and length snapshot. -/
  digMode : Nat := 0
  digP    : List Byte := []
  digW    : Nat × Nat × Nat := (0, 0, 0)
  digI    : List Byte := []
  digSeq  : Nat := 0
  digS    : Nat := 0
  /-- KEY of its compare record (Table DET-6); 0 when it is not compared. -/
  key     : Nat := 0
  /-- Its result digest and stage entries (Table DET-6). -/
  result  : List Byte := []
  stages  : List StageEntry := []
  /-- Of a slot item: cell, epoch, item-table index, and the log record it has yet to write (R440). -/
  slot    : Option (Nat × Nat × Nat) := none
  log     : List Byte := []
  deriving DecidableEq, Repr

structure HostSt where
  /-- The PCI Express link is up. -/
  link  : Bool := false
  /-- Rings by 32 × function + page slot k (Table HST-2). -/
  rings : Tab Ring := []
  polls : Tab Poll := []
  items : List RItem := []
  nextId : Nat := 1
  formed : List Cpl := []
  /-- Completions waiting for the RR: in the hold area, then in the VIS_RR_BKLOG area (R335, R468). -/
  hold   : List Cpl := []
  backlog : List Cpl := []
  /-- Functions whose event ring dropped an event since its last entry (R336). -/
  dropped : List Nat := []
  /-- Functions under a fence, with the cause code of Table FLT-3 and the reports made (R469, R472). -/
  fences : List (Nat × Nat × Nat) := []
  deriving DecidableEq, Repr

/-! Memory, Transept cache and translation (08_memory_translation). -/

/-- A cached translation (R275). -/
structure TlbEnt where
  va   : Nat
  /-- log2 of the page size: 16 or 21. -/
  bits : Nat
  pa   : Nat
  r    : Bool
  w    : Bool
  host : Bool
  noalloc : Bool
  /-- The page-table entries the walk used: physical address and value (R276). -/
  used : List (Nat × Nat)
  deriving DecidableEq, Repr

/-- A line of the Transept cache: its way, the space that allocated it, and its state (R258-R261). -/
structure CacheLine where
  way   : Nat
  space : Nat
  dirty : Bool
  /-- When it was last used, for least-recently-used replacement. -/
  used  : Nat
  /-- It has had a hit since it was allocated. -/
  hit   : Bool
  deriving DecidableEq, Repr

/-- A request that waits for a line: its space, whether it writes, and whether it allocates (R262). -/
structure CacheReq where
  space : Nat
  write : Bool
  alloc : Bool
  deriving DecidableEq, Repr

structure MemSt where
  /-- HBM blocks marked poisoned, by PA / 32 (R254). -/
  poison : Tab Bool := []
  /-- Blocks whose corrected data waits for the next refresh of its bank (R253). -/
  corrected : List Nat := []
  /-- Cache lines by line number PA / 128. -/
  lines  : Tab CacheLine := []
  /-- Outstanding misses by line number, with the requests attached (R262), the oldest first. -/
  misses : List (Nat × List CacheReq) := []
  /-- Requests that found no tracking entry or attachment slot free, in arrival order (R262). -/
  waiting : List (Nat × CacheReq) := []
  /-- The count that orders uses of lines. -/
  clock  : Nat := 0
  /-- Translation caches by space, the most recently used entry first (R275). -/
  tlb    : Tab (List TlbEnt) := []
  /-- An invalidation in progress: space, ALL, first VA, pages (R276). -/
  inval  : Option (Nat × Bool × Nat × Nat) := none
  /-- The Site boundary has passed: the upper half answers no access (R511). -/
  upperDenied : Bool := false
  deriving DecidableEq, Repr

/-! Radio Front (03_radio_front). -/

/-- A receive stream in the present slot (R80, R84): samples stored, link samples still before the slot's first, the last link
samples, and link samples waiting for the decimator. -/
structure RxAnt where
  slot  : Nat := 0
  count : Nat := 0
  /-- The slot whose marker has come and whose first sample lies this many link samples ahead. -/
  next  : Option (Nat × Nat) := none
  tail  : List IQ := []
  part  : List IQ := []
  deriving DecidableEq, Repr

/-- A transmit chain (R86-R91): EN in force, the last link samples, learned-term corrections waiting. -/
structure TxChain where
  en   : Bool := false
  hist : List IQ := []
  corr : List IQ := []
  deriving DecidableEq, Repr

/-- An AGC channel (R94-R100): grid points since the marker, entries logged in the slot's record, overflow. -/
structure Agc where
  grid : Nat := 0
  nchg : Nat := 0
  ovf  : Bool := false
  deriving DecidableEq, Repr

/-- What a cell's radio state keeps (R106, R111): A in mHz, TERR, detections and synthesiser writes since enable. -/
structure RadioCell where
  avg  : Int := 0
  terr : Word := 0
  ndet : Nat := 0
  nwr  : Nat := 0
  /-- An occasion runs, and the DNC at which it started (R101, R104). -/
  occ  : Option Nat := none
  deriving DecidableEq, Repr

/-- A DPD capture queued by GO (R92): chain, symbol, samples, buffer. -/
structure Capture where
  chain : Nat
  sym   : Nat
  len   : Nat
  addr  : Nat
  deriving DecidableEq, Repr

structure RfiSt where
  /-- The mode in force (R74): 0 OFF, 1 INTEGRATED, 2 POOLED. -/
  mode  : Nat := 0
  rxOn  : Bool := false
  txOn  : Bool := false
  /-- RF_DEVCLK in kHz, an input of the board (R77; log entry 7). -/
  devclk : Nat := 122880
  /-- The extended multiblock counter has been aligned by SYSREF (R75). -/
  aligned : Bool := false
  /-- A marker has been recorded since the receive link started (R82). -/
  marked : Bool := false
  rx    : Tab RxAnt := []
  tx    : Tab TxChain := []
  caps  : List Capture := []
  capRun : Bool := false
  /-- ORX_SEL[1:0]. -/
  orxSel : Nat := 0
  agc   : Tab Agc := []
  /-- AGC_RXa_G pins, channels 0-3 (R98). -/
  pins  : Tab Nat := []
  /-- CNV_SPI frames waiting: channel and g, in due order (R99). -/
  cnv   : List (Nat × Nat) := []
  /-- Steps of the ORX gain that fell due during a capture (R93). -/
  orxSteps : List Int := []
  cells : Tab RadioCell := []
  hold  : Nat := 0
  /-- RFI_SYN_CTL as the last slot strobe took it (R107). -/
  synCtl : Word := 0x00040400
  /-- The detection ring waits for RFI_PDR_BASE (R113). -/
  pdrOff : Bool := false
  deriving DecidableEq, Repr

/-! Cloister (04_cloister_dsp), by core. -/

/-- An entry of the loop stack (Table CLO-1): iterations left, body start, body end, ROT. -/
structure LoopEnt where
  count : Nat
  start : Nat
  last  : Nat
  rot   : Bool
  deriving DecidableEq, Repr

/-- The part of a core that an interrupt shadows (R141). -/
structure CoreCtx where
  pc     : Nat := 0
  rrb    : Nat := 0
  scale  : Nat := 0
  bfp    : Bool := false
  head   : Nat := 0
  maxmag : Nat := 0
  loops  : List LoopEnt := []
  deriving DecidableEq, Repr

/-- A core (Table CLO-1) with its memories. Lanes are keyed by 32 × register + lane; EVP, STATE and the counters are registers. -/
structure Core where
  v      : Tab (BitVec 16) := []
  a      : Tab (BitVec 40) := []
  s      : Tab Word := []
  ctx    : CoreCtx := {}
  shadow : CoreCtx := {}
  handler : Bool := false
  /-- Iterations an RPT in progress still needs of the bundle at PC (R132). -/
  rpt    : Nat := 0
  /-- The mask a WAITEV at PC waits for (R142). -/
  wait   : Option Nat := none
  /-- Instruction memory by word: 4 × bundle + word. -/
  imem   : Tab Word := []
  dmem   : Mem := []
  /-- 64-bit words of data memory that hold an uncorrectable error, by address / 8 (R121). -/
  bad    : Tab Bool := []
  /-- The ring item whose task the core runs. -/
  item   : Option Nat := none
  /-- EN = 0 was written; the core stops at its next bundle boundary (R558). -/
  stopping : Bool := false
  /-- HALT was written; the core halts at its next bundle boundary (R558). -/
  halting : Bool := false
  /-- Its memories are being cleared after a VI reset (R473). -/
  zeroing  : Bool := false
  deriving DecidableEq, Repr

/-! Nave (06_nave_tiles), by tile. -/

/-- A matrix stream header as the HEADER read it, with its multipliers (Table NAV-4, R198). -/
structure NavHdr where
  mode   : Nat
  wFmt   : Nat
  aFmt   : Nat
  outFmt : Nat
  aZp    : Nat
  outZp  : Nat
  fillMin : Nat
  fillTimeout : Nat
  mvpThr : Nat
  k : Nat
  n : Nat
  /-- One FP32 multiplier, or one for each output channel. -/
  mults  : List Nat
  deriving DecidableEq, Repr

/-- A request of rows: its serial on the tile, the channel and descriptor that posted it, its fields (R228), and the rows not yet
finished. -/
structure NavReq where
  ser   : Nat
  chan  : Nat
  did   : Nat
  m     : Nat
  aOfs  : Nat
  wOfs  : Nat
  oOfs  : Nat
  last  : Bool
  close : Bool
  left  : Nat
  deriving DecidableEq, Repr

/-- A run of consecutive rows of one request, and the tile cycle at which they arrived. -/
structure NavSeg where
  ser   : Nat
  row   : Nat
  count : Nat
  cycle : Nat
  deriving DecidableEq, Repr

/-- Rows issued together, to the array or to the MVP. -/
structure NavGroup where
  segs : List NavSeg
  mvp  : Bool
  deriving DecidableEq, Repr

/-- A stream context (R191-R194). -/
structure NavCtx where
  hdr    : Option NavHdr := none
  reqs   : List NavReq := []
  held   : List NavSeg := []
  groups : List NavGroup := []
  /-- Held rows of requests up to this serial all issue (R192). -/
  flush  : Nat := 0
  /-- A ring task opened it. -/
  ring   : Bool := false
  deriving DecidableEq, Repr

/-- A tile (R176). `sram` is keyed by half × 2 MiB + offset, `acc` by 64 × row + column. -/
structure Tile where
  sram   : Mem := []
  acc    : Tab Word := []
  ctxs   : Tab NavCtx := []
  nextSer : Nat := 1
  /-- Tile cycles its passes have taken (R192's timer). -/
  cycles : Nat := 0
  /-- The array's work in progress: context, output slice, K block. -/
  work   : Option (Nat × Nat × Nat) := none
  /-- Entries in the feeder queues, by cell row. -/
  queues : Tab Nat := []
  /-- The ring item whose task holds the tile. -/
  item   : Option Nat := none
  /-- The slot item on the tile: cell, epoch, item-table index. -/
  slot   : Option (Nat × Nat × Nat) := none
  /-- The spilled copy (R208): role A and the accumulator buffer. -/
  copy   : Option (Mem × Tab Word) := none
  /-- The engine that spills or restores the tile. -/
  engine : Option Nat := none
  /-- PRE_REQ holds the tile LENT (R215). -/
  preHeld : Bool := false
  /-- Channels whose swap is due, in order (R237). -/
  swaps  : List Nat := []
  /-- Requests that reached the tile while swaps were pending (R236): context, request, how many swaps go before it. -/
  later  : List (Nat × NavReq × Nat) := []
  /-- Its memories are being cleared after a VI reset (R473). -/
  zeroing : Bool := false
  deriving DecidableEq, Repr

/-! Stream Engines (07_stream_engines). -/

/-- Where a channel stands in its descriptor list. -/
inductive ChPhase where
  | idle
  /-- The next descriptor has not been fetched. -/
  | fetch
  /-- The fetched descriptor waits on its pair. -/
  | wait
  /-- The fetched descriptor may execute. -/
  | run
  /-- A COPY has moved this many elements and bytes of the next. -/
  | move (elem off : Nat)
  /-- A collective step is in progress (Spoke fabric). -/
  | coll
  /-- The last descriptor has begun; earlier ones are outstanding. -/
  | drain
  deriving DecidableEq, Repr

/-- A descriptor begun and not yet signalled (R232): its number, its signal (pair, side), its swap tile, whether its work is done,
and the role A bytes of a tile it has yet to write. -/
structure ChDesc where
  did    : Nat
  signal : Option (Nat × Bool)
  swap   : Option Nat
  done   : Bool
  writes : Option (Nat × Nat × Nat)
  /-- The role A bytes it has yet to read. -/
  reads  : List (Nat × Nat × Nat)
  deriving DecidableEq, Repr

structure Chan where
  phase : ChPhase := .idle
  /-- The address of the current descriptor, its bytes, its number. -/
  cur   : Nat := 0
  desc  : List Byte := []
  did   : Nat := 0
  /-- The ring item it serves. -/
  item  : Option Nat := none
  /-- The placement its ranks name; none for a list started through GO (R223). -/
  place : Option (List Nat × List Nat) := none
  /-- A read has issued for the stream item (R458). -/
  begun : Bool := false
  outst : List ChDesc := []
  /-- A LAYER_END descriptor is outstanding (R233). -/
  barrier : Bool := false
  /-- Its next burst waits for an earlier descriptor, counted in HAZ (R231). -/
  hazard  : Bool := false
  /-- A collective step's progress: bytes done. -/
  collPos : Nat := 0
  deriving DecidableEq, Repr

/-- A semaphore pair beyond its registers: configured, and its waiters in arrival order (agent, as consumer). -/
structure Sem where
  conf    : Bool := false
  waiters : List (Nat × Bool) := []
  deriving DecidableEq, Repr

structure SeSt where
  chans : Tab Chan := []
  sems  : Tab Sem := []
  /-- Words of a core's semaphore line with a command not yet completed, in the order of the stores (R243). -/
  csl   : Tab (List Nat) := []
  /-- The channel of an engine whose turn is next (R216). -/
  turn  : Tab Nat := []
  deriving DecidableEq, Repr

/-! Units under management (R476, R508), by 32 × kind + index. -/

/-- Management states: 0 ENABLED, 1 DISABLED, 2 OFF. -/
structure UnitSt where
  /-- What SET_UNIT set. -/
  mgmt  : Nat := 0
  /-- The effective state last applied by reconciliation. -/
  eff   : Nat := 0
  /-- The data path of an engine, a stack or a port does not respond (R476). -/
  down  : Bool := false
  /-- A STATE_SKEW stands raised (R479). -/
  skew  : Bool := false
  draining : Bool := false
  deriving DecidableEq, Repr

/-! Crypt (13_determinism_audit). -/

/-- A cached digest (R436): kind 0 an image by function and index, kind 1 a weight set by space, address and length. -/
structure DigestEnt where
  kind   : Nat
  a      : Nat
  b      : Nat
  c      : Nat
  digest : List Byte
  deriving DecidableEq, Repr

structure CrySt where
  /-- The digest cache, the most recently used entry first. -/
  cache   : List DigestEnt := []
  /-- Compare records of the partner that have no record here yet (R448). -/
  partner : List CompareRec := []
  /-- The W-port the pair is bound to (R446). -/
  port    : Option Nat := none
  /-- A TWIN_HELLO of the partner that came before the own EN = 1 (R446). -/
  early   : Option TwinHello := none
  deriving DecidableEq, Repr

/-! Sequence unit (09_sequence_state). -/

/-- An entry of a step: sequence, LENGTH, OFFSET, length snapshot, status so far, and how it was admitted (R298-R303). -/
structure StepEnt where
  seq  : Nat
  len  : Nat
  ofs  : Nat
  snap : Nat
  status : Nat
  admitted : Bool
  joined : Bool
  deriving DecidableEq, Repr

/-- The running step of a context: its ring item, its step block, its entries in length-table order. -/
structure StepRun where
  item  : Nat
  block : List Byte
  ents  : List StepEnt
  deriving DecidableEq, Repr

structure SeqSt where
  /-- The running step of each batch context (R299). -/
  runs : Tab (Option StepRun) := []
  /-- The sequence a CLOSE in progress waits for, by command register: VIS pages 0-16, SEQ_CMD as 17 (R289, R290, R316). -/
  closes : Tab (Option Nat) := []
  /-- By sequence that is CLOSING: the next item number when it was closed; earlier items still use it (R289). -/
  closing : Tab (Option Nat) := []
  deriving DecidableEq, Repr

/-! Freewheel (05_freewheel_speculation), by cell. -/

/-- States of Table FWL-5 after ADMIT. -/
inductive FwState where
  | predict | speculating | nonspec | committed | replaying | done
  deriving DecidableEq, Repr

/-- A slot item: its plan entry, the settings it was admitted under (R173), its length snapshot and whether its sequence takes an
append (R292, R293), the shadow blocks it holds, its grids, and its fate. -/
structure FwItem where
  idx   : Nat
  ent   : List Byte
  state : FwState
  thr   : Nat := 0
  force : Bool := false
  spec  : Bool := false
  snap  : Nat := 0
  active : Bool := false
  blocks : Nat := 0
  /-- Blocks reserved at its strobe: while the pair runs they count as held until the strobe of slot n+2 (R526). -/
  resv  : Nat := 0
  pred  : Option (List GridEl) := none
  meas  : Option (List GridEl) := none
  /-- The deadline has passed (R170). -/
  late  : Bool := false
  /-- A fronthaul port of its pooled cell has lost link since its strobe (R373). -/
  lost  : Option Nat := none
  /-- Work of its slot has issued (R458). -/
  started : Bool := false
  committed : Bool := false
  replayed  : Bool := false
  /-- The tile of its present stage (R206). -/
  tile  : Option Nat := none
  stage : Option Nat := none
  /-- The elements of the log record it replays (R442). -/
  record : Option (List Byte) := none
  deriving DecidableEq, Repr

/-- A slot in flight: epoch, strobe DNC, TOD second and slot in it (Table DET-4), plan header and stage entries, items, triggered
stages. -/
structure FwSlot where
  epoch  : Nat
  dnc    : Nat
  sec    : Nat
  slot   : Nat
  header : List Byte
  stages : List (List Byte)
  items  : List FwItem
  trig   : List Nat := []
  /-- The deadline event has come. -/
  dl     : Bool := false
  nLate  : Nat := 0
  nDrop  : Nat := 0
  miss   : Bool := false
  /-- The cell's audit mode at the strobe (Table CMB-1). -/
  audit  : Nat := 0
  /-- The slot replays logged records. -/
  replay : Bool := false
  /-- Input digests of its audited items that completed DONE or DONE_LATE, by item-table index (R438). -/
  digs   : List (Nat × List Byte) := []
  /-- The strobe of slot n+2 has come (R28, R157). -/
  old    : Bool := false
  deriving DecidableEq, Repr

structure FwCell where
  /-- The armed address, and whether its validation has ended well (R151). -/
  arm   : Option (Nat × Bool) := none
  plan  : Option Nat := none
  /-- COUNT and DNC of the strobe taken last. -/
  seen  : Nat × Nat := (0, 0)
  /-- Slots in flight, the oldest first (R27). -/
  slots : List FwSlot := []
  deriving DecidableEq, Repr

/-! Spoke fabric (12_spoke_fabric). -/

/-- A flit: kind 1 head, 2 data, 3 control; its class; its bytes. -/
structure SpkFlit where
  kind  : Nat
  cls   : Nat
  bytes : List Byte
  deriving DecidableEq, Repr

/-- A message waiting on a port. Owner: 1 and a ring item, 2 and a channel, 0 and nobody. -/
structure SpkTx where
  cls   : Nat
  owner : Nat × Nat
  flits : List SpkFlit
  deriving DecidableEq, Repr

/-- A frame kept until it is acknowledged (R394): its number, its flits in slot order, whose they are. -/
structure SpkFrame where
  seq    : Nat
  flits  : List SpkFlit
  owners : List (Nat × Nat)
  deriving DecidableEq, Repr

/-- A port's link layer (R392-R397, R413) and what its HELLOs said. -/
structure SpkPort where
  txSeq  : Nat := 0
  /-- The last frame accepted. -/
  rxAcc  : Nat := 4095
  nak    : Bool := false
  /-- NAKs in a row. -/
  naks   : Nat := 0
  unacked : List SpkFrame := []
  resend  : List SpkFrame := []
  /-- Credits held: TC0, TC1, TC2 with TC3. -/
  credits : Nat × Nat × Nat := (8, 16, 240)
  /-- Credits to return, by class. -/
  owed    : Tab Nat := []
  queue   : List SpkTx := []
  /-- The flits left of the message begun in TC1, and of the one begun in TC2 or TC3. -/
  cur1    : Option SpkTx := none
  cur23   : Option SpkTx := none
  /-- Deficit round robin: the class visited (2 or 3), whether this visit has added its quantum, the deficits. -/
  turn    : Nat := 2
  visited : Bool := false
  deficit2 : Nat := 0
  deficit3 : Nat := 0
  /-- UID of the last HELLO, and how many in a row had it. -/
  uid     : DWord := 0
  hellos  : Nat := 0
  deriving DecidableEq, Repr

/-- A collective in progress (R415-R423): its plan, the data received so far by tag, sender and offset, the wheel's partial sum of its
shard, its own sub-shard's result, how far it has sent. -/
structure CollRun where
  item  : Nat
  func  : Nat
  plan  : List Byte
  buf   : Nat
  len   : Nat
  started : Bool := false
  got   : List (Nat × Nat × Nat × List Byte) := []
  part  : Option (List Byte) := none
  own   : Option (List Byte) := none
  /-- Sub-shards of its shard, and shards, that are in BUF. -/
  subs  : List Nat := []
  shards : List Nat := []
  /-- Its shard has gone to the wheel. -/
  spread : Bool := false
  deriving DecidableEq, Repr

/-- A COLL step that waits for its data (R422). -/
structure CollStep where
  chan : Nat
  got  : List (Nat × List Byte) := []
  deriving DecidableEq, Repr

structure SpkSt where
  ports : Tab SpkPort := []
  /-- ADJ records of other devices (R404). -/
  view  : List AdjRec := []
  /-- GEN of the own ADJ record: how often its neighbours have changed. -/
  gen   : Nat := 0
  /-- The members of the own wheel, by ascending UID (R406). -/
  wheel : List DWord := []
  /-- SEAT messages received: sender, leader, count, seat. -/
  seats : List (DWord × DWord × Nat × Nat) := []
  /-- WHEEL_NUM messages received, and the own number (R407). -/
  nums  : List (DWord × Nat) := []
  num   : Option Nat := none
  count : Nat := 1
  /-- DNC at which the last link reached UP. -/
  upAt  : Nat := 0
  runs  : List CollRun := []
  steps : List CollStep := []
  /-- Messages that came before their step, with their port (R422). -/
  early : List (Nat × SpkMsg) := []
  /-- The next cross-wheel message goes on U1 (R418). -/
  alt   : Bool := false
  /-- The SP island is off (R390, R511). -/
  off   : Bool := false
  deriving DecidableEq, Repr
/-! Fronthaul Switch (11_fronthaul_switch). -/

/-- A valid MAC table entry (R356). `flap`: a move has been refused since LAST_CHANGE (R360). -/
structure MacEnt where
  vid    : Nat
  mac    : Nat
  static : Bool
  port   : Nat
  func   : Nat
  hit    : Bool
  change : Nat
  flap   : Bool := false
  deriving DecidableEq, Repr

/-- A learn request in the arbiter's queue (R358). -/
structure LearnReq where
  port : Nat
  vid  : Nat
  mac  : Nat
  deriving DecidableEq, Repr

/-- A frame in an egress queue: its bytes without FCS, the FRAME_TX item it is, the TS_ID it asked a timestamp with, ONE_STEP. -/
structure FhFrame where
  bytes : List Byte
  item  : Option Nat := none
  ts    : Option Nat := none
  oneStep : Bool := false
  deriving DecidableEq, Repr

/-- An egress queue: its frames, the finish tag of its head while it is active (R381), its tokens in 1/256 bytes, and whether its
shaper is in force (R382, R383). -/
structure FhQueue where
  frames : List FhFrame := []
  tag    : Option Nat := none
  tokens : Int := 0
  shaped : Bool := false
  deriving DecidableEq, Repr

/-- A frame in transmission, and its egress time. -/
structure FhTx where
  frame : FhFrame
  time  : Tod
  deriving DecidableEq, Repr

structure FhPort where
  /-- Virtual time V (R381). -/
  v  : Nat := 0
  tx : Option FhTx := none
  /-- The ingress time of the last Pdelay_Req (R67). -/
  pdelay : Tod := {}
  deriving DecidableEq, Repr

structure FhsSt where
  /-- The MAC table by index: 4 × set + way. -/
  mac    : Tab (Option MacEnt) := []
  learn  : List LearnReq := []
  ports  : Tab FhPort := []
  /-- Queues by 8 × port + queue. -/
  queues : Tab FhQueue := []
  /-- Frames, with their metadata, at the Cloister port and at the Chapter House port. -/
  clo    : List (List Byte) := []
  chf    : List (List Byte) := []
  deriving DecidableEq, Repr
/-! Chapter House (15_management_firmware_power, 17_electrical_package). -/

/-- The CHF that runs: the bank it came from (2: loaded by the host), its version and interface level. -/
structure ChfRun where
  bank    : Nat
  version : Nat
  ilevel  : Nat
  deriving DecidableEq, Repr

/-- An island whose point moves (R512-R514, R543, R544): the points of its clock and its rail. -/
structure IslandSt where
  clk    : Nat
  volt   : Nat
  /-- The VOUT_COMMAND under way: its point, and how often it was not acknowledged. -/
  write  : Option (Nat × Nat) := none
  /-- The point a raise waits to enter. -/
  slew   : Option Nat := none
  /-- The last step failed three times. -/
  failed : Bool := false
  /-- The regulator reports a mode other than linear: an input of the board. -/
  nonlin : Bool := false
  /-- The clock point GLB_ISL_STAT shows (R35). -/
  shown  : Nat
  deriving DecidableEq, Repr

/-- The throttle (R515, R516): 0 inactive, 1 active, 2 releasing; the throttle points; which causes hold. -/
structure ThrSt where
  phase   : Nat := 0
  nv      : Nat := 0
  cl      : Nat := 0
  thermal : Bool := false
  power   : Bool := false
  /-- The DNC since which every release condition has held. -/
  cool    : Option Nat := none
  deriving DecidableEq, Repr

structure ChmSt where
  /-- The cold reset holds the device: PORST_N or a power-good input is low (R532). -/
  held   : Bool := false
  /-- PERST_N is low. -/
  perst  : Bool := false
  /-- THERMTRIP_N is asserted (R517). -/
  trip   : Bool := false
  /-- The boot flash by byte offset; an erased byte reads 0xFF (R482). -/
  flash  : Tab Byte := []
  /-- Digests fused for the key slots (R486). -/
  keys   : Tab (List Byte) := []
  /-- Images the host loads, at their offsets in a bank (R495). -/
  loaded : Tab Byte := []
  chf    : Option ChfRun := none
  /-- The mailbox command in progress, its image kind, and the RESULT it will end with (R496). -/
  cmd    : Option (Nat × Nat × Nat) := none
  /-- Its end restarts the Chapter House (R497). -/
  restart : Bool := false
  /-- Who opened the update session: 0 nobody, 1 the mailbox, 2 PLDM (R494). -/
  session : Nat := 0
  /-- Total bytes announced by UPD_IMAGE, by kind. -/
  totals : Tab Nat := []
  /-- PLDM update state (R504): 0 idle, 1 learn components, 2 ready, 3 download, 4 verify, 5 apply; and the image in hand. -/
  pldm   : Nat := 0
  comp   : Nat := 0
  /-- A profile change in progress: its profile (R511). -/
  change : Option Nat := none
  /-- A reconciliation has applied the units of the change. -/
  swept  : Bool := false
  /-- A request that has not begun, and one held behind a change: profile and generator (R510). -/
  request : Option (Nat × Nat) := none
  later  : Option (Nat × Nat) := none
  nv     : IslandSt := { clk := 3, volt := 3, shown := 3 }
  cl     : IslandSt := { clk := 2, volt := 2, shown := 2 }
  /-- The TX regulator holds 0.72 V (R512). -/
  txLow  : Bool := false
  /-- Expert requests as last taken at a boundary of R514. -/
  nvReq  : Nat := 0
  clReq  : Nat := 0
  thr    : ThrSt := {}
  /-- Energy below one millijoule, in microjoules (R506). -/
  energy : Nat := 0
  /-- Generators at whose strobe the override was in force, by bit (R492). -/
  ovr    : Nat := 0
  deriving DecidableEq, Repr

/-- The whole state of the block. -/
structure State where
  /-- Every register, by its byte offset in PF BAR0 (Table HST-1; VIS pages at their place there). -/
  regs : Tab Word := []
  bel  : BelSt := {}
  mem  : MemSt := {}
  rfi  : RfiSt := {}
  clo  : Tab Core := []
  nav : Tab Tile := []
  se : SeSt := {}
  units : Tab UnitSt := []
  cry : CrySt := {}
  seq : SeqSt := {}
  fwl : Tab FwCell := []
  spk : SpkSt := {}
  fhs : FhsSt := {}
  chm : ChmSt := {}
  host : HostSt := {}
  /-- Device memory, by physical address (37 bits). -/
  hbm  : Mem := []
  /-- What host memory shows the device, by host bus address. -/
  hostMem : Mem := []
  /-- What has left the device, oldest first. -/
  out  : List OutMsg := []
  /-- The model's own: how many free values have been drawn (log entry 3). -/
  free : Nat := 0
  /-- The commands that are waiting, first in, first out. -/
  pending : List Instr := []
  deriving DecidableEq, Repr

/-- The machine right after reset: PORST_N released, the start not yet decided, no command waiting. -/
def State.reset : State := {}

end Sys2Proof.Machine
end

