-- ==== Sys2Proof/Machine/Ops.lean ====
section
/-! DEFINITION. The operations every block shares: reading and writing a register (R8, R313, R341-R345, R556), writing host
memory (R466), rings, interrupts and events (R318-R323, R336, R339, R480). -/

namespace Sys2Proof.Machine

/-! ### Fields and registers -/

def Fld.mask (f : Fld) : Nat := 2 ^ (f.hi + 1 - f.lo) - 1

/-- The largest value of a field. -/
def Fld.max (f : Fld) : Nat := f.mask

def Fld.get (f : Fld) (w : Word) : Nat := bitsOf w.toNat f.hi f.lo

def Fld.put (f : Fld) (w : Word) (n : Nat) : Word :=
  (w &&& ~~~(BitVec.ofNat 32 (f.mask * 2 ^ f.lo))) ||| BitVec.ofNat 32 ((n % 2 ^ (f.hi + 1 - f.lo)) * 2 ^ f.lo)

def State.reg (s : State) (off : Nat) : Word := Tab.get resetVal s.regs off

def State.setReg (s : State) (off : Nat) (w : Word) : State := { s with regs := Tab.set resetVal s.regs off w }

/-- The value of a register's field. -/
def State.fld (s : State) (off : Nat) (f : Fld) : Nat := f.get (s.reg off)

def State.setFld (s : State) (off : Nat) (f : Fld) (n : Nat) : State := s.setReg off (f.put (s.reg off) n)

/-- A one-bit field. -/
def State.flag (s : State) (off : Nat) (f : Fld) : Bool := s.fld off f == 1

def State.setFlag (s : State) (off : Nat) (f : Fld) (b : Bool) : State := s.setFld off f b.toNat

/-- Add to a counter that stays at its largest value (saturating). -/
def State.addSat (s : State) (off : Nat) (f : Fld) (n : Nat) : State := s.setFld off f (Nat.min f.max (s.fld off f + n))

/-- Add to a counter that wraps. -/
def State.addWrap (s : State) (off : Nat) (f : Fld) (n : Nat) : State := s.setFld off f (s.fld off f + n)

/-- A 64-bit value held in a LO and a HI register. -/
def State.pair (s : State) (lo hi : Nat) : Nat := (s.reg lo).toNat + 2 ^ 32 * (s.reg hi).toNat

def State.setPair (s : State) (lo hi v : Nat) : State := (s.setReg lo (BitVec.ofNat 32 v)).setReg hi (BitVec.ofNat 32 (v / 2 ^ 32))

/-! ### Free values -/

/-- The next free value of the counter, and the state that has drawn it. -/
def State.draw (s : State) : Nat × State := (s.free, { s with free := s.free + 1 })

/-! ### Output and host memory -/

def State.emit (s : State) (m : OutMsg) : State := { s with out := s.out ++ [m] }

/-- A write the device issues to host memory. While the link is down it is discarded (R466). -/
def hostWrite (addr : Nat) (bs : List Byte) (s : State) : State :=
  if s.host.link then { s with hostMem := s.hostMem.write (addr % 2 ^ 64) bs, out := s.out ++ [.hostWrite (addr % 2 ^ 64) bs] } else s

def hostWord (s : State) (addr : Nat) : Nat := leNat (s.hostMem.read (addr % 2 ^ 64) 4)

/-! ### Agents -/

/-- The function an agent writes for: 0-15 a VI, 16 the PF, 17 the Chapter House. -/
def agentNo : Agent → Nat
  | .pf => 16
  | .vf v => v.val
  | .chf => 17

def isVf : Agent → Bool
  | .vf _ => true
  | _ => false

/-- The offset in PF BAR0 that an agent's offset names (R313): a VF reaches its own VIS page only. -/
def agentOff (a : Agent) (off : Nat) : Nat :=
  match a with
  | .vf v => visPage v.val + off % 0x10000
  | _ => off

/-- The offset within the BAR that was written (GLB_DISC.OFFSET). -/
def barOff (a : Agent) (off : Nat) : Nat := if isVf a then off % 0x10000 else off

/-- FUNC as a completion, an event and a trigger hold it: [3:0] VI, [4] PF. -/
def funcByte (f : Nat) : Nat := if f = 16 then 0x10 else f % 16

/-- The function a FUNC field names. -/
def funcOf (b : Nat) : Nat := if bitOf b 4 then 16 else b % 16

def expertOn (s : State) (k : Nat) : Bool := bitOf (s.reg R.GLB_EXPERT).toNat k

def isSealed (s : State) : Bool := s.flag R.GLB_STATUS F.GLB_STATUS_SEALED

/-- Table MGT: START 3 is BOOTING, 2 RECOVERY, 1 UNTESTED, 0 NORMAL (R529, Table CMB). -/
def startOf (s : State) : Nat := s.fld R.GLB_STATUS F.GLB_STATUS_START

/-- Slot work of generator g is blocked: an UNTESTED start, and no override at its last strobe (R491, R492). -/
def startBlocked (s : State) (g : Nat) : Bool := startOf s == 1 && !bitOf s.chm.ovr g

/-- Before the start is decided and in RECOVERY only the Global and Chapter House blocks answer (R481, R493); a host access also
needs the link, and a VF reaches its own VIS page only (R313). Under a cold reset nothing answers (R532), and a tripped device
clocks the AO island alone (R517). -/
def answers (a : Agent) (off : Nat) (s : State) : Bool :=
  !s.chm.held && (!s.chm.trip || off < 0x0200000) &&
  match a with
  | .chf => startOf s < 2 || off < 0x0200000
  | .pf => s.host.link && (startOf s < 2 || off < 0x0200000)
  | .vf v => s.host.link && startOf s < 2 && visPage v.val ≤ off && off < visPage v.val + 0x10000

/-! ### Rings -/

def ringKey (f k : Nat) : Nat := 32 * f + k

def State.ring (s : State) (f k : Nat) : Ring := Tab.get (fun _ => {}) s.host.rings (ringKey f k)

def State.setRing (s : State) (f k : Nat) (r : Ring) : State :=
  { s with host := { s.host with rings := Tab.set (fun _ => {}) s.host.rings (ringKey f k) r } }

/-- The configuration register of ring slot k of a function (Table HST-2, Table HST-8). -/
def ringCfg (f k : Nat) : Nat :=
  if k < 8 then R.VIS_SQ_CFG (visPage f) k
  else if k < 16 then R.VIS_CQ_CFG (visPage f) (k - 8)
  else if k = 16 then R.VIS_EQ_CFG (visPage f) else R.VIS_RR_CFG (visPage f)

def ringCoal (f k : Nat) : Nat :=
  if k < 16 then R.VIS_CQ_COAL (visPage f) (k - 8)
  else if k = 16 then R.VIS_EQ_COAL (visPage f) else R.VIS_RR_COAL (visPage f)

def ringBase (s : State) (f k : Nat) : Nat :=
  if k < 8 then s.pair (R.VIS_SQ_BASE_LO (visPage f) k) (R.VIS_SQ_BASE_HI (visPage f) k)
  else if k < 16 then s.pair (R.VIS_CQ_BASE_LO (visPage f) (k - 8)) (R.VIS_CQ_BASE_HI (visPage f) (k - 8))
  else if k = 16 then s.pair (R.VIS_EQ_BASE_LO (visPage f)) (R.VIS_EQ_BASE_HI (visPage f))
  else s.pair (R.VIS_RR_BASE_LO (visPage f)) (R.VIS_RR_BASE_HI (visPage f))

/-- 2^LOG2SIZE slots (R318). -/
def ringSize (s : State) (f k : Nat) : Nat := 2 ^ s.fld (ringCfg f k) F.VIS_CQ_CFG_LOG2SIZE

/-- Index difference modulo 2^32 (R319). -/
def idxSub (a b : Nat) : Nat := (a + 2 ^ 32 - b % 2 ^ 32) % 2 ^ 32

/-- PHASE of the entry at a producer index (R329). -/
def phaseOf (idx size : Nat) : Nat := 1 - idx / size % 2

/-- The doorbell INDEX of ring slot k, in the function's doorbell page (R321). -/
def doorbell (s : State) (f k : Nat) : Nat :=
  hostWord s (s.pair (R.VIS_DB_LO (visPage f)) (R.VIS_DB_HI (visPage f)) + 64 * k)

/-- Bytes 0-7 of a shadow slot in one write (R321). -/
def shadowWrite (f k : Nat) (s : State) : State :=
  let r := s.ring f k
  hostWrite (s.pair (R.VIS_SH_LO (visPage f)) (R.VIS_SH_HI (visPage f)) + 64 * k)
    (leBytes 4 r.idx ++ leBytes 1 r.state ++ leBytes 1 r.reason ++ [0, 0]) s

/-- Free space of a CQ, the EQ or the RR: its size minus the entries not yet consumed minus the reserved slots (R333). -/
def freeSlots (s : State) (f k : Nat) : Nat :=
  let r := s.ring f k
  if r.state = 1 then ringSize s f k - idxSub r.idx r.cons - r.resv else 0

/-- Read the consumer's doorbell slot afresh (R323). -/
def freshRead (f k : Nat) (s : State) : State := s.setRing f k { s.ring f k with cons := doorbell s f k }

/-! ### Interrupts (R339) -/

/-- A vector's control word; bit 0 masks the vector (log 43). -/
def msixCtl (f vec : Nat) : Nat := if f = 16 then R.PF_MSIX_CTL vec else R.VIS_MSIX_CTL (visPage f) vec

/-- A vector's message: the address and the data of its table entry. -/
def msixMsg (s : State) (f vec : Nat) : OutMsg :=
  if f = 16 then .msix f vec (s.pair (R.PF_MSIX_LO vec) (R.PF_MSIX_HI vec)) (s.reg (R.PF_MSIX_DATA vec))
  else .msix f vec (s.pair (R.VIS_MSIX_LO (visPage f) vec) (R.VIS_MSIX_HI (visPage f) vec)) (s.reg (R.VIS_MSIX_DATA (visPage f) vec))

def msixPba (f vec : Nat) : Nat := if f = 16 then R.PF_PBA (vec / 32) else R.VIS_PBA (visPage f)

def vectors (f : Nat) : Nat := if f = 16 then 64 else 8

def setBit (w : Word) (i : Nat) : Word := w ||| BitVec.ofNat 32 (2 ^ i)

def clearBit (w : Word) (i : Nat) : Word := w &&& ~~~(BitVec.ofNat 32 (2 ^ i))

/-- Raise a vector: a masked one sets its PBA bit, another sends its message. -/
def raiseVec (f vec : Nat) (s : State) : State :=
  if bitOf (s.reg (msixCtl f vec)).toNat 0 then s.setReg (msixPba f vec) (setBit (s.reg (msixPba f vec)) (vec % 32))
  else if s.host.link then s.emit (msixMsg s f vec) else s

/-- Count one entry towards the ring's interrupt, and raise its vector at COAL_CNT. -/
def countEntry (f k : Nat) (s : State) : State :=
  let r := s.ring f k
  let cfg := ringCfg f k
  if s.flag cfg F.VIS_CQ_CFG_INT_EN then
    if s.fld (ringCoal f k) F.VIS_CQ_COAL_COAL_CNT ≤ r.counted + 1 then
      raiseVec f (s.fld cfg F.VIS_CQ_CFG_VEC) (s.setRing f k { r with counted := 0 })
    else s.setRing f k { r with counted := r.counted + 1 }
  else s

/-! ### Events (R336, R480) -/

/-- Table HST-6. -/
def eventBytes (code flags f info dnc : Nat) : List Byte :=
  leBytes 2 code ++ leBytes 1 flags ++ leBytes 1 (funcByte f) ++ leBytes 4 info ++ leBytes 8 dnc

/-- Drop an event at a function's ring. -/
def dropEvent (g : Nat) (s : State) : State :=
  let s1 := (s.addSat (R.VIS_EQ_DROP (visPage g)) F.VIS_EQ_DROP_CNT 1).setFlag (R.VIS_EQ_STAT (visPage g)) F.VIS_EQ_STAT_OVF true
  { s1 with host := { s1.host with dropped := if g ∈ s1.host.dropped then s1.host.dropped else g :: s1.host.dropped } }

/-- Write an event into function g's event ring, or drop it there. -/
def postEq (g code f info : Nat) (s : State) : State :=
  if (s.ring g 16).state = 1 then
    let s1 := if freeSlots s g 16 = 0 then freshRead g 16 s else s
    if freeSlots s1 g 16 = 0 then dropEvent g s1
    else
      let r := s1.ring g 16
      let size := ringSize s1 g 16
      let after := if g ∈ s1.host.dropped then 1 else 0
      let s2 := hostWrite (ringBase s1 g 16 + 16 * (r.idx % size))
        (eventBytes code (after + 0x80 * phaseOf r.idx size) f info s1.bel.dnc) s1
      let s3 := { s2 with host := { s2.host with dropped := s2.host.dropped.filter (· != g) } }
      countEntry g 16 (shadowWrite g 16 (s3.setRing g 16 { r with idx := (r.idx + 1) % 2 ^ 32 }))
  else dropEvent g s

/-- Raise an event about function f: to the PF event ring, and for a code marked VI to the VI's own (R480). -/
def event (code f info : Nat) (s : State) : State := postEq 16 code f info s

def eventVi (code f info : Nat) (s : State) : State :=
  if f < 16 then postEq f code f info (postEq 16 code f info s) else postEq 16 code f info s

/-! ### Register writes -/

/-- R556: what a field stores for a written value. -/
def Limit.apply (l : Limit) (f : Fld) (old v : Nat) : Nat :=
  match l with
  | .any => v
  | .range lo hi => Nat.max lo (Nat.min v hi)
  | .srange lo hi => unsigned (f.hi + 1 - f.lo) (clampInt lo hi (signed (f.hi + 1 - f.lo) v))
  | .codes n => if v < n then v else old

/-- What a write has done to a register so far: the new word, and whether it met a closed expert field or a PF field. -/
structure WriteAcc where
  word     : Word
  expertHit : Bool := false
  pfHit     : Bool := false
  deriving DecidableEq, Repr

/-- One field's part of a write (R8, R313, R345). -/
def fieldWrite (s : State) (vf : Bool) (v : Word) (acc : WriteAcc) (d : FieldDef) : WriteAcc :=
  let old := d.fld.get acc.word
  let new := match d.kind with
    | .ro => old
    | .rw => d.lim.apply d.fld old (d.fld.get v)
    | .w1c => old - Nat.land old (d.fld.get v)
    | .w1s => Nat.lor old (d.fld.get v)
    | .trig => old
  let acts := match d.kind with
    | .trig => d.fld.get v != 0
    | _ => new != old
  let closed := match d.expert with
    | some k => !expertOn s k
    | none => false
  if closed && acts then { acc with expertHit := true }
  else if vf && d.pf && acts then { acc with pfHit := true }
  else { acc with word := d.fld.put acc.word new }

/-- The word a write would leave, and what it met. -/
def tryWrite (s : State) (vf : Bool) (r : RegDef) (off : Nat) (v : Word) : WriteAcc :=
  r.fields.foldl (fieldWrite s vf v) { word := s.reg off }

/-- Record a discarded write in GLB_DISC and raise DISC_WRITE, if none stands recorded (R342, R345). Only writes made through a
BAR are recorded (R44). The event's FUNC is the function whose write was discarded (DEDUCED from Table HST-6, log 11). -/
def recordDisc (a : Agent) (off kind : Nat) (s : State) : State :=
  if a = .chf || s.flag R.GLB_DISC F.GLB_DISC_VALID then s
  else
    let func := if isVf a then agentNo a + 1 else 0
    let w := barOff a off % 2 ^ 25 + 2 ^ 25 * func + 2 ^ 30 * kind + 2 ^ 31
    event 0x0002 (agentNo a) w (s.setReg R.GLB_DISC (BitVec.ofNat 32 w))

/-- R313. -/
def reportPf (a : Agent) (s : State) : State := s.setFlag (R.VIS_ERR (visPage (agentNo a))) F.VIS_ERR_PF_FIELD true

/-- Is a write to this register discarded by the seal (R341)? -/
def sealedOff (s : State) (off : Nat) : Bool :=
  match regRow off with
  | some r => r.rwl && isSealed s
  | none => false

/-- Does a write reach this register and take effect there, as far as the block, the register and the seal go? -/
def reaches (a : Agent) (off : Nat) (s : State) : Bool := answers a off s && (regRow off).isSome && !sealedOff s off

/-- Write a register: its type, range, seal, expert and PF-field rules. -/
def storeReg (a : Agent) (off : Nat) (v : Word) (s : State) : State :=
  if answers a off s then
    match regRow off with
    | none => s
    | some r =>
      let t := tryWrite s (isVf a) r off v
      if r.rwl && isSealed s then
        let s1 := s.setFlag R.GLB_ERR F.GLB_ERR_SEAL_WR true
        let s2 := if t.expertHit then s1.setFlag R.GLB_ERR F.GLB_ERR_EXPERT_WR true else s1
        let s3 := if t.pfHit then reportPf a s2 else s2
        recordDisc a off 0 s3
      else
        let s1 := s.setReg off t.word
        let s2 := if t.expertHit then recordDisc a off 1 (s1.setFlag R.GLB_ERR F.GLB_ERR_EXPERT_WR true) else s1
        if t.pfHit then reportPf a s2 else s2
  else s

/-- A rule that gates a write by its value reports it as a closed expert field (R73, R345). -/
def reportExpert (a : Agent) (off : Nat) (s : State) : State :=
  recordDisc a off 1 (s.setFlag R.GLB_ERR F.GLB_ERR_EXPERT_WR true)

def snapOf (s : State) (a : Nat) : Snap := Tab.get (fun _ => {}) s.bel.snaps a

end Sys2Proof.Machine
end

