-- ==== Sys2Proof/Machine/Belfry.lean ====
section
/-! DEFINITION. The Belfry (02_belfry_time): snapshots, setting time, slot generators, comparators, PPS. The tick itself and the
slot strobe, which reach into other blocks, are in Tick. -/

namespace Sys2Proof.Machine

def State.gen (s : State) (g : Nat) : Gen := Tab.get (fun _ => {}) s.bel.gens g

def State.setGen (s : State) (g : Nat) (x : Gen) : State := { s with bel := { s.bel with gens := Tab.set (fun _ => {}) s.bel.gens g x } }

def State.cmp (s : State) (c : Nat) : Cmp := Tab.get (fun _ => {}) s.bel.cmps c

def State.setCmp (s : State) (c : Nat) (x : Cmp) : State := { s with bel := { s.bel with cmps := Tab.set (fun _ => {}) s.bel.cmps c x } }

def billion : Nat := 1000000000

/-- A time of day moved by a number of nanoseconds, in one normalised result (R47). -/
def Tod.add (t : Tod) (d : Int) : Tod :=
  let n : Int := (t.sec : Int) * 1000000000 + t.ns + d
  { t with sec := (n / 1000000000 % 2 ^ 48).toNat, ns := (n % 1000000000).toNat }

/-! ### Reading time -/

/-- Where an agent reads a Belfry register: a VF in its own VIS page (R315). -/
def belOff (a : Agent) (off : Nat) : Nat := if isVf a then visPage (agentNo a) + 0x600 + off % 0x100 else off

def setSnap (a : Agent) (x : Snap) (s : State) : State :=
  { s with bel := { s.bel with snaps := Tab.set (fun _ => {}) s.bel.snaps (agentNo a) x } }

/-- A read of BEL_TOD_NS (R40): the snapshot goes into the reader's set. -/
def todSnapshot (a : Agent) (s : State) : State :=
  if answers a (belOff a R.BEL_TOD_NS) s then setSnap a { snapOf s (agentNo a) with tod := s.bel.tod, dnc := s.bel.dnc } s else s

def execTodSnapshot (a : Agent) (s : State) : Host.Outcome State Fault Refusal := .next (todSnapshot a s)

/-- A read of BEL_DNC_LO (R43). -/
def dncSnapshot (a : Agent) (s : State) : State :=
  if answers a (belOff a R.BEL_DNC_LO) s then setSnap a { snapOf s (agentNo a) with dncOnly := s.bel.dnc } s else s

def execDncSnapshot (a : Agent) (s : State) : Host.Outcome State Fault Refusal := .next (dncSnapshot a s)

/-! ### Setting time -/

/-- R44: is the agent the time owner? -/
def ownsTime (a : Agent) (s : State) : Bool :=
  match a with
  | .pf => !s.flag R.BEL_CTL F.BEL_CTL_OWNER
  | .chf => s.flag R.BEL_CTL F.BEL_CTL_OWNER
  | .vf _ => false

/-- A write under R44: the non-owner's is discarded with NONOWNER. -/
def ownerWrite (a : Agent) (off : Nat) (s : State) (k : State → State) : State :=
  if !answers a off s then s
  else if ownsTime a s then k s
  else s.setFlag R.BEL_STATUS F.BEL_STATUS_NONOWNER true

/-- The signed value of BEL_FREQ_ADJ. -/
def freqAdj (s : State) : Int := signed 32 (s.reg R.BEL_FREQ_ADJ).toNat

/-- R38: a value beyond ±500 ppm is clamped, with ADJ_CLAMPED. -/
def writeFreqAdj (a : Agent) (v : Word) (s : State) : State :=
  ownerWrite a R.BEL_FREQ_ADJ s fun s =>
    let x := signed 32 v.toNat
    let y := clampInt (-549755813) 549755813 x
    let s1 := s.setReg R.BEL_FREQ_ADJ (BitVec.ofInt 32 y)
    if x = y then s1 else s1.setFlag R.BEL_STATUS F.BEL_STATUS_ADJ_CLAMPED true

def execFreqAdjWrite (a : Agent) (v : Word) (s : State) : Host.Outcome State Fault Refusal := .next (writeFreqAdj a v s)

/-- The staged value of BEL_SET_* (R45), its 24 low fraction bits clear. -/
def stagedTod (s : State) : Tod :=
  { sec := (s.reg R.BEL_SET_SEC_LO).toNat + 2 ^ 32 * s.fld R.BEL_SET_SEC_HI F.BEL_SET_SEC_HI_SEC,
    ns := (s.reg R.BEL_SET_NS).toNat, frac := 2 ^ 24 * s.fld R.BEL_SET_FRAC F.BEL_SET_FRAC_FRAC }

/-- GO (R45, R46, R49): a pending set stands; an out-of-range staged value is refused. -/
def timeGo (s : State) : State :=
  if s.bel.setPend.isSome then s
  else if (s.reg R.BEL_SET_NS).toNat > 999999999 then s.setFlag R.BEL_STATUS F.BEL_STATUS_SET_RANGE true
  else
    let at_ := if s.flag R.BEL_SET_CTL F.BEL_SET_CTL_AT_DNC then
        some ((s.reg R.BEL_SET_DNC_LO).toNat + 2 ^ 32 * s.fld R.BEL_SET_DNC_HI F.BEL_SET_DNC_HI_DNC) else none
    { s.setFlag R.BEL_SET_CTL F.BEL_SET_CTL_GO true with bel := { s.bel with setPend := some (stagedTod s, at_) } }

/-- OFS_GO (R47, R49). -/
def offsetGo (s : State) : State :=
  if s.bel.ofsPend.isSome then s
  else
    { s.setFlag R.BEL_SET_CTL F.BEL_SET_CTL_OFS_GO true with
      bel := { s.bel with ofsPend := some (signed 64 (s.pair R.BEL_OFS_LO R.BEL_OFS_HI)) } }

/-- A write of BEL_SET_CTL. AT_DNC and OFS_GO are expert fields (R73). -/
def writeSetCtl (a : Agent) (v : Word) (s : State) : State :=
  ownerWrite a R.BEL_SET_CTL s fun s =>
    let ex := expertOn s 0
    let old := s.flag R.BEL_SET_CTL F.BEL_SET_CTL_AT_DNC
    let at_ := F.BEL_SET_CTL_AT_DNC.get v == 1
    let ofs := F.BEL_SET_CTL_OFS_GO.get v == 1
    let hit := !ex && (at_ != old || (ofs && s.bel.ofsPend.isNone))
    let s1 := if ex then s.setFlag R.BEL_SET_CTL F.BEL_SET_CTL_AT_DNC at_ else s
    let s2 := if F.BEL_SET_CTL_GO.get v = 1 then timeGo s1 else s1
    let s3 := if ofs && ex then offsetGo s2 else s2
    let s4 := if F.BEL_SET_CTL_CANCEL.get v = 1 then s3.setFlag R.BEL_SET_CTL F.BEL_SET_CTL_CANCEL true else s3
    if hit then reportExpert a R.BEL_SET_CTL s4 else s4

def execTimeSetGo (a : Agent) (v : Word) (s : State) : Host.Outcome State Fault Refusal := .next (writeSetCtl a v s)

def execOfsGo (a : Agent) (v : Word) (s : State) : Host.Outcome State Fault Refusal := .next (writeSetCtl a v s)

def execCancel (a : Agent) (v : Word) (s : State) : Host.Outcome State Fault Refusal := .next (writeSetCtl a v s)

/-- A write of one of the other registers R44 names. -/
def writeTimeReg (a : Agent) (off : Nat) (v : Word) (s : State) : State := ownerWrite a off s (storeReg a off v)

/-! ### Slot generators -/

/-- The symbol starts of a generator, SYM0 to SYM(NSYM-1). -/
def storedSyms (s : State) (g n : Nat) : List Nat := (List.range n).map fun k => (s.reg (R.BEL_SG_SYM g k)).toNat

def increasing : List Nat → Bool
  | a :: b :: t => a < b && increasing (b :: t)
  | _ => true

/-- R51: the configuration a generator accepts. -/
def genValid (period phase nsym : Nat) (syms : List Nat) : Bool :=
  period != 0 && billion % period == 0 && 62500 ≤ period && period ≤ 1000000 && phase < period && 1 ≤ nsym && nsym ≤ 14 &&
  syms.head? == some 0 && increasing syms && syms.all (· < period * 256)

/-- A write of BEL_SGg_CTL (R51, R55, Table BEL-2). -/
def writeSgCtl (a : Agent) (g : Nat) (v : Word) (s : State) : State :=
  if !answers a (R.BEL_SG_CTL g) s then s
  else
    let en := F.BEL_SG_CTL_EN.get v == 1
    let s1 := s.setFld (R.BEL_SG_CTL g) F.BEL_SG_CTL_NSYM (F.BEL_SG_CTL_NSYM.get v)
    let st := s.fld (R.BEL_SG_STAT g) F.BEL_SG_STAT_STATE
    if st = 0 then
      if en then
        let n := F.BEL_SG_CTL_NSYM.get v
        let period := (s.reg (R.BEL_SG_PERIOD g)).toNat
        let phase := (s.reg (R.BEL_SG_PHASE g)).toNat
        let syms := storedSyms s g n
        if genValid period phase n syms then
          let s2 := ((s1.setFlag (R.BEL_SG_CTL g) F.BEL_SG_CTL_EN true).setFld (R.BEL_SG_STAT g) F.BEL_SG_STAT_STATE 1).setReg
            (R.BEL_SG_COUNT g) 0
          s2.setGen g { period := period, phase := phase, syms := syms, nextSym := n }
        else s1.setFlag (R.BEL_SG_STAT g) F.BEL_SG_STAT_CFG_ERR true
      else s1
    else if en then s1
    else
      let x := s.gen g
      (s1.setFlag (R.BEL_SG_CTL g) F.BEL_SG_CTL_EN false).setGen g
        { x with stopAt := some (x.stopAt.getD (s.bel.dnc + 1)) }

def execSgEnable (a : Agent) (g : Fin 4) (v : Word) (s : State) : Host.Outcome State Fault Refusal := .next (writeSgCtl a g.val v s)

def execSgDisable (a : Agent) (g : Fin 4) (v : Word) (s : State) : Host.Outcome State Fault Refusal := .next (writeSgCtl a g.val v s)

/-- The comparator's generator and mode. -/
def cmpSg (s : State) (c : Nat) : Nat := s.fld (R.BEL_CMP_CTL c) F.BEL_CMP_CTL_SG
def cmpMode (s : State) (c : Nat) : Nat := s.fld (R.BEL_CMP_CTL c) F.BEL_CMP_CTL_MODE
def cmpArmed (s : State) (c : Nat) : Bool := s.flag (R.BEL_CMP_CTL c) F.BEL_CMP_CTL_ARM

/-- Do something with every comparator bound to generator g, in ascending order. -/
def forBound (g : Nat) (k : Nat → State → State) (s : State) : State :=
  (List.range 16).foldl (fun t c => if cmpSg t c = g then k c t else t) s

/-- The generator stops (R55): queued SLOT_REL targets of its comparators are discarded. -/
def stopGen (g : Nat) (s : State) : State :=
  let s1 := forBound g (fun c t => t.setCmp c { t.cmp c with queue := [], slotHit := false }) s
  (s1.setFld (R.BEL_SG_STAT g) F.BEL_SG_STAT_STATE 0).setGen g {}

/-- Is the generator's stop due? -/
def stopDue (g : Nat) (s : State) : Bool :=
  match (s.gen g).stopAt with
  | some d => d ≤ s.bel.dnc
  | none => false

def sgStop (g : Nat) (s : State) : State := if stopDue g s then stopGen g s else s

def execSgStop (g : Fin 4) (s : State) : Host.Outcome State Fault Refusal := .next (sgStop g.val s)

/-- Time since the last boundary, in 1/256 ns (R52). -/
def inSlot256 (t : Tod) (period phase : Nat) : Nat := (t.ns + billion - phase) % period * 256 + t.frac / 2 ^ 32

/-- Is the next symbol strobe of a running generator due? -/
def symbolDue (g : Nat) (s : State) : Bool :=
  let x := s.gen g
  s.fld (R.BEL_SG_STAT g) F.BEL_SG_STAT_STATE == 2 && !x.slotDue && !x.jumped && x.nextSym < x.syms.length &&
  x.syms.getD x.nextSym 0 ≤ inSlot256 s.bel.tod x.period x.phase

def symbolStrobe (g : Nat) (s : State) : State :=
  if symbolDue g s then
    let x := s.gen g
    (s.setGen g { x with nextSym := x.nextSym + 1 }).emit (.strobe 1 g x.nextSym s.bel.dnc)
  else s

def execSymbolStrobe (g : Fin 4) (s : State) : Host.Outcome State Fault Refusal := .next (symbolStrobe g.val s)

/-! ### Comparators -/

/-- A write of BEL_CMPc_CTL (R58, R60, R73). -/
def writeCmpCtl (a : Agent) (c : Nat) (v : Word) (s : State) : State :=
  if !answers a (R.BEL_CMP_CTL c) s then s
  else
    let ctl := R.BEL_CMP_CTL c
    let m := F.BEL_CMP_CTL_MODE.get v
    let sg := F.BEL_CMP_CTL_SG.get v
    let arm := F.BEL_CMP_CTL_ARM.get v == 1
    let ex := expertOn s 0
    let s1 := s.setFld ctl F.BEL_CMP_CTL_DEST (F.BEL_CMP_CTL_DEST.get v)
    let err (t : State) : State := t.setFlag (R.BEL_CMP_STAT c) F.BEL_CMP_STAT_CFG_ERR true
    let rep (b : Bool) (t : State) : State := if b then reportExpert a ctl t else t
    let modeGated := decide (m < 2) && !ex && m != cmpMode s c
    let mode' := if m ≥ 4 || (m < 2 && !ex) then cmpMode s c else m
    if cmpArmed s c && arm then
      rep modeGated (if decide (m ≥ 4) || mode' != cmpMode s c || sg != cmpSg s c then err s1 else s1)
    else
      let s2 := (s1.setFld ctl F.BEL_CMP_CTL_MODE mode').setFld ctl F.BEL_CMP_CTL_SG sg
      let s3 := if m ≥ 4 then err s2 else s2
      if cmpArmed s c then
        rep modeGated ((s3.setFlag ctl F.BEL_CMP_CTL_ARM false).setCmp c { s.cmp c with queue := [], slotHit := false })
      else if !arm then rep modeGated s3
      else if mode' < 2 && !ex then rep true s3
      else if mode' = 1 && (s.reg (R.BEL_CMP_PERIOD c)).toNat < 1000 then rep modeGated (err s3)
      else if mode' = 3 && !((s.reg (R.BEL_CMP_TGT_LO c)).toNat < 2 * (s.reg (R.BEL_SG_PERIOD sg)).toNat) then rep modeGated (err s3)
      else
        rep modeGated ((s3.setFlag ctl F.BEL_CMP_CTL_ARM true).setCmp c
          { s.cmp c with cmpFrom := s.bel.dnc + 1, queue := [], slotHit := false })

def execCmpArm (a : Agent) (c : Fin 16) (v : Word) (s : State) : Host.Outcome State Fault Refusal := .next (writeCmpCtl a c.val v s)

def execCmpDisarm (a : Agent) (c : Fin 16) (v : Word) (s : State) : Host.Outcome State Fault Refusal := .next (writeCmpCtl a c.val v s)

/-- A write of BEL_CMPc_TGT_LO loads the 40-bit target in one tick; an armed comparator compares it from the next (R58). -/
def loadTarget (a : Agent) (c : Nat) (v : Word) (s : State) : State :=
  if !answers a (R.BEL_CMP_TGT_LO c) s then s
  else
    let t := v.toNat + 2 ^ 32 * s.fld (R.BEL_CMP_TGT_HI c) F.BEL_CMP_TGT_HI_TGT
    (s.setReg (R.BEL_CMP_TGT_LO c) v).setCmp c { s.cmp c with target := t, cmpFrom := s.bel.dnc + 1 }

def execCmpTargetLoad (a : Agent) (c : Fin 16) (v : Word) (s : State) : Host.Outcome State Fault Refusal :=
  .next (loadTarget a c.val v s)

/-- R57: the signed 40-bit distance to a target is at most 0. -/
def reached40 (target dnc : Nat) : Bool := decide (signed 40 (target + 2 ^ 40 - dnc % 2 ^ 40) ≤ 0)

/-- Does the comparator fire at this tick (R56, R57, R59)? -/
def cmpDue (c : Nat) (s : State) : Bool :=
  let x := s.cmp c
  cmpArmed s c &&
  (match cmpMode s c with
   | 2 => x.slotHit
   | 3 => match x.queue with
     | [] => false
     | q :: _ => q ≤ s.bel.dnc
   | _ => x.cmpFrom ≤ s.bel.dnc && reached40 x.target s.bel.dnc)

/-- What a comparator keeps after it fires (R56). -/
def cmpAfter (s : State) (c : Nat) : Cmp :=
  let x := s.cmp c
  match cmpMode s c with
  | 1 => { x with target := (x.target + (s.reg (R.BEL_CMP_PERIOD c)).toNat) % 2 ^ 40, cmpFrom := s.bel.dnc + 1 }
  | 2 => { x with slotHit := false }
  | 3 => { x with queue := x.queue.tail }
  | _ => x

/-- R60. DEST holds the destinations as bits 0 CL, 1 TX, 2 RF, 3 the PF event ring. -/
def fireCmp (c : Nat) (s : State) : State :=
  if cmpDue c s then
    let mode := cmpMode s c
    let dest := s.fld (R.BEL_CMP_CTL c) F.BEL_CMP_CTL_DEST
    let s1 := s.setCmp c (cmpAfter s c)
    let s2 := if mode = 0 then s1.setFlag (R.BEL_CMP_CTL c) F.BEL_CMP_CTL_ARM false else s1
    let s3 := (s2.setFlag (R.BEL_CMP_STAT c) F.BEL_CMP_STAT_FIRED true).setPair (R.BEL_CMP_FIRE_LO c) (R.BEL_CMP_FIRE_HI c) s.bel.dnc
    let s4 := if dest % 8 = 0 then s3 else s3.emit (.strobe 2 c (dest % 8) s.bel.dnc)
    if bitOf dest 3 then event 0x0011 16 (c + 16 * mode) s4 else s4
  else s

def execCmpFire (c : Fin 16) (s : State) : Host.Outcome State Fault Refusal := .next (fireCmp c.val s)

/-! ### PPS -/

/-- PPS_OUT asserts at a crossing while EN = 1 (R61). -/
def ppsAssert (s : State) : State :=
  if s.bel.ppsDue && s.flag R.BEL_PPSOUT_CTL F.BEL_PPSOUT_CTL_EN then
    { s with bel := { s.bel with ppsDue := false, ppsHigh := true,
                                 ppsEnd := s.bel.dnc + 1000 * (s.reg R.BEL_PPSOUT_WIDTH).toNat } }
  else { s with bel := { s.bel with ppsDue := false } }

def execPpsOutAssert (s : State) : Host.Outcome State Fault Refusal := .next (ppsAssert s)

def ppsWidthEnd (s : State) : State :=
  if s.bel.ppsHigh && decide (s.bel.ppsEnd ≤ s.bel.dnc) then { s with bel := { s.bel with ppsHigh := false } } else s

def execPpsOutWidthEnd (s : State) : Host.Outcome State Fault Refusal := .next (ppsWidthEnd s)

/-- A PPS_IN edge (R62). The synchroniser delay is compensated, so the latched values are those of the present tick. -/
def ppsIn (falling : Bool) (s : State) : State :=
  if s.flag R.BEL_PPSIN_CTL F.BEL_PPSIN_CTL_EN && s.flag R.BEL_PPSIN_CTL F.BEL_PPSIN_CTL_EDGE == falling then
    let t := s.bel.tod
    let s1 := s.setReg R.BEL_PPSIN_NS (BitVec.ofNat 32 t.ns)
    let s2 := s1.setPair R.BEL_PPSIN_SEC_LO R.BEL_PPSIN_SEC_HI t.sec
    let s3 := s2.setPair R.BEL_PPSIN_DNC_LO R.BEL_PPSIN_DNC_HI s.bel.dnc
    s3.addWrap R.BEL_PPSIN_CNT F.BEL_PPSIN_CNT_CNT 1
  else s

def execPpsInEdge (falling : Bool) (s : State) : Host.Outcome State Fault Refusal := .next (ppsIn falling s)

/-! ### Writes of the Belfry's other registers -/

/-- RCLK frequencies other than code 0 are expert (R73); code 3 is undefined and keeps the old value (R556). -/
def writeRclk (a : Agent) (v : Word) (s : State) : State :=
  if !answers a R.BEL_RCLK_CTL s then s
  else
    let f := F.BEL_RCLK_CTL_FREQ.get v
    let old := s.fld R.BEL_RCLK_CTL F.BEL_RCLK_CTL_FREQ
    let gated := f != 0 && f != 3 && f != old && !expertOn s 0
    let en := F.BEL_RCLK_CTL_EN.get v == 1
    let s1 := s.setFlag R.BEL_RCLK_CTL F.BEL_RCLK_CTL_EN en
    let s2 := if gated || f = 3 then s1 else s1.setFld R.BEL_RCLK_CTL F.BEL_RCLK_CTL_FREQ f
    let s3 := if en then s2 else { s2 with bel := { s2.bel with rclkAcc := 0, rclkLevel := false } }
    if gated then reportExpert a R.BEL_RCLK_CTL s3 else s3

end Sys2Proof.Machine
end

