-- ==== Sys2Proof/Machine/Flags.lean ====
section
/-! DEFINITION. Completion statuses, flags and detail words: the order of R11, the flags of R12-R15, PARTIAL of R14, the DETAIL
forms of R329, the result flags of Table SEQ-3. A block has no arithmetic flags; these are its flag computations. -/

namespace Sys2Proof.Machine

/-! Status codes (Table SCP-3). -/

def stDone : Nat := 0
def stLate : Nat := 1
def stFlushed : Nat := 2
def stAborted : Nat := 3
def stMem : Nat := 4
def stTrans : Nat := 5
def stLink : Nat := 6
def stDropped : Nat := 7
def stTwin : Nat := 8
def stRejected : Nat := 9
def stUntested : Nat := 10
def stPower : Nat := 11

/-- The statuses in the order of R11. -/
def statusOrder : List Nat :=
  [stRejected, stUntested, stPower, stFlushed, stMem, stTrans, stLink, stTwin, stAborted, stDropped, stLate, stDone]

/-- The place of a status in the order of R11. -/
def statusRank (st : Nat) : Nat := statusOrder.findIdx (· == st)

/-- The first that applies (R11), the earliest of equals; DONE when nothing failed. -/
def firstStatus : List (Nat × Nat) → Nat × Nat
  | [] => (stDone, 0)
  | x :: xs => let y := firstStatus xs; if statusRank x.1 ≤ statusRank y.1 then x else y

/-- PARTIAL may be set with this status (R14). -/
def partialAllowed (st : Nat) : Bool := st == stAborted || st == stMem || st == stTrans || st == stLink || st == stDropped

/-- DIGEST_PRESENT may be set with this status (R15). -/
def digestAllowed (st : Nat) : Bool := st == stDone || st == stLate

/-- Table SCP-5. -/
def cflags (committed replayed digest part : Bool) : Nat :=
  committed.toNat + 2 * replayed.toNat + 4 * digest.toNat + 8 * part.toNat

/-- The unit form of DETAIL (R329). -/
def unitDetail (kind index reason : Nat) : Nat := kind % 256 + 256 * (index % 256) + 65536 * (reason % 65536)

/-- DETAIL of an item stopped by a reset (R462). -/
def resetDetail (cause : Nat) : Nat := unitDetail 0 0 cause

/-- RFL of Table HST-5. -/
def rflByte (sq : Nat) (diverted reset : Bool) (phase : Nat) : Nat :=
  sq % 8 + 16 * diverted.toNat + 32 * reset.toNat + 128 * (phase % 2)

/-- RFLAGS of Table SEQ-3. -/
def resultFlags (deferred joined appended part : Bool) : Nat :=
  deferred.toNat + 2 * joined.toNat + 4 * appended.toNat + 8 * part.toNat

end Sys2Proof.Machine
end

