-- ==== Sys2Proof/Machine/Egress.lean ====
section
/-! DEFINITION. Egress queues of the fronthaul ports and the transmit timestamp rings (R68-R71, R353, R377-R383). -/

namespace Sys2Proof.Machine

def State.fp (s : State) (p : Nat) : FhPort := Tab.get (fun _ => {}) s.fhs.ports p
def State.setFp (s : State) (p : Nat) (x : FhPort) : State :=
  { s with fhs := { s.fhs with ports := Tab.set (fun _ => {}) s.fhs.ports p x } }
def State.fq (s : State) (p q : Nat) : FhQueue := Tab.get (fun _ => {}) s.fhs.queues (8 * p + q)
def State.setFq (s : State) (p q : Nat) (x : FhQueue) : State :=
  { s with fhs := { s.fhs with queues := Tab.set (fun _ => {}) s.fhs.queues (8 * p + q) x } }

/-- FP1-FP3 or FP5-FP7 do not exist in a 100G quad (R350). -/
def fhThere (s : State) (p : Nat) : Bool := p < 8 && (p % 4 == 0 || !s.flag (R.FHS_QUAD_CFG (p / 4)) F.FHS_QUAD_CFG_MODE)
def fhEnabled (s : State) (p : Nat) : Bool := fhThere s p && s.flag (R.FHS_P_CTL p) F.FHS_P_CTL_EN
def fhLink (s : State) (p : Nat) : Bool := s.flag (R.FHS_P_STAT p) F.FHS_P_STAT_LINK

/-! ### Transmit timestamps (R68-R71) -/

/-- A timestamp of port p: sent at a time, or not sent. -/
def tsEntry (p tsId : Nat) (time : Option Tod) (s : State) : State :=
  let drop (s : State) : State := s.addSat (R.BEL_TSR_DROP p) F.BEL_TSR_DROP_CNT 1
  if !s.flag (R.BEL_TSR_CTL p) F.BEL_TSR_CTL_EN then drop s
  else
    let pidx := s.fld (R.BEL_TSR_STAT p) F.BEL_TSR_STAT_PIDX
    let cidx := hostWord s (s.pair (R.BEL_TSR_CIDX_LO p) (R.BEL_TSR_CIDX_HI p))
    if 16 ≤ (pidx + 0x10000 - cidx % 0x10000) % 0x10000 then
      let s1 := drop s
      if s1.flag (R.BEL_TSR_STAT p) F.BEL_TSR_STAT_OVF then s1
      else event 0x0010 16 p (s1.setFlag (R.BEL_TSR_STAT p) F.BEL_TSR_STAT_OVF true)
    else
      let t := time.getD {}
      let flags := phaseOf pidx 16 + 2 * time.isNone.toNat
      let bs := leBytes 2 tsId ++ leBytes 6 t.sec ++ leBytes 4 t.ns ++ leBytes 1 flags ++ [0, 0, 0]
      (hostWrite (s.pair (R.BEL_TSR_BASE_LO p) (R.BEL_TSR_BASE_HI p) + 16 * (pidx % 16)) bs s).setFld (R.BEL_TSR_STAT p)
        F.BEL_TSR_STAT_PIDX (pidx + 1)

/-- A frame that asked for a timestamp is discarded before transmission (R71). -/
def tsNotSent (p : Nat) (f : FhFrame) (s : State) : State :=
  match f.ts with
  | some id => tsEntry p id none s
  | none => s

/-! ### Queues -/

/-- Bytes of a frame with its FCS, and the cells it takes (R378). -/
def FhFrame.len (f : FhFrame) : Nat := f.bytes.length + 4
def FhFrame.cells (f : FhFrame) : Nat := (f.len + 255) / 256
def FhQueue.cells (x : FhQueue) : Nat := (x.frames.map FhFrame.cells).foldl (· + ·) 0

/-- FHS_Pp_Qq_DEPTH, _PEAK and _TOKENS. -/
def showQueue (p q : Nat) (s : State) : State :=
  let x := s.fq p q
  let s1 := (s.setFld (R.FHS_P_Q_DEPTH p q) F.FHS_P_Q_DEPTH_CELLS x.cells).setFld (R.FHS_P_Q_DEPTH p q) F.FHS_P_Q_DEPTH_FRAMES
    x.frames.length
  let s2 := s1.setFld (R.FHS_P_Q_PEAK p q) F.FHS_P_Q_PEAK_CELLS (Nat.max (s.fld (R.FHS_P_Q_PEAK p q) F.FHS_P_Q_PEAK_CELLS) x.cells)
  s2.setReg (R.FHS_P_Q_TOKENS p q) (BitVec.ofInt 32 (x.tokens / 256))

/-- R380. -/
def FhQueue.active (x : FhQueue) : Bool := !x.frames.isEmpty && (!x.shaped || decide (0 < x.tokens))

/-- The finish tag of a queue's head, from a start tag (R381). -/
def finishTag (s : State) (p q start : Nat) (x : FhQueue) : Option Nat :=
  match x.frames with
  | [] => none
  | f :: _ =>
    some ((start + f.len * 65536 / Nat.max 1 (s.fld (R.FHS_P_Q_WEIGHT p q) F.FHS_P_Q_WEIGHT_W)) % 2 ^ 48)

/-- A queue of 0-5 that has become active takes a tag from V; one that is not active has none (R381). -/
def wakeQueue (p q : Nat) (s : State) : State :=
  let x := s.fq p q
  if q < 6 && x.active then (if x.tag.isSome then s else s.setFq p q { x with tag := finishTag s p q (s.fp p).v x })
  else if x.tag.isSome then s.setFq p q { x with tag := none } else s

def setFrames (p q : Nat) (fs : List FhFrame) (s : State) : State :=
  showQueue p q (wakeQueue p q (s.setFq p q { s.fq p q with frames := fs }))

/-- The frames of ring items that are gone leave their queues (R470, R449). -/
def purgeFrames (s : State) : State :=
  let live (f : FhFrame) : Bool := match f.item with
    | some id => s.host.items.any (·.id == id)
    | none => true
  (List.range 64).foldl (fun t k =>
    let x := t.fq (k / 8) (k % 8)
    if x.frames.all live then t
    else (x.frames.filter fun f => !live f).foldl (fun t f => tsNotSent (k / 8) f t) (setFrames (k / 8) (k % 8) (x.frames.filter live) t)) s

/-- Σ RESV over all queues. -/
def resvSum (s : State) : Nat :=
  ((List.range 64).map fun k => s.fld (R.FHS_P_Q_BUF (k / 8) (k % 8)) F.FHS_P_Q_BUF_RESV).foldl (· + ·) 0

/-- Cells in use from the shared pool. -/
def sharedUsed (s : State) : Nat :=
  ((List.range 64).map fun k =>
    (s.fq (k / 8) (k % 8)).cells - s.fld (R.FHS_P_Q_BUF (k / 8) (k % 8)) F.FHS_P_Q_BUF_RESV).foldl (· + ·) 0

/-- R378. -/
def admits (s : State) (p q : Nat) (f : FhFrame) : Bool :=
  let d := (s.fq p q).cells
  let r := s.fld (R.FHS_P_Q_BUF p q) F.FHS_P_Q_BUF_RESV
  d + f.cells ≤ s.fld (R.FHS_P_Q_BUF p q) F.FHS_P_Q_BUF_LIMIT &&
  (d + f.cells - r) - (d - r) ≤ 16384 - resvSum s - sharedUsed s

end Sys2Proof.Machine
end

