-- ==== Sys2Proof/Machine/CoreExec.lean ====
section
/-! DEFINITION. How a Cloister core issues a bundle (R116-R142): decoding its four slots, reading every source, then writing;
RPT, LOOP, narrowing, events. A core stands alone here; Cloister joins it to the device. -/

namespace Sys2Proof.Machine

/-! ### Registers of a core -/

/-- R116: the physical register that Vk names. -/
def physV (rrb k : Nat) : Nat := if k < 16 then k else 16 + (k - 16 + rrb) % 16

def lanes : List Nat := List.range 32

def Core.vLane (c : Core) (r j : Nat) : BitVec 16 := Tab.get (fun _ => 0) c.v (32 * physV c.ctx.rrb r + j)
def Core.vReg (c : Core) (r : Nat) : List (BitVec 16) := lanes.map (c.vLane r)
def Core.aLane (c : Core) (r j : Nat) : Int := (Tab.get (fun _ => (0 : BitVec 40)) c.a (32 * r + j)).toInt
def Core.sReg (c : Core) (r : Nat) : Word := Tab.get (fun _ => 0) c.s r

/-- Write lanes of a physical V register. -/
def Core.setV (c : Core) (phys : Nat) (xs : List (BitVec 16)) : Core :=
  { c with v := lanes.foldl (fun t j => Tab.set (fun _ => 0) t (32 * phys + j) (xs.getD j 0)) c.v }
def Core.setA (c : Core) (r : Nat) (xs : List Int) : Core :=
  { c with a := lanes.foldl (fun t j => Tab.set (fun _ => (0 : BitVec 40)) t (32 * r + j) (BitVec.ofInt 40 (xs.getD j 0))) c.a }
def Core.setS (c : Core) (r : Nat) (w : Word) : Core := { c with s := Tab.set (fun _ => 0) c.s r w }

/-! ### Slots -/

inductive VecOp where
  | nop | alu (w : Word) (x : VecAlu) | mova (a d : Nat) | aclr (a : Nat) | mac (x : MacOp)
  | macw (mpy : Bool) (a p q k c : Nat) | cmac (x : CMacOp) | pair
  deriving DecidableEq, Repr

inductive SbOp where
  | nop | sca (w : Word) (x : ScaOp) | rpt (src : Bool) (n : Nat) | loop (src : Bool) (len : Nat) (rot : Bool) (n : Nat)
  | setscale (src : Bool) (n : Nat) | setbfp (bfp : Bool) (head : Nat) | blkend (wr : Bool) (d : Nat)
  | waitev (mask : Nat) | clrev (mask : Nat) | reti | halt
  deriving DecidableEq, Repr

structure Bundle where
  mem : Option MemOp
  va  : VecOp
  vb  : VecOp
  sb  : SbOp
  deriving DecidableEq, Repr

/-- Bits [31:26] of a slot word (R122). -/
def opOf (w : Word) : Nat := bitsOf w.toNat 31 26

def decodeMem (w : Word) : Option (Option MemOp) :=
  if w = 0 then some none
  else if 1 ≤ opOf w && opOf w ≤ 0x13 then (Config.memOp w).map some else none

/-- Tables CLO-3 and CLO-6. -/
def decodeVec (w : Word) : Option VecOp :=
  let n := w.toNat
  if w = 0 then some .nop
  else if 0x14 ≤ opOf w && opOf w ≤ 0x1F then (Config.vecAlu w).map (.alu w)
  else match opOf w with
    | 0x20 => some (.mova (bitsOf n 25 24) (bitsOf n 23 19))
    | 0x21 => some (.aclr (Config.aclr w).val)
    | 0x22 => some (.mac (Config.macOp w))
    | 0x23 => some (.mac (Config.macOp w))
    | 0x24 => some (.mac (Config.macOp w))
    | 0x25 => some (.mac (Config.macOp w))
    | 0x26 => some (.macw false (bitsOf n 25 24) (bitsOf n 23 19) (bitsOf n 18 14) (bitsOf n 13 9) (bitsOf n 8 4))
    | 0x27 => some (.macw true (bitsOf n 25 24) (bitsOf n 23 19) (bitsOf n 18 14) (bitsOf n 13 9) (bitsOf n 8 4))
    | 0x28 => some (.cmac (Config.cmacOp w))
    | 0x29 => some (.cmac (Config.cmacOp w))
    | 0x3F => some .pair
    | _ => none

def decodeSb (w : Word) : Option SbOp :=
  let n := w.toNat
  if w = 0 then some .nop
  else if 0x30 ≤ opOf w && opOf w ≤ 0x37 then (Config.scaOp w).map (.sca w)
  else match opOf w with
    | 0x38 => some (.rpt (bitOf n 25) (if bitOf n 25 then bitsOf n 4 0 else bitsOf n 11 0 + 1))
    | 0x39 => some (.loop (bitOf n 25) (bitsOf n 24 17 + 1) (bitOf n 16) (if bitOf n 25 then bitsOf n 4 0 else bitsOf n 15 0))
    | 0x3A => some (.setscale (bitOf n 25) (bitsOf n 4 0))
    | 0x3B => some (.setbfp (bitOf n 4) (bitsOf n 3 0))
    | 0x3C => some (.blkend (bitOf n 5) (bitsOf n 4 0))
    | 0x3D => some (match bitsOf n 25 24 with
        | 0 => .waitev (bitsOf n 18 0)
        | 1 => .clrev (bitsOf n 18 0)
        | 2 => .reti
        | _ => .halt)
    | _ => none

def Core.word (c : Core) (b w : Nat) : Word := Tab.get (fun _ => 0) c.imem (4 * (b % 4096) + w)

/-- The bundle at an index (Table CLO-2); `none` when a slot holds an undefined OP. -/
def Core.bundle (c : Core) (b : Nat) : Option Bundle :=
  match decodeMem (c.word b 0), decodeVec (c.word b 1), decodeVec (c.word b 2), decodeSb (c.word b 3) with
  | some m, some va, some vb, some sb => some { mem := m, va := va, vb := vb, sb := sb }
  | _, _, _, _ => none

/-! ### What a bundle may hold (R126, R133, R137) -/

def memVWrites : Option MemOp → List Nat
  | some (.ldv d _ _) => [d.val]
  | some (.ldvp d _ _) => [d.val]
  | some (.ldvu d _ _) => [d.val]
  | some (.ldv2 d e _ _) => [d.val, e.val]
  | some (.ldstv d _ _ _) => [d.val]
  | _ => []

def memSWrites : Option MemOp → List Nat
  | some (.ldvp _ b _) => [b.val]
  | some (.stvp _ b _) => [b.val]
  | some (.lds d _ _) => [d.val]
  | _ => []

def vecVWrites : VecOp → List Nat
  | .alu _ x => [x.d.val]
  | .mova _ d => [d]
  | _ => []

def sbSWrites : SbOp → List Nat
  | .sca _ (.alu d _ _) => [d.val]
  | .sca _ (.call l _) => [l.val]
  | .blkend true d => [d]
  | _ => []

def meet (xs ys : List Nat) : Bool := xs.any ys.contains

def isCmac : VecOp → Bool
  | .cmac _ => true
  | _ => false

def immOk : SbOp → Bool
  | .setscale false n => n ≤ 24
  | .setbfp _ h => h ≤ 8
  | _ => true

/-- R126, but for an undefined OP. -/
def Bundle.legal (b : Bundle) : Bool :=
  !meet (memVWrites b.mem) (vecVWrites b.va) && !meet (memVWrites b.mem) (vecVWrites b.vb) && !meet (vecVWrites b.va) (vecVWrites b.vb) &&
  !meet (memSWrites b.mem) (sbSWrites b.sb) && !isCmac b.vb && b.va != .pair && (isCmac b.va == (b.vb == .pair)) && immOk b.sb

/-- May a bundle be repeated (R133)? -/
def Bundle.repeatable (b : Bundle) : Bool :=
  b.sb == .nop &&
  (match b.mem with
   | some (.lda _ _) => false
   | some (.sta _ _) => false
   | _ => true)

def isRptLoop : SbOp → Bool
  | .rpt _ _ => true
  | .loop _ _ _ _ => true
  | _ => false

def isRpt : SbOp → Bool
  | .rpt _ _ => true
  | _ => false

def sbAt (c : Core) (b : Nat) : SbOp := (decodeSb (c.word b 3)).getD .nop

/-- May a LOOP at bundle n have a body of `len` bundles (R137)? -/
def bodyOk (c : Core) (n len : Nat) : Bool := !isRptLoop (sbAt c (n + len)) && !isRpt (sbAt c (n + len - 1))

/-! ### Data memory (R118-R121) -/

def dmemSize : Nat := 0x80000

def anyBad (c : Core) : Nat → Nat → Bool
  | _, 0 => false
  | w, n + 1 => Tab.get (fun _ => false) c.bad w || anyBad c (w + 1) n

/-- 64-bit words an access covers. -/
def wordSpan (a n : Nat) : Nat := if n = 0 then 0 else (a + n - 1) / 8 + 1 - a / 8

/-- An access of n bytes with an alignment: the fault code of Table CLO-8, or the address. -/
def dmemAddr (a n align : Nat) : Except Nat Nat := if a % align = 0 && a + n ≤ dmemSize then .ok a else .error 2

def dmemRead (c : Core) (a n align : Nat) : Except Nat (List Byte) :=
  match dmemAddr a n align with
  | .error e => .error e
  | .ok _ => if anyBad c (a / 8) (wordSpan a n) then .error 3 else .ok (c.dmem.read a n)

/-- Does a store of n bytes at a need a merge read that finds an error (R557)? Only words covered in part are read. -/
def mergeBad (c : Core) (a n : Nat) : Bool :=
  (a % 8 != 0 && Tab.get (fun _ => false) c.bad (a / 8)) || ((a + n) % 8 != 0 && Tab.get (fun _ => false) c.bad ((a + n) / 8))

def clearBad (c : Core) : Nat → Nat → Core
  | _, 0 => c
  | w, n + 1 => clearBad { c with bad := Tab.set (fun _ => false) c.bad w false } (w + 1) n

/-- Store bytes; whole words are encoded afresh. -/
def dmemStore (c : Core) (a : Nat) (bs : List Byte) : Core :=
  let lo := (a + 7) / 8
  clearBad { c with dmem := c.dmem.write a bs } lo ((a + bs.length) / 8 - lo)

def bytesToLanes (bs : List Byte) : List (BitVec 16) := lanes.map fun j => BitVec.ofNat 16 (fieldAt bs (2 * j) 2)
def lanesToBytes (xs : List (BitVec 16)) : List Byte := lanes.flatMap fun j => leBytes 2 (xs.getD j 0).toNat

/-! ### What the slots write -/

/-- The writes of a bundle, gathered from the state before it (R123). -/
structure Fx where
  vw : List (Nat × List (BitVec 16)) := []
  aw : List (Nat × List Int) := []
  sw : List (Nat × Word) := []
  mw : List (Nat × List Byte) := []
  cycles : Nat := 1
  deriving DecidableEq, Repr

def ea (c : Core) (b : Fin 32) (imm : Int) : Nat := unsigned 32 ((c.sReg b.val).toNat + imm)

def storeFx (c : Core) (a align : Nat) (bs : List Byte) (fx : Fx) : Except Nat Fx :=
  match dmemAddr a bs.length align with
  | .error e => .error e
  | .ok _ => if mergeBad c a bs.length then .error 3 else .ok { fx with mw := [(a, bs)] }

def loadV (c : Core) (a align d : Nat) : Except Nat Fx :=
  match dmemRead c a 64 align with
  | .error e => .error e
  | .ok bs => .ok { vw := [(physV c.ctx.rrb d, bytesToLanes bs)] }

/-- The MEM slot (Table CLO-3). -/
def memFx (c : Core) : Option MemOp → Except Nat Fx
  | none => .ok {}
  | some (.ldv d b imm) => loadV c (ea c b imm) 64 d
  | some (.ldvp d b imm) =>
    match loadV c (ea c b 0) 64 d with
    | .error e => .error e
    | .ok fx => .ok { fx with sw := [(b.val, BitVec.ofNat 32 (ea c b imm))] }
  | some (.ldvu d b imm) => loadV c (ea c b imm) 2 d
  | some (.ldv2 d e b g) =>
    match loadV c (ea c b 0) 64 d, loadV c (ea c g 0) 64 e with
    | .ok f1, .ok f2 => .ok { f1 with vw := f1.vw ++ f2.vw }
    | .error x, _ => .error x
    | _, .error x => .error x
  | some (.stvp v b imm) => storeFx c (ea c b 0) 64 (lanesToBytes (c.vReg v.val)) { sw := [(b.val, BitVec.ofNat 32 (ea c b imm))] }
  | some (.ldstv d b v g) =>
    match loadV c (ea c b 0) 64 d with
    | .error e => .error e
    | .ok fx => storeFx c (ea c g 0) 64 (lanesToBytes (c.vReg v.val)) fx
  | some (.lds d b imm) =>
    match dmemRead c (ea c b imm) 4 4 with
    | .error e => .error e
    | .ok bs => .ok { sw := [(d.val, BitVec.ofNat 32 (leNat bs))] }
  | some (.sts d b imm) => storeFx c (ea c b imm) 4 (leBytes 4 (c.sReg d.val).toNat) {}
  | some (.lda a b) =>
    match dmemRead c (ea c b 0) 256 64 with
    | .error e => .error e
    | .ok bs => .ok { aw := [(a.val, lanes.map fun j => signed 40 (fieldAt bs (8 * j) 5))], cycles := 2 }
  | some (.sta a b) => storeFx c (ea c b 0) 64 (lanes.flatMap fun j => leBytes 8 (unsigned 64 (c.aLane a.val j))) { cycles := 4 }

/-- sat16 (R128). -/
def sat16i (i : Int) : Int := clampInt (-32768) 32767 i

/-- R128: narrow an accumulator lane by SCALE, rounding half up. -/
def narrow (scale : Nat) (a : Int) : BitVec 16 :=
  BitVec.ofInt 16 (if scale = 0 then sat16i a else sat16i ((a + 2 ^ (scale - 1)) / 2 ^ scale))

def absNat (i : Int) : Nat := i.natAbs

/-- The largest magnitude of an accumulator's lanes (R130). -/
def maxMag (c : Core) (a : Nat) : Nat := lanes.foldl (fun m j => Nat.max m (absNat (c.aLane a j))) 0

def opndLanes (c : Core) : Opnd → List Int
  | .reg r => lanes.map fun j => (c.vLane r.val j).toInt
  | .imm v => lanes.map fun _ => v

/-- Rotation by ±j of complex lane pairs, the real part in the even lane. -/
def rotLane (r : Rot) (xs : List Int) (j : Nat) : Int :=
  match r with
  | .none => xs.getD j 0
  | .plusJ => if j % 2 = 0 then -(xs.getD (j + 1) 0) else xs.getD (j - 1) 0
  | .minusJ => if j % 2 = 0 then xs.getD (j + 1) 0 else -(xs.getD (j - 1) 0)

def vecAluLanes (c : Core) (w : Word) (x : VecAlu) : List (BitVec 16) :=
  let b := opndLanes c x.b
  let a := fun j => (c.vLane x.a.val j).toInt
  match x.fn with
  | .add => lanes.map fun j => BitVec.ofInt 16 (sat16i (a j + rotLane x.rot b j))
  | .sub => lanes.map fun j => BitVec.ofInt 16 (sat16i (a j - rotLane x.rot b j))
  | .min => lanes.map fun j => BitVec.ofInt 16 (if a j ≤ b.getD j 0 then a j else b.getD j 0)
  | .max => lanes.map fun j => BitVec.ofInt 16 (if a j ≤ b.getD j 0 then b.getD j 0 else a j)
  | .other => let r := Config.vecOther w (c.vReg x.a.val) (b.map (BitVec.ofInt 16)); lanes.map fun j => r.getD j 0

/-- The products of a MAC form: accumulator, whether the old value is replaced by zero, lanes (R117, R125, R127). -/
def products (c : Core) : VecOp → Option (Nat × Bool × List Int)
  | .mac x =>
    some (x.acc.val, x.mpy, lanes.map fun j => (c.vLane x.x.val j).toInt *
      (if x.scalar then signed 16 (c.sReg x.y.val).toNat else (c.vLane x.y.val j).toInt))
  | .macw mpy a p q k g =>
    some (a, mpy, lanes.map fun j =>
      (if j + k ≤ 31 then (c.vLane p (j + k)).toInt else (c.vLane q (j + k - 32)).toInt) * signed 16 (c.sReg g).toNat)
  | .cmac x =>
    let re (r : Fin 32) (j : Nat) := (c.vLane r.val (j / 2 * 2)).toInt
    let im (r : Fin 32) (j : Nat) := (c.vLane r.val (j / 2 * 2 + 1)).toInt
    let sx : Int := if x.conj && !Config.conjSecond then -1 else 1
    let sy : Int := if x.conj && Config.conjSecond then -1 else 1
    some (x.acc.val, x.mpy, lanes.map fun j =>
      if j % 2 = 0 then re x.x j * re x.y j - sx * sy * (im x.x j * im x.y j)
      else sy * (re x.x j * im x.y j) + sx * (im x.x j * re x.y j))
  | .aclr a => some (a, true, lanes.map fun _ => 0)
  | _ => none

/-- Add a half's products to what an accumulator receives. -/
def addLanes (xs ys : List Int) : List Int := lanes.map fun j => xs.getD j 0 + ys.getD j 0

/-- The accumulators that the vector halves write, with their exact sums (R125). -/
def accSums (c : Core) (b : Bundle) : List (Nat × List Int) :=
  let old (a : Nat) (z : Bool) : List Int := if z then lanes.map (fun _ => 0) else lanes.map (c.aLane a)
  match products c b.va, products c b.vb with
  | none, none => []
  | some (a, z, p), none => [(a, addLanes (old a z) p)]
  | none, some (a, z, p) => [(a, addLanes (old a z) p)]
  | some (a1, z1, p1), some (a2, z2, p2) =>
    if a1 = a2 then [(a1, addLanes (old a1 (z1 || z2)) (addLanes p1 p2))]
    else [(a1, addLanes (old a1 z1) p1), (a2, addLanes (old a2 z2) p2)]

def outOf40 (i : Int) : Bool := decide (i < -(2 ^ 39)) || decide (2 ^ 39 ≤ i)

/-- V writes of a vector half. -/
def vecVw (c : Core) : VecOp → List (Nat × List (BitVec 16))
  | .alu w x => [(physV c.ctx.rrb x.d.val, vecAluLanes c w x)]
  | .mova a d => [(physV c.ctx.rrb d, lanes.map fun j => narrow c.ctx.scale (c.aLane a j))]
  | _ => []

def movaMag (c : Core) : VecOp → Nat
  | .mova a _ => if c.ctx.bfp then maxMag c a else 0
  | _ => 0

def bitLength : Nat → Nat → Nat
  | 0, _ => 0
  | _, 0 => 0
  | f + 1, n => bitLength f (n / 2) + 1

/-- BLKEND's next SCALE (R131). -/
def nextScale (maxmag head : Nat) : Nat := (clampInt 0 24 ((bitLength 41 maxmag : Nat) - 15 + head)).toNat

/-! ### Control flow -/

/-- Where a bundle goes next: a plain successor, a taken branch, or a place given outright. -/
inductive Flow where
  | step | skip (n : Nat) | jump (t : Nat) | hold
  deriving DecidableEq, Repr

/-- After the bundle at `pc`: end loop iterations whose body it closes (R136). -/
def loopEnd : Nat → Nat → CoreCtx → CoreCtx
  | 0, pc, x => { x with pc := (pc + 1) % 4096 }
  | f + 1, pc, x =>
    match x.loops with
    | [] => { x with pc := (pc + 1) % 4096 }
    | l :: rest =>
      if l.last = pc then
        let x1 := if l.rot then { x with rrb := (x.rrb + 15) % 16 } else x
        if l.count ≤ 1 then loopEnd f pc { x1 with loops := rest }
        else { x1 with pc := l.start, loops := { l with count := l.count - 1 } :: rest }
      else { x with pc := (pc + 1) % 4096 }

def inBody (t : Nat) (l : LoopEnt) : Bool :=
  if l.start ≤ l.last then l.start ≤ t && t ≤ l.last else l.start ≤ t || t ≤ l.last

/-- A taken branch abandons the innermost loops whose body the target lies outside (R137). -/
def dropLoops (t : Nat) : List LoopEnt → List LoopEnt
  | [] => []
  | l :: rest => if inBody t l then l :: rest else dropLoops t rest

/-- What the SB slot does to the context, with its flow, or the fault code (R126, R129-R137). `old` is the context before the bundle;
`mag` is what the bundle's own moves add to MAXMAG. -/
structure SbRes where
  ctx   : CoreCtx
  flow  : Flow := .step
  sw    : List (Nat × Word) := []
  rpt   : Nat := 0
  clear : Nat := 0
  reti  : Bool := false
  ended : Bool := false
  branch : Bool := false
  deriving DecidableEq, Repr

def sbRun (c : Core) (mag : Nat) (sb : SbOp) : Except Nat SbRes :=
  let x := c.ctx
  let tracked := { x with maxmag := Nat.max x.maxmag mag }
  match sb with
  | .nop => .ok { ctx := tracked }
  | .sca w (.alu d a b) =>
    let vb := match b with
      | .reg r => c.sReg r.val
      | .imm v => BitVec.ofInt 32 v
    .ok { ctx := tracked, sw := [(d.val, Config.scalarAlu w (c.sReg a.val) vb)] }
  | .sca _ (.br t) => .ok { ctx := tracked, flow := .jump t.toNat, branch := true }
  | .sca w (.brc g t) =>
    if Config.branchTaken w (c.sReg g.val) then .ok { ctx := tracked, flow := .jump t.toNat, branch := true } else .ok { ctx := tracked }
  | .sca _ (.call l t) =>
    .ok { ctx := tracked, flow := .jump t.toNat, sw := [(l.val, BitVec.ofNat 32 ((x.pc + 1) % 4096))], branch := true }
  | .sca _ (.ret l) => .ok { ctx := tracked, flow := .jump ((c.sReg l.val).toNat % 4096), branch := true }
  | .rpt src n =>
    let count := if src then (c.sReg n).toNat % 8192 else n
    if 4096 < count then .error 4
    else if count = 0 then .ok { ctx := tracked, flow := .skip 2 }
    else
      match c.bundle (x.pc + 1) with
      | none => .error 1
      | some b => if b.repeatable then .ok { ctx := tracked, rpt := count } else .error 1
  | .loop src len rot n =>
    let count := if src then (c.sReg n).toNat % 65536 else n
    if !bodyOk c x.pc len then .error 1
    else if 4 ≤ x.loops.length then .error 5
    else if count = 0 then .ok { ctx := tracked, flow := .skip (len + 1) }
    else
      .ok { ctx := { tracked with loops := { count := count, start := (x.pc + 1) % 4096, last := (x.pc + len) % 4096, rot := rot } :: x.loops },
            flow := .jump ((x.pc + 1) % 4096) }
  | .setscale src n => .ok { ctx := { tracked with scale := if src then Nat.min 24 (c.sReg n).toNat else n } }
  | .setbfp bfp head => .ok { ctx := { x with bfp := bfp, head := head, maxmag := mag } }
  | .blkend wr d =>
    .ok { ctx := { x with scale := if x.bfp then nextScale x.maxmag x.head else x.scale, maxmag := mag },
          sw := if wr then [(d, BitVec.ofNat 32 x.scale)] else [] }
  | .waitev _ => .ok { ctx := tracked }
  | .clrev m => .ok { ctx := tracked, clear := m }
  | .reti => .ok { ctx := tracked, reti := true }
  | .halt => .ok { ctx := tracked, ended := true }

/-- Move on after a bundle. A LOOP enters its body by a jump that leaves the loop stack alone. -/
def advance (pc : Nat) (f : Flow) (branch : Bool) (x : CoreCtx) : CoreCtx :=
  match f with
  | .step => loopEnd 4 pc x
  | .skip n => { x with pc := (pc + n) % 4096 }
  | .jump t => { x with pc := t, loops := if branch then dropLoops t x.loops else x.loops }
  | .hold => x

/-- What issuing a bundle answers: the core, EVP bits cleared, whether an accumulator wrapped, cycles taken, whether the program ended. -/
structure Issued where
  core  : Core
  clear : Nat := 0
  aovf  : Bool := false
  cycles : Nat := 1
  ended : Bool := false
  waiting : Bool := false
  /-- Addresses and lengths of its stores. -/
  stores : List (Nat × Nat) := []
  deriving DecidableEq, Repr

/-- Apply the writes of a bundle. -/
def applyFx (c : Core) (fx : Fx) : Core :=
  let c1 := fx.vw.foldl (fun t w => t.setV w.1 w.2) c
  let c2 := fx.aw.foldl (fun t w => t.setA w.1 w.2) c1
  let c3 := fx.sw.foldl (fun t w => t.setS w.1 w.2) c2
  fx.mw.foldl (fun t w => dmemStore t w.1 w.2) c3

/-- The mask of a WAITEV in the bundle. -/
def waitMask : SbOp → Option Nat
  | .waitev m => some m
  | _ => none

/-- The context after a bundle whose SB slot answered r. A repeated bundle stays until its count is used up (R132). -/
def ctxAfter (c : Core) (r : SbRes) : CoreCtx × Nat :=
  if r.rpt ≠ 0 then ({ r.ctx with pc := (c.ctx.pc + 1) % 4096 }, r.rpt)
  else if 1 < c.rpt then (r.ctx, c.rpt - 1)
  else (advance c.ctx.pc r.flow r.branch r.ctx, 0)

/-- Issue the bundle at PC with events EVP pending: the fault code of Table CLO-8, or what it does (R123). -/
def issue (c : Core) (evp : Nat) : Except Nat Issued :=
  match c.bundle c.ctx.pc with
  | none => .error 1
  | some b =>
    if !b.legal then .error 1
    else
      match waitMask b.sb with
      | some m =>
        if Nat.land evp m = 0 then .ok { core := { c with wait := some m }, cycles := 0, waiting := true }
        else finish { c with wait := none } b
      | none => finish c b
where
  /-- Every source has been read from `c`; then every slot writes. -/
  finish (c : Core) (b : Bundle) : Except Nat Issued :=
    match memFx c b.mem, sbRun c (Nat.max (movaMag c b.va) (movaMag c b.vb)) b.sb with
    | .error e, _ => .error e
    | _, .error e => .error e
    | .ok fx, .ok r =>
      let sums := accSums c b
      let fx1 := { fx with vw := fx.vw ++ vecVw c b.va ++ vecVw c b.vb, aw := fx.aw ++ sums, sw := fx.sw ++ r.sw }
      let c1 := applyFx c fx1
      let (x, n) := ctxAfter c r
      let c2 := if r.reti then { c1 with ctx := c.shadow, handler := false, rpt := 0 } else { c1 with ctx := x, rpt := n }
      .ok { core := c2, clear := r.clear, aovf := sums.any fun p => p.2.any outOf40, cycles := fx.cycles + (if r.branch then 2 else 0),
            ended := r.ended, stores := fx.mw.map fun w => (w.1, w.2.length) }

/-- A core starts at an entry bundle (R558): RRB 0, empty loop stack, SCALE 0, BFP 0, no handler active. -/
def Core.start (c : Core) (entry : Nat) : Core :=
  { c with ctx := { pc := entry, maxmag := 0 }, handler := false, rpt := 0, wait := none, stopping := false, halting := false }

end Sys2Proof.Machine
end

