-- ==== Sys2Proof/Machine/Hold.lean ====
section
/-! DEFINITION. The hold of a tile's stream context: when rows issue, and to which path (R192-R194). -/

namespace Sys2Proof.Machine

def segRows : List NavSeg → Nat
  | [] => 0
  | x :: xs => x.count + segRows xs

/-- The first n rows of a list of runs, and the rest. -/
def segTake : Nat → List NavSeg → List NavSeg × List NavSeg
  | _, [] => ([], [])
  | n, x :: xs =>
    if n = 0 then ([], x :: xs)
    else if x.count ≤ n then let r := segTake (n - x.count) xs; (x :: r.1, r.2)
    else ([{ x with count := n }], { x with row := x.row + n, count := x.count - n } :: xs)

/-- One issue: up to 256 of the oldest held rows, to the MVP in MVP mode or in AUTO mode below the threshold (R192, R194). -/
def issueOne (h : NavHdr) (c : NavCtx) : NavCtx :=
  let r := segTake 256 c.held
  if r.1.isEmpty then c
  else { c with held := r.2, groups := c.groups ++ [⟨r.1, h.mode == 1 || (h.mode == 2 && segRows r.1 < h.mvpThr)⟩] }

/-- Held rows of a request up to the flushed serial. -/
def flushPending (c : NavCtx) : Bool := c.held.any fun x => x.ser ≤ c.flush

/-- Back-to-back issues until every flushed row has issued. -/
def issueFlush (h : NavHdr) : Nat → NavCtx → NavCtx
  | 0, c => c
  | n + 1, c => if flushPending c then issueFlush h n (issueOne h c) else c

/-- What the hold does now: a flush, or one issue at FILL_MIN. -/
def holdIssue (h : NavHdr) (c : NavCtx) : NavCtx :=
  if flushPending c then issueFlush h (segRows c.held + 1) c
  else if c.held.isEmpty then c
  else if h.mode = 1 then issueFlush h (segRows c.held + 1) { c with flush := (c.held.getLast?.map (·.ser)).getD 0 }
  else if h.fillMin ≤ segRows c.held then issueOne h c
  else c

/-- Every held row is to issue (the task ends, R192). -/
def holdFlush (c : NavCtx) : NavCtx := { c with flush := (c.held.getLast?.map (·.ser)).getD c.flush }

/-- The hold decides on its rows. -/
def holdAgain (c : NavCtx) : NavCtx :=
  match c.hdr with
  | none => c
  | some h => holdIssue h c

end Sys2Proof.Machine
end

