-- ==== Sys2Proof/Machine/Operands.lean ====
section
/-! DEFINITION. The operands a command reads from memory: ring descriptors (Tables HST-3, HST-4), stream descriptors (Tables STR-1 to
STR-4), matrix stream headers (Table NAV-4), slot plans (Tables FWL-1 to FWL-3, CLO-7), step blocks (Table SEQ-2), sequence entries
(Table SEQ-1). Every structure is its bytes; a field is read from them (R6), and reserved fields are ignored (R7). -/

namespace Sys2Proof.Machine

def bit (bs : List Byte) (a i : Nat) : Bool := bitOf (fieldAt bs a 1) i

/-! ### Ring descriptors -/

def dOpcode (d : List Byte) : Nat := fieldAt d 0 1
def dAudit (d : List Byte) : Bool := bit d 1 0
def dFence (d : List Byte) : Bool := bit d 1 1
def dNoint (d : List Byte) : Bool := bit d 1 2
def dTag (d : List Byte) : Nat := fieldAt d 2 2
def dItemId (d : List Byte) : Nat := fieldAt d 4 4

def tkImage (d : List Byte) : Nat := fieldAt d 8 2
def tkTiles (d : List Byte) : Nat := fieldAt d 10 1
def tkCores (d : List Byte) : Nat := fieldAt d 11 1
def tkParam (d : List Byte) : Nat := fieldAt d 16 8
def tkWset (d : List Byte) : Nat := fieldAt d 24 8
def tkInAddr (d : List Byte) : Nat := fieldAt d 32 8
def tkInLen (d : List Byte) : Nat := fieldAt d 40 4
def tkWsetLen (d : List Byte) : Nat := fieldAt d 44 4

/-- TASK fields in range: TILES 0-32, CORES 0-16, not both 0 (R325). -/
def taskFieldsOk (d : List Byte) : Bool := tkTiles d ≤ 32 && tkCores d ≤ 16 && !(tkTiles d == 0 && tkCores d == 0)

def stepBlockAddr (d : List Byte) : Nat := fieldAt d 8 8
def collPlan (d : List Byte) : Nat := fieldAt d 8 8
def collBuf (d : List Byte) : Nat := fieldAt d 16 8
def collLen (d : List Byte) : Nat := fieldAt d 24 8

def ftPort (d : List Byte) : Nat := bitsOf (fieldAt d 8 1) 2 0
def ftSwitched (d : List Byte) : Bool := bit d 8 7
def ftTs (d : List Byte) : Bool := bit d 9 0
def ftOneStep (d : List Byte) : Bool := bit d 9 1
def ftTsId (d : List Byte) : Nat := fieldAt d 10 2
def ftLen (d : List Byte) : Nat := fieldAt d 12 2
def ftQueue (d : List Byte) : Nat := bitsOf (fieldAt d 14 1) 2 0
def ftAddr (d : List Byte) : Nat := fieldAt d 16 8

def rpLen (d : List Byte) : Nat := fieldAt d 8 2
def rpAddr (d : List Byte) : Nat := fieldAt d 16 8

/-! ### Stream descriptors -/

def sdOpcode (d : List Byte) : Nat := fieldAt d 0 1
def sdEol (d : List Byte) : Bool := bit d 1 0
def sdSwap (d : List Byte) : Bool := bit d 1 1
def sdLayerEnd (d : List Byte) : Bool := bit d 1 2
def sdLast (d : List Byte) : Bool := bit d 1 3
def sdClose (d : List Byte) : Bool := bit d 1 4
def sdWaitPair (d : List Byte) : Nat := fieldAt d 2 1
def sdWaitEn (d : List Byte) : Bool := bit d 3 0
def sdSigPair (d : List Byte) : Nat := fieldAt d 4 1
def sdSigEn (d : List Byte) : Bool := bit d 5 0

/-- An endpoint space: 0 DEV, 1 TILE, 2 CORE. -/
def cpSrcSpace (d : List Byte) : Nat := bitsOf (fieldAt d 6 1) 1 0
def cpDstSpace (d : List Byte) : Nat := bitsOf (fieldAt d 6 1) 3 2
def cpMode (d : List Byte) : Nat := bitsOf (fieldAt d 7 1) 1 0
def cpSide (d : List Byte) : Bool := bit d 7 2
def cpCount (d : List Byte) : Nat := fieldAt d 8 4
def cpElem (d : List Byte) : Nat := fieldAt d 12 4
def cpSrcStride (d : List Byte) : Int := signed 32 (fieldAt d 16 4)
def cpDstStride (d : List Byte) : Int := signed 32 (fieldAt d 20 4)
def cpSrc (d : List Byte) : Nat := fieldAt d 32 8
def cpDst (d : List Byte) : Nat := fieldAt d 40 8
def cpIdx (d : List Byte) : Nat := fieldAt d 48 8

/-- TILE endpoint (Table STR-4). -/
def epTileRank (a : Nat) : Nat := bitsOf a 44 40
def epTileRole (a : Nat) : Nat := bitsOf a 32 32
def epTileOfs (a : Nat) : Nat := bitsOf a 20 0
/-- CORE endpoint. -/
def epCoreRank (a : Nat) : Nat := bitsOf a 43 40
def epCoreOfs (a : Nat) : Nat := bitsOf a 18 0

def hdTile (d : List Byte) : Nat := bitsOf (fieldAt d 6 1) 4 0
def hdBytes (d : List Byte) : List Byte := (d.drop 32).take 32
def rwTile (d : List Byte) : Nat := bitsOf (fieldAt d 6 1) 4 0
def rwCtx (d : List Byte) : Nat := bitsOf (fieldAt d 7 1) 2 0
def rwM (d : List Byte) : Nat := fieldAt d 8 4
def rwA (d : List Byte) : Nat := fieldAt d 12 4
def rwW (d : List Byte) : Nat := fieldAt d 16 4
def rwO (d : List Byte) : Nat := fieldAt d 20 4
def lkNext (d : List Byte) : Nat := fieldAt d 8 8

/-- An endpoint address in range of its space, as far as the descriptor alone tells (R223): ranks are checked against the placement. -/
def epOk (space a : Nat) (tiles cores : Nat) : Bool :=
  match space with
  | 0 => a < 2 ^ 48
  | 1 => epTileRank a < tiles
  | 2 => epCoreRank a < cores
  | _ => false

/-- COPY fields in range (R222, R223, R224). -/
def copyOk (d : List Byte) (tiles cores : Nat) : Bool :=
  let idxSpace := if cpSide d then cpDstSpace d else cpSrcSpace d
  let idxBase := if cpSide d then cpDst d else cpSrc d
  cpMode d < 3 && 1 ≤ cpCount d && cpCount d ≤ 2 ^ 24 &&
  4 ≤ cpElem d && cpElem d ≤ 65536 && cpElem d % 4 == 0 &&
  cpSrcStride d % 4 == 0 && cpDstStride d % 4 == 0 &&
  epOk (cpSrcSpace d) (cpSrc d) tiles cores && epOk (cpDstSpace d) (cpDst d) tiles cores &&
  (cpMode d == 0 || (cpIdx d % 4 == 0 && cpIdx d < 2 ^ 48)) &&
  (cpMode d != 2 || (idxSpace == 0 && idxBase % 65536 + cpElem d ≤ 65536))

/-! ### Matrix stream header (Table NAV-4) -/

def msCtx (h : List Byte) : Nat := bitsOf (fieldAt h 0 1) 2 0
def msMode (h : List Byte) : Nat := bitsOf (fieldAt h 1 1) 1 0
def msW (h : List Byte) : Nat := fieldAt h 2 1
def msA (h : List Byte) : Nat := fieldAt h 3 1
def msOut (h : List Byte) : Nat := fieldAt h 4 1
def msAzp (h : List Byte) : Nat := fieldAt h 5 1
def msOzp (h : List Byte) : Nat := fieldAt h 6 1
def msPerCh (h : List Byte) : Bool := bit h 7 0
def msFillMin (h : List Byte) : Nat := fieldAt h 8 2
def msFillTimeout (h : List Byte) : Nat := fieldAt h 10 2
def msMvpThr (h : List Byte) : Nat := fieldAt h 12 2
def msK (h : List Byte) : Nat := fieldAt h 16 4
def msN (h : List Byte) : Nat := fieldAt h 20 4
def msMult (h : List Byte) : Nat := fieldAt h 24 8

/-- Rows of Table NAV-1 by format codes: the two FP8 layouts mix. -/
def fmtPairOk (w a : Nat) : Bool :=
  (w == 0 && a == 0) || ((w == 1 || w == 2) && (a == 1 || a == 2)) || ((w == 3 || w == 4) && a == 3)

/-- The integer path is the one that uses UINT8 activations. -/
def intPath (a : Nat) : Bool := a == 3

/-- R178, R186, R191. The three hold fields bind only while the Nave is at the expert level (R195). -/
def headerOk (h : List Byte) (expert : Bool) : Bool :=
  msMode h < 3 && fmtPairOk (msW h) (msA h) && msOut h < 6 &&
  (if intPath (msA h) then msOut h != 0 && msOut h != 2 && msOut h != 3 else msOut h != 4) &&
  1 ≤ msK h && msK h ≤ (if intPath (msA h) then 65536 else 2 ^ 24) && 1 ≤ msN h && msN h ≤ 2 ^ 24 &&
  msMult h % 4 == 0 && msMult h < 2 ^ 48 &&
  (!expert || (1 ≤ msFillMin h && msFillMin h ≤ 256 && 1 ≤ msMvpThr h && msMvpThr h ≤ 256))

/-! ### Slot plans (Tables FWL-1 to FWL-3, CLO-7) -/

def plVersion (h : List Byte) : Nat := fieldAt h 0 2
def plCell (h : List Byte) : Nat := fieldAt h 2 1
def plStages (h : List Byte) : Nat := fieldAt h 3 1
def plItems (h : List Byte) : Nat := fieldAt h 4 2
def plCmp (h : List Byte) : Nat := bitsOf (fieldAt h 6 1) 3 0
def plStageAddr (h : List Byte) : Nat := fieldAt h 8 8
def plItemAddr (h : List Byte) : Nat := fieldAt h 16 8

def sgWord (e : List Byte) : Nat := fieldAt e 0 4
def sgCmp (e : List Byte) : Nat := bitsOf (sgWord e) 3 0
def sgDeadline (e : List Byte) : Bool := bitOf (sgWord e) 4
def sgValid (e : List Byte) : Bool := bitOf (sgWord e) 5
def sgCores (e : List Byte) : Nat := bitsOf (sgWord e) 31 16
def sgKind (e : List Byte) : Nat := fieldAt e 8 1
def sgTask (e : List Byte) : Nat := fieldAt e 10 2
def sgTiles (e : List Byte) : Nat := fieldAt e 12 4

def itId (e : List Byte) : Nat := fieldAt e 0 4
def itSeq (e : List Byte) : Nat := bitsOf (fieldAt e 4 4) 19 0
def itDropLate (e : List Byte) : Bool := bit e 8 0
def itNoSpec (e : List Byte) : Bool := bit e 8 1
def itLayers (e : List Byte) : Nat := fieldAt e 9 1
def itEstSym (e : List Byte) : Nat := fieldAt e 10 1
def itGran (e : List Byte) : Nat := fieldAt e 11 1
def itPrbStart (e : List Byte) : Nat := fieldAt e 12 2
def itPrbCnt (e : List Byte) : Nat := fieldAt e 14 2
def itDmrs (e : List Byte) : Nat := bitsOf (fieldAt e 16 2) 13 0
def itData (e : List Byte) : Nat := bitsOf (fieldAt e 18 2) 13 0
def itBlocks (e : List Byte) : Nat := fieldAt e 20 2
def itRing (e : List Byte) : Nat := bitsOf (fieldAt e 22 1) 2 0
/-- The function its completion goes to. -/
def itFunc (e : List Byte) : Nat := if bit e 23 4 then 16 else bitsOf (fieldAt e 23 1) 3 0

/-- The plan header is valid for a cell (R150, R151). -/
def planHeaderOk (h : List Byte) (cell : Nat) : Bool :=
  plVersion h == 1 && plCell h == cell && 1 ≤ plStages h && plStages h ≤ 16 && plItems h ≤ 1024 &&
  plStageAddr h % 32 == 0 && plStageAddr h < 2 ^ 48 && plItemAddr h % 64 == 0 && plItemAddr h < 2 ^ 48

/-- A stage entry is valid (Table FWL-2): a trigger word in use is a start, its KIND is defined. -/
def stageOk (e : List Byte) : Bool := !(sgValid e && sgDeadline e) && sgKind e < 5

/-- A UE item has no invalid field (R153). -/
def itemOk (e : List Byte) (tblSize : Nat) : Bool :=
  1 ≤ itLayers e && itLayers e ≤ 4 && itEstSym e < 14 && itGran e < 4 &&
  1 ≤ itPrbCnt e && itPrbCnt e ≤ 273 &&
  Nat.land (itDmrs e) (itData e) == 0 && bitOf (itDmrs e) (itEstSym e) &&
  1 ≤ itBlocks e && itBlocks e ≤ 64 && itSeq e < tblSize

/-! ### Step blocks (Table SEQ-2) and sequence entries (Table SEQ-1) -/

def sbVersion (b : List Byte) : Nat := fieldAt b 0 2
def sbCtx (b : List Byte) : Nat := bitsOf (fieldAt b 2 1) 5 0
def sbAppend (b : List Byte) : Bool := bit b 3 0
def sbN (b : List Byte) : Nat := fieldAt b 4 4
def sbSeq (b : List Byte) : Nat := fieldAt b 8 8
def sbLen (b : List Byte) : Nat := fieldAt b 16 8
def sbRes (b : List Byte) : Nat := fieldAt b 24 8
def sbIn (b : List Byte) : Nat := fieldAt b 32 8
def sbOut (b : List Byte) : Nat := fieldAt b 40 8
def sbInRow (b : List Byte) : Nat := fieldAt b 48 2
def sbOutRow (b : List Byte) : Nat := fieldAt b 50 2
def sbTask (b : List Byte) : Nat := fieldAt b 52 4
def sbRows (b : List Byte) : Nat := fieldAt b 56 4

/-- Fields of a step block in range. -/
def stepBlockOk (b : List Byte) : Bool :=
  sbVersion b == 1 && 1 ≤ sbN b && sbN b ≤ 65536 && 1 ≤ sbRows b && sbRows b ≤ 2 ^ 24 &&
  sbLen b % 8 == 0 && sbRes b % 8 == 0 &&
  [sbSeq b, sbLen b, sbRes b, sbIn b, sbOut b].all (· < 2 ^ 48)

def seqLen (e : List Byte) : Nat := fieldAt e 0 4
def seqState (e : List Byte) : Nat := fieldAt e 4 1
def seqGroup (e : List Byte) : Nat := bitsOf (fieldAt e 5 1) 5 0
def seqFull (e : List Byte) : Bool := bit e 6 0
def seqBase (e : List Byte) : Nat := fieldAt e 8 8
def seqCap (e : List Byte) : Nat := fieldAt e 16 4
def seqCtx (e : List Byte) : Nat := bitsOf (fieldAt e 20 1) 5 0
def seqBound (e : List Byte) : Bool := bit e 20 7
def seqLast (e : List Byte) : Nat := fieldAt e 24 4

/-- Replace `n` bytes of a structure at byte `a`. -/
def putField (bs : List Byte) (a n v : Nat) : List Byte := bs.take a ++ leBytes n v ++ bs.drop (a + n)

end Sys2Proof.Machine
end

