-- ==== Sys2Proof/Machine/Translate.lean ====
section
/-! DEFINITION. Device memory and translation (08_memory_translation): physical accesses with poison, self-refresh and address
checks, the four-level walk, the translation caches, and accesses by device virtual address. -/

namespace Sys2Proof.Machine

/-- How an access fails: a status of Table SCP-3, a reason code, and for a translation fault its address and level. -/
structure AccErr where
  status : Nat
  reason : Nat := 0
  level  : Nat := 0
  addr   : Nat := 0
  frame  : Bool := false
  deriving DecidableEq, Repr

/-! ### Physical memory -/

/-- 128 GiB (R249). -/
def hbmSize : Nat := 2 ^ 37

/-- The stack of a physical address (R249). -/
def stackOf (pa : Nat) : Nat := 4 * bitsOf pa 36 36 + bitsOf pa 9 8

def isPoisoned (s : State) (block : Nat) : Bool := Tab.get (fun _ => false) s.mem.poison block

def setPoison (block : Nat) (b : Bool) (s : State) : State :=
  { s with mem := { s.mem with poison := Tab.set (fun _ => false) s.mem.poison block b } }

/-- Stacks 4-7 are in self-refresh, or about to be (R251, R511). -/
def upperOff (s : State) : Bool := s.mem.upperDenied || s.fld R.MEM_STAT F.MEM_STAT_SELFREF != 0

/-- The checks every physical access meets: the address, and a stack in self-refresh (R250, R251). -/
def physCheck (s : State) (pa n : Nat) : Option AccErr :=
  if hbmSize < pa + n || hbmSize ≤ pa then some { status := 5, reason := 5, addr := pa }
  else if upperOff s && hbmSize / 2 < pa + n then some { status := 11, addr := pa }
  else none

/-- The first poisoned block among `count` from `block` up. -/
def firstPoison (s : State) : Nat → Nat → Option Nat
  | _, 0 => none
  | b, n + 1 => if isPoisoned s b then some b else firstPoison s (b + 1) n

/-- The 32-byte blocks an access of n bytes at pa covers. -/
def blockSpan (pa n : Nat) : Nat := if n = 0 then 0 else (pa + n - 1) / 32 + 1 - pa / 32

/-- Read device memory. A poisoned block delivers no data (R254). -/
def physRead (s : State) (pa n : Nat) : Except AccErr (List Byte) :=
  match physCheck s pa n with
  | some e => .error e
  | none =>
    match firstPoison s (pa / 32) (blockSpan pa n) with
    | some b => .error { status := 4, addr := 32 * b }
    | none => .ok (s.hbm.read pa n)

/-- Store within one block: a whole block clears its poison, a part of a poisoned block is not written (R254, R557). -/
def blockWrite (pa : Nat) (bs : List Byte) (s : State) : Except AccErr State :=
  if bs.length = 32 then .ok (setPoison (pa / 32) false { s with hbm := s.hbm.write pa bs })
  else if isPoisoned s (pa / 32) then .error { status := 4, addr := pa }
  else .ok { s with hbm := s.hbm.write pa bs }

/-- Store block by block; the first part that fails ends the store. The state holds what landed. -/
def physStore : Nat → Nat → List Byte → State → State × Option AccErr
  | 0, _, _, s => (s, none)
  | fuel + 1, pa, bs, s =>
    if bs.isEmpty then (s, none)
    else
      let n := 32 - pa % 32
      match blockWrite pa (bs.take n) s with
      | .error e => (s, some e)
      | .ok s1 => physStore fuel (pa + n) (bs.drop n) s1

/-- Write device memory: the state with what landed, and how it failed. -/
def physWrite (pa : Nat) (bs : List Byte) (s : State) : State × Option AccErr :=
  match physCheck s pa bs.length with
  | some e => (s, some e)
  | none => physStore (bs.length + 1) pa bs s

/-! ### Windows -/

def windowBase (s : State) (v w : Nat) : Nat := s.pair (R.MMU_VI_WIN_BASE_LO v w) (R.MMU_VI_WIN_BASE_HI v w)
def windowLimit (s : State) (v w : Nat) : Nat := s.pair (R.MMU_VI_WIN_LIMIT_LO v w) (R.MMU_VI_WIN_LIMIT_HI v w)

/-- Is a physical address inside one of a VI's windows (R273)? -/
def inWindow (s : State) (v pa : Nat) : Bool :=
  (List.range 4).any fun w =>
    windowBase s v w ≤ windowLimit s v w && windowBase s v w ≤ pa && pa < windowLimit s v w + 0x10000

/-- Is a physical address inside the shadow pool (R155)? -/
def inPool (s : State) (pa : Nat) : Bool :=
  let base := s.pair R.FWL_SHADOW_BASE_LO R.FWL_SHADOW_BASE_HI
  base ≤ pa && pa < base + 0x10000 * s.fld R.FWL_SHADOW_SIZE F.FWL_SHADOW_SIZE_BLOCKS

/-- The window check of a space; the PF space has none (R269). The shadow pool lies outside every VI's window (R155). -/
def windowOk (s : State) (space pa : Nat) : Bool := space ≥ 16 || (inWindow s space pa && !inPool s pa)

/-! ### The walk (R270-R272) -/

/-- What a translation answers: the entry to cache. -/
structure WalkRes where
  ent   : TlbEnt
  level : Nat
  deriving DecidableEq, Repr

/-- Checks 1 and 2 of R272 on a table address. -/
def tableCheck (s : State) (space pa level : Nat) : Option AccErr :=
  if hbmSize ≤ pa then some { status := 5, reason := 5, level := level }
  else if !windowOk s space pa then some { status := 5, reason := 3, level := level }
  else none

/-- The index of a level (Table MEM-3). -/
def levelIndex (va level : Nat) : Nat :=
  match level with
  | 0 => bitsOf va 47 39
  | 1 => bitsOf va 38 30
  | 2 => bitsOf va 29 21
  | _ => bitsOf va 20 16

/-- log2 of the alignment of what an entry names: the next table, or its page. -/
def nameAlign (level : Nat) (leaf : Bool) : Nat :=
  if leaf then (if level = 2 then 21 else 16) else (if level = 2 then 8 else 12)

/-- Checks 3 and 4 of R272 on an entry. -/
def entryCheck (e level : Nat) : Option AccErr :=
  let leaf := bitOf e 1
  let addr := e / 256 * 256
  if !bitOf e 0 then some { status := 5, reason := 1, level := level }
  else if (leaf && level < 2) || (!leaf && level = 3) || bitsOf e 7 6 != 0 || (!leaf && bitsOf e 5 2 != 0) ||
      addr % 2 ^ nameAlign level leaf != 0 then some { status := 5, reason := 2, level := level }
  else none

/-- Walk from the table at `pa` of a level down to a leaf. -/
def walkFrom (s : State) (space va : Nat) : Nat → Nat → Nat → (used : List (Nat × Nat) := []) → Except AccErr WalkRes
  | 0, level, _, _ => .error { status := 5, reason := 2, level := level }
  | fuel + 1, level, table, used =>
    match tableCheck s space table level with
    | some e => .error e
    | none =>
      match physRead s (table + 8 * levelIndex va level) 8 with
      | .error e => .error { e with level := level }
      | .ok bs =>
        let e := leNat bs
        match entryCheck e level with
        | some err => .error err
        | none =>
          if bitOf e 1 then
            let bits := if level = 2 then 21 else 16
            .ok { ent := { va := va / 2 ^ bits * 2 ^ bits, bits := bits, pa := e / 256 * 256, r := bitOf e 2, w := bitOf e 3,
                           host := bitOf e 4, noalloc := bitOf e 5,
                           used := (table + 8 * levelIndex va level, e) :: used }, level := level }
          else walkFrom s space va fuel (level + 1) (e / 256 * 256) ((table + 8 * levelIndex va level, e) :: used)

/-- The root of a space (R269). -/
def spaceRoot (s : State) (space : Nat) : Nat :=
  if space = 16 then s.pair R.MMU_PF_ROOT_LO R.MMU_PF_ROOT_HI else s.pair (R.MMU_VI_ROOT_LO space) (R.MMU_VI_ROOT_HI space)

/-- The level of a cached page. -/
def leafLevel (bits : Nat) : Nat := if bits = 21 then 2 else 3

/-- Does an access of n bytes at pa lie in stacks 4-7 while they answer none (R251)? -/
def darkAt (s : State) (pa n : Nat) : Bool := upperOff s && pa < hbmSize && hbmSize / 2 < pa + n

/-- The page address and permission checks of R272, on the first and last byte of an access within the page. A denied access is
POWER_DENIED whatever else it fails (R11). -/
def pageCheck (s : State) (space : Nat) (e : TlbEnt) (va n : Nat) (write : Bool) : Except AccErr Nat :=
  let a := e.pa + va % 2 ^ e.bits
  let lvl := leafLevel e.bits
  if !e.host && darkAt s a n then .error { status := 11, addr := a }
  else if !e.host && (hbmSize ≤ e.pa) then .error { status := 5, reason := 5, level := lvl }
  else if !e.host && !(windowOk s space a && windowOk s space (a + n - 1)) then .error { status := 5, reason := 3, level := lvl }
  else if (write && !e.w) || (!write && !e.r) then .error { status := 5, reason := 4, level := lvl }
  else .ok a

def State.tlbOf (s : State) (space : Nat) : List TlbEnt := Tab.get (fun _ => []) s.mem.tlb space

def State.setTlb (s : State) (space : Nat) (l : List TlbEnt) : State :=
  { s with mem := { s.mem with tlb := Tab.set (fun _ => []) s.mem.tlb space l } }

def tlbHit (va : Nat) (e : TlbEnt) : Bool := va / 2 ^ e.bits * 2 ^ e.bits == e.va

/-- Has no entry that a cached translation used been changed (R276)? -/
def tlbCurrent (s : State) (e : TlbEnt) : Bool := e.used.all fun u => leNat (s.hbm.read u.1 8) == u.2

/-- Walk, and cache what the walk finds, 512 entries, least recently used out first (R275). -/
def walkIn (space va : Nat) (l : List TlbEnt) (s : State) : State × Except AccErr TlbEnt :=
  match walkFrom s space va 4 0 (spaceRoot s space) with
  | .error e => (s.setTlb space l, .error e)
  | .ok r => (s.setTlb space ((r.ent :: l).take 512), .ok r.ent)

/-- The entry of an address: from the translation cache, or by a walk (R275). While a page-table entry that a cached translation
used has changed, the access uses the old or the new translation: which one is free (R276). -/
def lookup (space va : Nat) (s : State) : State × Except AccErr TlbEnt :=
  match (s.tlbOf space).find? (tlbHit va) with
  | some e =>
    let rest := (s.tlbOf space).filter (· != e)
    if tlbCurrent s e then (s.setTlb space (e :: rest), .ok e)
    else
      let d := s.draw
      if Config.newWalk d.1 then walkIn space va rest d.2 else (d.2.setTlb space (e :: rest), .ok e)
  | none => walkIn space va (s.tlbOf space) s

/-- Translate an access of n bytes at va that lies within one 64 KiB page. -/
def translate (space va0 n : Nat) (write : Bool) (s : State) : State × Except AccErr (TlbEnt × Nat) :=
  let va := va0 % 2 ^ 48
  if !s.flag R.MMU_CTL F.MMU_CTL_EN then (s, .error { status := 5, reason := 1, level := 0, addr := va })
  else
    match lookup space va s with
    | (s1, .error e) => (s1, .error { e with addr := if e.status = 5 then va else e.addr })
    | (s1, .ok ent) =>
      match pageCheck s1 space ent va n write with
      | .error e => (s1, .error { e with addr := va })
      | .ok a => (s1, .ok (ent, a))

/-- The check of a FRAME access: stacks that answer no access, then the address and the space's windows (R11, R224, R250, R286). -/
def frameOk (s : State) (space pa n : Nat) : Option AccErr :=
  if darkAt s pa n then some { status := 11, addr := pa }
  else if hbmSize < pa + n then some { status := 5, reason := 5, addr := pa, frame := true }
  else if windowOk s space pa && windowOk s space (pa + n - 1) then none
  else some { status := 5, reason := 3, addr := pa, frame := true }

/-! ### Reporting a fault (R277) -/

/-- Record a translation fault of a space: the first stands in FAULT_INFO, every one counts and raises MMU_FAULT. -/
def recordFault (space : Nat) (agent : Byte) (e : AccErr) (s : State) : State :=
  let info := R.MMU_FAULT_INFO space
  let s1 :=
    if s.flag info F.MMU_FAULT_INFO_VALID then s
    else
      (s.setPair (R.MMU_FAULT_VA_LO space) (R.MMU_FAULT_VA_HI space) e.addr).setReg info
        (BitVec.ofNat 32 (e.reason + 16 * e.level + 64 * e.frame.toNat + 256 * agent.toNat + 65536))
  let s2 := s1.addSat (R.MMU_FAULT_CNT space) F.MMU_FAULT_CNT_CNT 1
  eventVi 0x0072 space (space + 256 * e.reason + 4096 * e.level) s2

/-- Report a failed access: a translation fault is recorded, any other failure is the item's alone. -/
def noteErr (space : Nat) (agent : Byte) (e : AccErr) (s : State) : State :=
  if e.status = 5 then recordFault space agent e s else s

/-! ### Accesses by device virtual address -/

/-- The failure of a host read that gets no data (R274): reason 1, HOST. -/
def hostErr : AccErr := { status := 4, reason := 1 }

/-- Read within one page. -/
def pageRead (space va n : Nat) (s : State) : State × Except AccErr (List Byte) :=
  match translate space va n false s with
  | (s1, .error e) => (s1, .error e)
  | (s1, .ok (ent, a)) =>
    if ent.host then
      if s1.host.link then (s1, .ok (s1.hostMem.read (a % 2 ^ 64) n)) else (s1, .error hostErr)
    else (s1, physRead s1 a n)

/-- Write within one page. -/
def pageWrite (space va : Nat) (bs : List Byte) (s : State) : State × Option AccErr :=
  match translate space va bs.length true s with
  | (s1, .error e) => (s1, some e)
  | (s1, .ok (ent, a)) => if ent.host then (hostWrite a bs s1, none) else physWrite a bs s1

/-- Bytes left in the 64 KiB page of an address. -/
def pageLeft (va : Nat) : Nat := 0x10000 - va % 0x10000

def vaReadFrom (space : Nat) : Nat → Nat → Nat → State → State × Except AccErr (List Byte)
  | 0, _, _, s => (s, .ok [])
  | fuel + 1, va, n, s =>
    if n = 0 then (s, .ok [])
    else
      let k := Nat.min n (pageLeft va)
      match pageRead space va k s with
      | (s1, .error e) => (s1, .error e)
      | (s1, .ok bs) =>
        match vaReadFrom space fuel (va + k) (n - k) s1 with
        | (s2, .error e) => (s2, .error e)
        | (s2, .ok rest) => (s2, .ok (bs ++ rest))

/-- Read n bytes at a device virtual address of a space. -/
def vaRead (space va n : Nat) (s : State) : State × Except AccErr (List Byte) := vaReadFrom space (n / 0x10000 + 2) va n s

def vaWriteFrom (space : Nat) : Nat → Nat → List Byte → State → State × Option AccErr
  | 0, _, _, s => (s, none)
  | fuel + 1, va, bs, s =>
    if bs.isEmpty then (s, none)
    else
      let k := Nat.min bs.length (pageLeft va)
      match pageWrite space va (bs.take k) s with
      | (s1, some e) => (s1, some e)
      | (s1, none) => vaWriteFrom space fuel (va + k) (bs.drop k) s1

/-- Write bytes at a device virtual address of a space: what landed, and how it failed. -/
def vaWrite (space va : Nat) (bs : List Byte) (s : State) : State × Option AccErr :=
  vaWriteFrom space (bs.length / 0x10000 + 2) va bs s

/-- A device-internal write whose failure only reports a fault (a status table, a ring in device memory). -/
def deviceWrite (space va : Nat) (bs : List Byte) (s : State) : State :=
  match vaWrite space va bs s with
  | (s1, none) => s1
  | (s1, some e) => noteErr space (Config.agentCode 0 0) e s1

/-- Forget a space's translations. -/
def clearTlb (space : Nat) (s : State) : State := s.setTlb space []

end Sys2Proof.Machine
end

