-- ==== Sys2Proof/Machine/Units.lean ====
section
/-! DEFINITION. Units and ring items: accessors, recording an item's outcomes, letting units go (R211, R326, R457-R461). -/

namespace Sys2Proof.Machine

/-! ### Units -/

def State.tile (s : State) (t : Nat) : Tile := Tab.get (fun _ => {}) s.nav t
def State.setTile (s : State) (t : Nat) (x : Tile) : State := { s with nav := Tab.set (fun _ => {}) s.nav t x }
def State.core (s : State) (c : Nat) : Core := Tab.get (fun _ => {}) s.clo c
def State.setCore (s : State) (c : Nat) (x : Core) : State := { s with clo := Tab.set (fun _ => {}) s.clo c x }
def State.chan (s : State) (c : Nat) : Chan := Tab.get (fun _ => {}) s.se.chans c
def State.setChan (s : State) (c : Nat) (x : Chan) : State :=
  { s with se := { s.se with chans := Tab.set (fun _ => {}) s.se.chans c x } }
def State.sem (s : State) (p : Nat) : Sem := Tab.get (fun _ => {}) s.se.sems p
def State.setSem (s : State) (p : Nat) (x : Sem) : State :=
  { s with se := { s.se with sems := Tab.set (fun _ => {}) s.se.sems p x } }
def State.unit (s : State) (kind i : Nat) : UnitSt := Tab.get (fun _ => {}) s.units (32 * kind + i)
def State.setUnit (s : State) (kind i : Nat) (x : UnitSt) : State :=
  { s with units := Tab.set (fun _ => {}) s.units (32 * kind + i) x }

def kTile : Nat := 1
def kCore : Nat := 2
def kChan : Nat := 3
def kMmu : Nat := 4
def kSpoke : Nat := 5
def kFh : Nat := 6
def kEngine : Nat := 7
def kStack : Nat := 8

def tileFused (s : State) (t : Nat) : Bool := bitOf (s.reg R.GLB_TILEMAP).toNat t
/-- Enabled and powered by management and by the profile. -/
def tileUp (s : State) (t : Nat) : Bool :=
  tileFused s t && (s.unit kTile t).eff == 0 && !(s.unit kTile t).draining
/-- Not yet disabled: a tile that finishes its current item still serves accesses (R226, Table FLT-5). -/
def tileOpen (s : State) (t : Nat) : Bool := tileFused s t && (s.unit kTile t).eff == 0
def coreOpen (s : State) (c : Nat) : Bool := (s.unit kCore c).eff == 0
def engineUp (s : State) (e : Nat) : Bool := (s.unit kEngine e).eff == 0 && !(s.unit kEngine e).draining
def coreUp (s : State) (c : Nat) : Bool := (s.unit kCore c).eff == 0 && !(s.unit kCore c).draining

def tileState (s : State) (t : Nat) : Nat := s.fld (R.NAV_STAT t) F.NAV_STAT_STATE
def setTileState (t st : Nat) (s : State) : State := s.setFld (R.NAV_STAT t) F.NAV_STAT_STATE st
def coreState (s : State) (c : Nat) : Nat := s.fld (R.CLO_STAT c) F.CLO_STAT_STATE
def setCoreState (c st : Nat) (s : State) : State := s.setFld (R.CLO_STAT c) F.CLO_STAT_STATE st

/-- Tile states of Table NAV-9. -/
def nvIdle : Nat := 1
def nvBusy : Nat := 2
def nvYielding : Nat := 3
def nvSpilling : Nat := 4
def nvLent : Nat := 5
def nvRestoring : Nat := 6
def nvFaulted : Nat := 7

/-- May the tile work on a context? Ring work holds while the tile is pre-empted (R208). -/
def mayRun (s : State) (t : Nat) (c : NavCtx) : Bool :=
  tileState s t == nvBusy || tileState s t == nvIdle || (tileState s t == nvLent && !c.ring)

/-- Core states of Table CLO-10. -/
def cReset : Nat := 0
def cRunning : Nat := 1
def cHalted : Nat := 2
def cFaulted : Nat := 3

def rtTile (s : State) (t : Nat) : Bool := bitOf (s.reg R.GLB_NAV_RT).toNat t
def rtCore (s : State) (c : Nat) : Bool := bitOf (s.reg R.GLB_CLO_RT).toNat c
/-- Effectively pre-emptible (R206, R266). -/
def preEff (s : State) (t : Nat) : Bool := bitOf (s.reg R.MEM_STAT_PRE_EFF).toNat t

def tileIdle (s : State) (t : Nat) : Bool := tileState s t == nvIdle && (s.tile t).slot.isNone && !(s.tile t).zeroing

def coreIdle (s : State) (c : Nat) : Bool :=
  (coreState s c == cReset || coreState s c == cHalted) && (s.core c).item.isNone && !(s.core c).zeroing

/-! ### Items -/

def itemOf (s : State) (id : Nat) : Option RItem := s.host.items.find? (·.id == id)

def setItems (l : List RItem) (s : State) : State := { s with host := { s.host with items := l } }

def updItem (id : Nat) (f : RItem → RItem) (s : State) : State :=
  setItems (s.host.items.map fun it => if it.id = id then f it else it) s

/-- Record an outcome of an item. -/
def addOutcome (id status detail : Nat) (s : State) : State :=
  updItem id (fun it => { it with outcomes := it.outcomes ++ [(status, detail)] }) s

def markStarted (id : Nat) (s : State) : State := updItem id (fun it => { it with started := true }) s

def markStartedOpt (id : Option Nat) (s : State) : State :=
  match id with
  | none => s
  | some i => markStarted i s

/-! ### Letting units go -/

def Tile.ctx (x : Tile) (k : Nat) : NavCtx := Tab.get (fun _ => {}) x.ctxs k
def Tile.setCtx (x : Tile) (k : Nat) (c : NavCtx) : Tile := { x with ctxs := Tab.set (fun _ => {}) x.ctxs k c }

/-- NAV_STRs_STAT and NAV_STRs_AGE of a context (Table NAV-9). -/
def showCtx (t k : Nat) (s : State) : State :=
  let x := s.tile t
  let c := x.ctx k
  let age := match c.held with
    | [] => 0
    | h :: _ => Nat.min 65535 (x.cycles - h.cycle)
  let mode := match c.hdr with
    | none => 0
    | some h => h.mode
  (s.setReg (R.NAV_STR_STAT t k) (F.NAV_STR_STAT_OPEN.put (F.NAV_STR_STAT_MODE.put (F.NAV_STR_STAT_HELD.put 0
    (Nat.min 511 (segRows c.held))) mode) c.hdr.isSome.toNat)).setReg (R.NAV_STR_AGE t k) (BitVec.ofNat 32 age)

def showTile (t : Nat) (s : State) : State := (List.range 8).foldl (fun s k => showCtx t k s) s

/-- A tile's ring work is over: its contexts close, its spilled copy is released (R211). A pre-empted tile stays with slot work. -/
def releaseTile (t : Nat) (s : State) : State :=
  let x := s.tile t
  let s1 := showTile t (s.setTile t { x with ctxs := x.ctxs.filter (fun e => !e.2.ring),
                                             work := x.work.filter (fun w => !(x.ctx w.1).ring), item := none, copy := none,
                                             swaps := [], later := [], engine := none })
  let st := tileState s t
  if st = nvBusy ∨ st = nvRestoring then setTileState t nvIdle s1
  else if st = nvYielding ∨ st = nvSpilling then setTileState t nvLent s1
  else s1

/-- A core stops at its bundle boundary and goes idle (R461): RESET, EN = 0. -/
def stopCoreUnit (c : Nat) (s : State) : State :=
  let x := s.core c
  let s1 := s.setCore c { x with item := none, wait := none, stopping := false, halting := false }
  if coreState s c = cFaulted then s1
  else setCoreState c cReset (s1.setFlag (R.CLO_CTL c) F.CLO_CTL_EN false)

def chanState (s : State) (c : Nat) : Nat := s.fld (R.SE_CH_STAT (c / 8) (c % 8)) F.SE_CH_STAT_STATE
def setChanState (c st : Nat) (s : State) : State := s.setFld (R.SE_CH_STAT (c / 8) (c % 8)) F.SE_CH_STAT_STATE st

/-- Take a channel out of every pair's waiters. -/
def dropWaiter (agent : Nat) (s : State) : State :=
  (List.range 256).foldl (fun s p => s.setSem p { s.sem p with waiters := (s.sem p).waiters.filter (·.1 != agent) }) s

/-- A channel's stream item is over with a status: the channel is IDLE, its swaps that are due are cancelled. -/
def idleChan (c status : Nat) (s : State) : State :=
  let s0 := { s with spk := { s.spk with steps := s.spk.steps.filter (·.chan != c) } }
  let s1 := dropWaiter c (s0.setChan c {})
  let st := R.SE_CH_STAT (c / 8) (c % 8)
  ((setChanState c 0 s1).setFld st F.SE_CH_STAT_STATUS status).setFld st F.SE_CH_STAT_SWAP_PEND 0

/-- Stop a stream item that has not ended, without an outcome of its own. -/
def stopChan (c status : Nat) (s : State) : State :=
  (List.range 32).foldl (fun s t => s.setTile t { s.tile t with swaps := (s.tile t).swaps.filter (· != c) }) (idleChan c status s)

/-- The item with the bytes its unfinished streams have written added to its own (R329). -/
def withChanBytes (s : State) (it : RItem) : RItem :=
  { it with bytes := ((it.chans.filter fun c => !it.chansDone.contains c).map fun c =>
      (s.reg (R.SE_CH_BYTES (c / 8) (c % 8))).toNat).foldl (· + ·) it.bytes }

/-- Every other unit of a task stops (R461). -/
def stopUnits (it : RItem) (s : State) : State :=
  let s1 := (it.chans.filter fun c => !it.chansDone.contains c).foldl (fun s c => stopChan c stAborted s) s
  let s2 := ((it.cores.getD []).filter fun c => !it.coresDone.contains c).foldl (fun s c => stopCoreUnit c s) s1
  (it.tiles.getD []).foldl (fun s t => releaseTile t s) s2

end Sys2Proof.Machine
end

