-- ==== Sys2Proof/Machine/Port.lean ====
section
/-! DEFINITION. Spoke ports: their registers, flits, and handing a message to a port's queue (R393, R397, R400, R412). -/

namespace Sys2Proof.Machine

def State.port (s : State) (p : Nat) : SpkPort := Tab.get (fun _ => {}) s.spk.ports p
def State.setPort (s : State) (p : Nat) (x : SpkPort) : State :=
  { s with spk := { s.spk with ports := Tab.set (fun _ => {}) s.spk.ports p x } }

/-- LSTATE and DSTATE codes of Table SPK-11. -/
def lDown : Nat := 0
def lTraining : Nat := 1
def lUp : Nat := 2
def lActive : Nat := 3
def lMiscabled : Nat := 4
def lFailed : Nat := 5

def dOff : Nat := 0
def dHello : Nat := 1
def dWheel : Nat := 2
def dSeat : Nat := 3
def dHub : Nat := 4
def dDone : Nat := 5
def dAlone : Nat := 6
def dExcluded : Nat := 7

def linkState (s : State) (p : Nat) : Nat := s.fld (R.SPK_P_STAT p) F.SPK_P_STAT_LSTATE
def setLink (p st : Nat) (s : State) : State := s.setFld (R.SPK_P_STAT p) F.SPK_P_STAT_LSTATE st
def isActive (s : State) (p : Nat) : Bool := linkState s p == lActive
/-- The port carries frames. -/
def linkOpen (s : State) (p : Nat) : Bool := linkState s p == lUp || linkState s p == lActive || linkState s p == lMiscabled

def discState (s : State) : Nat := s.fld R.SPK_STAT F.SPK_STAT_DSTATE
def setDisc (st : Nat) (s : State) : State := s.setFld R.SPK_STAT F.SPK_STAT_DSTATE st
def ownNode (s : State) : Nat := s.fld R.SPK_STAT F.SPK_STAT_NODE
def ownUid (s : State) : DWord := BitVec.ofNat 64 (s.pair R.SPK_UID_LO R.SPK_UID_HI)
def puid (s : State) (p : Nat) : DWord := BitVec.ofNat 64 (s.pair (R.SPK_P_PUID_LO p) (R.SPK_P_PUID_HI p))

/-- Flits of a payload: 256 bytes each, the last padded with zeros (R393). -/
def dataFlits (cls : Nat) : Nat → List Byte → List SpkFlit
  | 0, _ => []
  | n + 1, bs => ⟨2, cls, fit 256 bs⟩ :: dataFlits cls n (bs.drop 256)

def flitCount (len : Nat) : Nat := (len + 255) / 256

/-- A head flit (Table SPK-2). -/
def headFlit (dst src cls plane collId msg len ofs check : Nat) : SpkFlit :=
  ⟨1, cls, fit 256 (leBytes 1 dst ++ leBytes 1 src ++ leBytes 1 (cls % 4 + 4 * plane) ++ [0] ++ leBytes 4 collId ++ leBytes 4 msg ++
    leBytes 4 len ++ leBytes 4 ofs ++ leBytes 8 check)⟩

/-- Put a message into a port's queue. -/
def spkEnqueue (p : Nat) (m : SpkTx) (s : State) : State :=
  let x := s.port p
  s.setPort p { x with queue := x.queue ++ [m] }

/-- A control flit is a whole message of TC0 (R393). -/
def sendControl (p code : Nat) (vals : List Nat) (s : State) : State :=
  spkEnqueue p { cls := 0, owner := (0, 0), flits := [⟨3, 0, fit 256 (leBytes 1 code ++ Config.controlBytes code vals)⟩] } s

/-- Active W-ports, and active uplinks. -/
def activeW (s : State) : List Nat := (List.range 15).filter (isActive s)
def activeU (s : State) : List Nat := [15, 16].filter (isActive s)

def sendAll (ports : List Nat) (code : Nat) (vals : List Nat) (s : State) : State :=
  ports.foldl (fun s p => sendControl p code vals s) s

/-- A TC1 message to the twin (R446-R448): on the bound W-port, kind as `Config.tc1Head` numbers it. -/
def sendTwin (kind : Nat) (payload : List Byte) (s : State) : State :=
  match s.cry.port with
  | none => s
  | some p =>
    let h := Config.tc1Head kind
    let dst := Nat.xor (ownNode s) 1
    let head : SpkFlit := ⟨1, 1, fit 256 (leBytes 1 dst ++ leBytes 1 (ownNode s) ++ [1, 0] ++ fit 8 h ++ leBytes 4 payload.length ++
      fit 12 (h.drop 8))⟩
    spkEnqueue p { cls := 1, owner := (0, 0), flits := head :: dataFlits 1 (flitCount payload.length) payload } s

end Sys2Proof.Machine
end

