-- ==== Sys2Proof/Machine/Pair.lean ====
section
/-! DEFINITION. The commit point: forming completions of ring and slot items, holding them for the twin, comparing records, halting the
pair, reception logs (R170-R172, R329, R438-R441, R448-R450, R455). -/

namespace Sys2Proof.Machine

/-! ### Twins -/

def twinState (s : State) : Nat := s.fld R.CRY_TWIN_STAT F.CRY_TWIN_STAT_STATE
def twinRunning (s : State) : Bool := twinState s == 2
def twinHalted (s : State) : Bool := twinState s == 4
def setTwin (st reason : Nat) (s : State) : State :=
  (s.setFld R.CRY_TWIN_STAT F.CRY_TWIN_STAT_STATE st).setFld R.CRY_TWIN_STAT F.CRY_TWIN_STAT_REASON reason

/-- KEY of a ring item (Table DET-6); a function is numbered as in R311. -/
def ringKeyOf (f q idx : Nat) : Nat :=
  2 * 2 ^ 60 + (if f = 16 then 0 else f + 1) * 2 ^ 55 + q % 8 * 2 ^ 52 + idx % 2 ^ 32

/-- KEY of a slot item. -/
def slotKeyOf (cell sec slot idx : Nat) : Nat :=
  2 ^ 60 + cell % 16 * 2 ^ 56 + sec % 2 ^ 22 * 2 ^ 34 + slot % 2 ^ 14 * 2 ^ 20 + idx % 1024

/-- DONE_LATE is compared as DONE (R448). -/
def cmpStatus (st : Nat) : Nat := if st = stLate then stDone else st

/-- The bytes of a compare record (Table DET-6). -/
def compareBytes (key status : Nat) (result : List Byte) (stages : List StageEntry) : List Byte :=
  leBytes 8 key ++ leBytes 1 status ++ leBytes 1 stages.length ++ List.replicate 6 0 ++ fit 32 result ++
  fit 160 (stages.flatMap fun e => [e.kind, e.index] ++ fit 8 e.digest)

/-! ### Formed completions -/

def setFormed (l : List Cpl) (s : State) : State := { s with host := { s.host with formed := l } }

def cplOf (s : State) (id : Nat) : Option Cpl := s.host.formed.find? (·.id == id)

def updCpl (id : Nat) (f : Cpl → Cpl) (s : State) : State :=
  setFormed (s.host.formed.map fun c => if c.id = id then f c else c) s

/-- A completion takes a further status that R11 may put first; PARTIAL as R14 allows, no digest unless R15 allows one. -/
def Cpl.worsen (c : Cpl) (status detail : Nat) (part : Bool) : Cpl :=
  if statusRank status < statusRank c.status then
    { c with status := status, detail := detail, wait := c.wait && digestAllowed status, digMode := if digestAllowed status then c.digMode else 0,
             batch := c.batch && digestAllowed status,
             flags := Nat.land c.flags 3 + (if digestAllowed status then Nat.land c.flags 4 else 0) +
               (if part && partialAllowed status then 8 else 0), log := if digestAllowed status then c.log else [] }
  else c

/-! ### Reception logs (R440, R441) -/

/-- Write a record of a multiple of 64 bytes into a cell's byte ring, wrapping at its end; without room it is dropped. -/
def writeLog (cell : Nat) (rec : List Byte) (s : State) : State :=
  let size := 0x10000 * s.fld (R.CRY_CELL_LOG_SIZE cell) F.CRY_CELL_LOG_SIZE_UNITS
  let pidx := (s.reg (R.CRY_CELL_LOG_PIDX cell)).toNat
  let used := idxSub pidx (s.reg (R.CRY_CELL_LOG_CIDX cell)).toNat
  let base := s.pair (R.CRY_CELL_LOG_BASE_LO cell) (R.CRY_CELL_LOG_BASE_HI cell)
  let drop (s : State) : State := s.addSat (R.CRY_CELL_LOG_DROP cell) F.CRY_CELL_LOG_DROP_CNT 1
  if size < used + rec.length then drop (s.setFlag R.CRY_ERR F.CRY_ERR_LOG_OVF true)
  else
    let ofs := pidx % size
    let first := vaWrite 16 (base + ofs) (rec.take (size - ofs)) s
    let r := match first with
      | (s1, none) => vaWrite 16 base (rec.drop (size - ofs)) s1
      | e => e
    match r with
    | (s1, none) => s1.setReg (R.CRY_CELL_LOG_PIDX cell) (BitVec.ofNat 32 (pidx + rec.length))
    | (s1, some e) => drop (noteErr 16 (Config.agentCode 0 0) e s1)

/-- The record as it stands when it is written: STATUS, CFLAGS, DIGEST. -/
def Cpl.logRecord (c : Cpl) : List Byte :=
  let r1 := putField (putField c.log 5 1 c.status) 6 1 c.flags
  if c.digest.isEmpty then r1
  else putField r1 7 1 (Nat.lor (fieldAt c.log 7 1) 4) |>.take 32 |>.append (fit 32 c.digest ++ r1.drop 64)

/-- Write the log record of a completion that is neither held nor waiting for its digest. -/
def flushLog (id : Nat) (s : State) : State :=
  match cplOf s id with
  | none => s
  | some c =>
    match c.slot with
    | none => s
    | some (cell, _, _) =>
      if c.log.isEmpty || c.held || c.wait then s
      else writeLog cell c.logRecord (updCpl id (fun x => { x with log := [] }) s)

/-! ### Slot items at their end -/

def State.cell (s : State) (c : Nat) : FwCell := Tab.get (fun _ => {}) s.fwl c
def State.setCell (s : State) (c : Nat) (x : FwCell) : State := { s with fwl := Tab.set (fun _ => {}) s.fwl c x }

def slotOf (s : State) (cell epoch : Nat) : Option FwSlot := (s.cell cell).slots.find? (·.epoch == epoch)
def updSlot (cell epoch : Nat) (f : FwSlot → FwSlot) (s : State) : State :=
  let x := s.cell cell
  s.setCell cell { x with slots := x.slots.map fun y => if y.epoch = epoch then f y else y }
def FwSlot.item (y : FwSlot) (idx : Nat) : Option FwItem := y.items.find? (·.idx == idx)
def updFw (cell epoch idx : Nat) (f : FwItem → FwItem) (s : State) : State :=
  updSlot cell epoch (fun y => { y with items := y.items.map fun it => if it.idx = idx then f it else it }) s

def fwLive (it : FwItem) : Bool := it.state != .done

/-- Give an item's shadow blocks back (R157). -/
def freeBlocks (cell epoch : Nat) (it : FwItem) (s : State) : State :=
  updFw cell epoch it.idx (fun x => { x with blocks := 0 })
    (s.setFld R.FWL_STAT F.FWL_STAT_USED (s.fld R.FWL_STAT F.FWL_STAT_USED - it.blocks))

/-- Let an item's tile go: a reserve tile is IDLE, a LENT tile stays lent. -/
def freeSlotTile (it : FwItem) (s : State) : State :=
  match it.tile with
  | none => s
  | some t =>
    let s1 := s.setTile t { s.tile t with slot := none, ctxs := (s.tile t).ctxs.filter (·.2.ring), work := (s.tile t).work.filter fun w => ((s.tile t).ctx w.1).ring }
    let s2 := showTile t s1
    if tileState s2 t = nvBusy ∧ (s2.tile t).item = none then setTileState t nvIdle s2 else s2

/-- Every item of a slot is done and none waits for its digest: SLOT_MISS, once, when items were late or dropped (R455). -/
def slotMiss (cell epoch : Nat) (s : State) : State :=
  match slotOf s cell epoch with
  | none => s
  | some y =>
    let waits := s.host.formed.any fun c => c.wait && (match c.slot with
      | some (k, e, _) => k == cell && e == epoch
      | none => false)
    if y.miss || waits || y.items.any fwLive || y.nLate + y.nDrop = 0 then s
    else
      event 0x00C2 16 (cell + 256 * Nat.min 255 y.nLate + 65536 * Nat.min 255 y.nDrop)
        (updSlot cell epoch (fun y => { y with miss := true }) s)

/-- The slot's items are done: the completion kept back carries the slot's digest (R438). -/
def batchEnd (cell epoch : Nat) (s : State) : State :=
  match slotOf s cell epoch with
  | none => s
  | some y =>
    if y.items.any fwLive then s
    else
      setFormed (s.host.formed.map fun c =>
        if c.batch && (c.slot.map fun p => (p.1, p.2.1)) == some (cell, epoch) then
          { c with batch := false, wait := true, flags := Nat.lor c.flags 4 }
        else c) s

/-- A slot is over once the strobe of slot n+2 has come, its items are done and their appends and digests are made. -/
def slotOver (s : State) (cell : Nat) (y : FwSlot) : Bool :=
  y.old && !y.items.any fwLive &&
  !s.host.formed.any fun c => (c.append || c.wait) && (c.slot.map fun p => (p.1, p.2.1)) == some (cell, y.epoch)

/-- Slots that are over go. -/
def dropSlots (cell : Nat) (s : State) : State :=
  let x := s.cell cell
  if x.slots.any (slotOver s cell) then s.setCell cell { x with slots := x.slots.filter fun y => !slotOver s cell y } else s

/-! ### Halting the pair (R449) -/

/-- A unit that a stage names: the lowest core of CORES, or the item's tile. -/
def stageEntry (it : FwItem) (out soft elements : List Byte) (e : List Byte) : StageEntry :=
  let core := ((List.range 16).find? (bitOf (sgCores e))).getD 0
  let meas := (it.meas.getD []).flatMap fun g => leBytes 2 g.re.toNat ++ leBytes 2 g.im.toNat
  let k := sgKind e
  let bytes := if k = 0 then elements else if k = 1 then meas else if k = 2 then soft else if k = 3 then out else []
  match it.tile with
  | some t => if k = 2 then ⟨1, BitVec.ofNat 8 t, (sha256 bytes).take 8⟩ else ⟨2, BitVec.ofNat 8 core, (sha256 bytes).take 8⟩
  | none => ⟨2, BitVec.ofNat 8 core, (sha256 bytes).take 8⟩

/-- The first stage entry that differs in digest; the last when none does. -/
def firstDiff (a b : List StageEntry) : Nat :=
  let d (l : List StageEntry) (i : Nat) : List Byte := (l[i]?.map fun e => fit 8 e.digest).getD (List.replicate 8 0)
  ((List.range a.length).find? fun i => d a i != d b i).getD (a.length - 1)

def recordDiv (key : Nat) (own other : List StageEntry) (s : State) : State :=
  let i := firstDiff own other
  let o := own[i]?.getD ⟨0, 0, []⟩
  let p := other[i]?.getD ⟨0, 0, []⟩
  let r := R.CRY_TWIN_DIV_STAGE
  ((((s.setPair R.CRY_TWIN_DIV_KEY_LO R.CRY_TWIN_DIV_KEY_HI key).setFld r F.CRY_TWIN_DIV_STAGE_ENTRY i).setFld r
    F.CRY_TWIN_DIV_STAGE_KIND o.kind.toNat).setFld r F.CRY_TWIN_DIV_STAGE_INDEX o.index.toNat).setFld r F.CRY_TWIN_DIV_STAGE_PARTNER p.index.toNat

/-- Add a completion to those waiting to be written. Under a fence of its function it reports to the RR with RESET (R470). -/
def addCpl (c : Cpl) (s : State) : State :=
  let id := s.host.nextId
  let reset := c.slot.isNone && s.host.fences.any (·.1 == c.func)
  { s with host := { s.host with formed := s.host.formed ++ [{ c with id := id, dnc := s.bel.dnc, reset := reset }], nextId := id + 1 } }

/-- The completion of a ring item with a status. -/
def ringCpl (s : State) (it : RItem) (o : Nat × Nat) : Cpl :=
  let st := o.1
  let unitForm := st == stMem || st == stTrans || st == stLink || st == stAborted
  let digest := it.audit != 0 && (dOpcode it.desc == 1 || dOpcode it.desc == 2) && digestAllowed st
  let unitOf : Nat × Nat := match it.tiles, it.cores with
    | some (t :: _), _ => (kTile, t)
    | _, some (c :: _) => (kCore, c)
    | _, _ => (0, 0)
  let running := twinRunning s
  { status := st, flags := cflags false false digest (partialAllowed st && (it.part || it.bytes != 0)), tag := dTag it.desc, itemId := dItemId it.desc,
    origin := dOpcode it.desc, sq := it.sq, sqIdx := it.idx, func := it.func, cq := it.cq,
    detail := if unitForm then o.2 else it.detail, bytes := if st = stFlushed then 0 else it.bytes,
    resv := it.resv, noint := dNoint it.desc, wait := digest, digMode := if digest then it.audit else 0,
    digP := sha256 it.image, digW := if dOpcode it.desc = 1 then (it.func, tkWset it.desc, tkWsetLen it.desc) else (it.func, 0, 0), digI := it.inputs,
    key := if running then ringKeyOf it.func it.sq it.idx else 0,
    result := if running then sha256 it.outs else [],
    stages := if running then [⟨BitVec.ofNat 8 unitOf.1, BitVec.ofNat 8 unitOf.2, (sha256 it.outs).take 8⟩] else [] }

/-- Let a ring item go with its completion. -/
def dropItem (it : RItem) (s : State) : State := setItems (s.host.items.filter (·.id != it.id)) s

/-- The completion of a slot item (R172, R329, R434-R440); `out`, `soft` and `elements` as its stages left them. -/
def slotCpl (s : State) (cell : Nat) (y : FwSlot) (it : FwItem) (status detail : Nat) (out soft elements : List Byte) : Cpl :=
  let ok := digestAllowed status
  let audited := ok && y.audit != 0
  let images := y.stages.flatMap fun e => Config.imageDigest 16 (sgTask e)
  let logOn := ok && s.flag (R.CRY_CELL_LOG_CTL cell) F.CRY_CELL_LOG_CTL_EN && !y.replay
  let samples := s.flag (R.CRY_CELL_LOG_CTL cell) F.CRY_CELL_LOG_CTL_SAMPLES
  let body := soft ++ (if samples then elements else [])
  let header := leBytes 4 (itId it.ent) ++ leBytes 1 cell ++ [0, 0] ++
    leBytes 1 (it.spec.toNat + 2 * it.committed.toNat + 8 * samples.toNat) ++ leBytes 4 (itSeq it.ent) ++ leBytes 4 it.snap ++
    leBytes 4 (y.sec % 2 ^ 18 * 16384 + y.slot % 16384) ++ leBytes 4 soft.length ++ leBytes 8 y.dnc ++ List.replicate 32 0
  let running := twinRunning s
  { status := status, flags := cflags it.committed it.replayed (audited && y.audit == 1) false, itemId := itId it.ent,
    origin := 0xF0 + cell, func := itFunc it.ent, cq := itRing it.ent, detail := detail, bytes := out.length,
    wait := audited && y.audit == 1, batch := audited && y.audit == 2, digMode := if audited then y.audit else 0, digP := sha256 images,
    digW := (16, s.pair (R.CRY_CELL_WSET_LO cell) (R.CRY_CELL_WSET_HI cell), (s.reg (R.CRY_CELL_WSET_LEN cell)).toNat),
    digI := if audited then sha256 elements else [], digSeq := itSeq it.ent, digS := it.snap,
    append := ok && it.active && !y.replay,
    key := if running then slotKeyOf cell y.sec y.slot it.idx else 0, result := if running then sha256 out else [],
    stages := if running then y.stages.map (stageEntry it out soft elements) else [], slot := some (cell, y.epoch, it.idx),
    log := if logOn then fit ((64 + body.length + 63) / 64 * 64) (header ++ body) else [] }

/-- A slot item is done: its blocks and tile are free, its slot counts a late or dropped end. -/
def endFw (cell epoch : Nat) (it : FwItem) (status : Nat) (s : State) : State :=
  let s1 := freeSlotTile it (freeBlocks cell epoch it s)
  let s2 := updFw cell epoch it.idx (fun x => { x with state := .done, tile := none }) s1
  updSlot cell epoch (fun y => { y with nLate := y.nLate + (if status = stLate then 1 else 0),
                                        nDrop := y.nDrop + (if status = stDropped then 1 else 0) }) s2

/-- The accepted items of every kind that have not started complete FLUSHED when the pair halts. -/
def flushRing (s : State) : State :=
  (s.host.items.filter fun it => !it.started).foldl (fun s it =>
    let s1 := dropItem it (stopUnits it s)
    addCpl (ringCpl s1 it (firstStatus (it.outcomes ++ [(stFlushed, 0)]))) s1) s

def flushCell (cell : Nat) (s : State) : State :=
  (s.cell cell).slots.foldl (fun s y => (y.items.filter fun it => fwLive it && !it.started).foldl (fun s it =>
    addCpl (slotCpl s cell y it stFlushed 0 [] [] []) (endFw cell y.epoch it stFlushed s)) s) s

/-- The pair halts: the cause is recorded, held completions become TWIN_MISMATCH unless R11 puts their own status first, nothing held is
released, and what has not started is flushed. -/
def haltPair (key reason : Nat) (own other : List StageEntry) (s : State) : State :=
  let s1 := event 0x00B0 16 reason (setTwin 4 reason (recordDiv key own other s))
  let s2 := setFormed (s1.host.formed.map fun c => if c.held then { c.worsen stTwin 0 false with held := false, append := false, log := [] } else c) s1
  (List.range 16).foldl (fun s c => flushCell c s) (purgeFrames (flushRing { s2 with cry := { s2.cry with partner := [] } }))

/-! ### Comparing (R448) -/

/-- Release a held completion. -/
def releaseCpl (id : Nat) (s : State) : State := flushLog id (updCpl id (fun c => { c with held := false }) s)

/-- Compare a held completion with the partner's record. -/
def compareWith (c : Cpl) (r : CompareRec) (s : State) : State :=
  if c.status = stDropped ∨ r.status.val = stDropped then releaseCpl c.id (s.addWrap R.CRY_TWIN_EXCL F.CRY_TWIN_EXCL_CNT 1)
  else if cmpStatus c.status = cmpStatus r.status.val ∧ c.result = fit 32 r.result then
    releaseCpl c.id (s.addWrap R.CRY_TWIN_CNT F.CRY_TWIN_CNT_CNT 1)
  else haltPair c.key (if cmpStatus c.status = cmpStatus r.status.val then 8 else 9) c.stages r.stages s

/-- Form a completion. While the pair runs, it sends its compare record and is held until the partner's. -/
def formCpl (c : Cpl) (s : State) : State :=
  let id := s.host.nextId
  let reset := c.slot.isNone && s.host.fences.any (·.1 == c.func)
  if twinRunning s && !reset then
    let s1 := sendTwin 1 (compareBytes c.key (cmpStatus c.status) c.result c.stages) (addCpl { c with held := true } s)
    match s1.cry.partner.find? fun r => r.key.toNat == c.key with
    | none => s1
    | some r =>
      compareWith { c with id := id } r { s1 with cry := { s1.cry with partner := s1.cry.partner.filter fun x => x.key != r.key } }
  else flushLog id (addCpl c s)

/-- Form the completion of a ring item from its outcomes, and let the item go (R326, R329). -/
def formItem (it : RItem) (s : State) : State :=
  formCpl (ringCpl s it (firstStatus (if twinHalted s then it.outcomes ++ [(stTwin, 0)] else it.outcomes))) (dropItem it s)

/-- A slot item becomes final with a status (R170). Under a PER_BATCH audit the slot's completion kept back so far goes without a
digest when a later one takes its place (R438). -/
def formSlot (cell : Nat) (y : FwSlot) (it : FwItem) (status detail : Nat) (out soft elements : List Byte) (s : State) : State :=
  let o := firstStatus ([(status, detail)] ++ (match it.lost with
    | some p => [(stLink, unitDetail kFh p 0)]
    | none => []) ++ (if twinHalted s then [(stTwin, 0)] else []))
  let st := o.1
  let c := slotCpl s cell y it st o.2 out soft elements
  let s1 := if c.batch then setFormed (s.host.formed.map fun x =>
      if x.batch && (x.slot.map fun p => (p.1, p.2.1)) == some (cell, y.epoch) then { x with batch := false } else x) s else s
  let s2 := if c.batch then updSlot cell y.epoch (fun z => { z with digs := z.digs ++ [(it.idx, c.digI)] }) s1 else s1
  slotMiss cell y.epoch (batchEnd cell y.epoch (formCpl c (endFw cell y.epoch it st s2)))

/-- End a live slot item with a status. -/
def finishSlot (cell epoch idx status detail : Nat) (s : State) : State :=
  match slotOf s cell epoch with
  | none => s
  | some y =>
    match y.item idx with
    | none => s
    | some it => if fwLive it then formSlot cell y it status detail [] [] [] s else s

end Sys2Proof.Machine
end

