-- ==== Sys2Proof/Machine/Items.lean ====
section
/-! DEFINITION. The life of a ring item: finishing and failing, the end of a task, and placing tasks on tiles and cores (R144, R192, R205,
R326, R461). -/

namespace Sys2Proof.Machine

/-- Finish an item with one more outcome. -/
def finish (id status detail : Nat) (s : State) : State :=
  let s1 := addOutcome id status detail s
  match itemOf s1 id with
  | none => s1
  | some it => formItem it s1

/-- A unit of a task failed: the outcome is recorded, the others stop, the task completes. -/
def failTask (id status detail : Nat) (s : State) : State :=
  let s1 := addOutcome id status detail s
  match itemOf s1 id with
  | none => s1
  | some it => formItem (withChanBytes s1 it) (stopUnits it s1)

/-! ### The end of a task -/

/-- No more rows can come (R192's "the task ends"): every core is done and every channel has begun its last descriptor. -/
def taskOver (s : State) (it : RItem) : Bool :=
  (it.cores.getD []).all it.coresDone.contains &&
  it.chans.all fun c => it.chansDone.contains c || (s.chan c).phase == .drain

/-- The tile has no row of its task held or issued. -/
def tileQuiet (x : Tile) : Bool := x.ctxs.all fun (_, c) => !c.ring || (c.reqs.isEmpty && c.held.isEmpty && c.groups.isEmpty)

/-- A hold decides now, unless its tile is pre-empted: then its rows stay held until the ring work resumes (R208). -/
def holdNow (s : State) (t : Nat) (c : NavCtx) : NavCtx := if mayRun s t c then holdAgain c else c

/-- Issue every held row of a tile's ring contexts. -/
def flushTile (t : Nat) (s : State) : State :=
  showTile t ((List.range 8).foldl (fun s k =>
    let x := s.tile t
    if (x.ctx k).ring then s.setTile t (x.setCtx k (holdNow s t (holdFlush (x.ctx k)))) else s) s)

/-- At the end of a task its held rows issue (R192). -/
def taskFlush (id : Nat) (s : State) : State :=
  match itemOf s id with
  | none => s
  | some it => if taskOver s it then (it.tiles.getD []).foldl (fun s t => flushTile t s) s else s

/-- A task whose streams, cores and tiles have all ended completes. -/
def taskSettle (id : Nat) (s : State) : State :=
  match itemOf s id with
  | none => s
  | some it =>
    if it.tiles.isSome && it.cores.isSome && it.chans.all it.chansDone.contains &&
        (it.cores.getD []).all it.coresDone.contains && (it.tiles.getD []).all (fun t => tileQuiet (s.tile t)) then
      formItem it ((it.tiles.getD []).foldl (fun s t => releaseTile t s) s)
    else s

/-- A core's program has ended (R115): its part of the task is done. -/
def coreEnded (c : Nat) (s : State) : State :=
  let x := s.core c
  match x.item with
  | none => s
  | some id =>
    taskSettle id (taskFlush id (updItem id (fun it => { it with coresDone := c :: it.coresDone }) (s.setCore c { x with item := none })))

/-! ### Placement (R144, R205) -/

/-- The lowest n of a list of units, if there are so many. -/
def lowest (n : Nat) (l : List Nat) : Option (List Nat) := if n ≤ l.length then some (l.take n) else none

def maskTiles (s : State) (f : Nat) : List Nat :=
  (List.range 32).filter fun t => bitOf (s.reg (R.VIS_TILEMASK (visPage f))).toNat t && tileFused s t && !rtTile s t
def maskCores (s : State) (f : Nat) : List Nat :=
  (List.range 16).filter fun c => bitOf (s.reg (R.VIS_COREMASK (visPage f))).toNat c && !rtCore s c

/-- An engine reserved for pre-emption (R217). -/
def preEngine (s : State) (e : Nat) : Bool := bitOf (s.fld R.GLB_NAV_PRE_SE F.GLB_NAV_PRE_SE_SE) e

/-- A channel free for a task: idle, without an item, on an engine that is up and not reserved. -/
def chanFree (s : State) (c : Nat) : Bool :=
  (s.chan c).phase == .idle && (s.chan c).item.isNone && !preEngine s (c / 8) && engineUp s (c / 8)

/-- Start a channel on a descriptor list (R219): a list address that is not 64-byte aligned is REJECTED, unread. -/
def chanStart (c addr : Nat) (item : Option Nat) (place : Option (List Nat × List Nat)) (s : State) : State :=
  let s1 := s.setChan c { phase := .fetch, cur := addr, item := item, place := place }
  ((setChanState c 1 s1).setReg (R.SE_CH_BYTES (c / 8) (c % 8)) 0).setReg (R.SE_CH_CUR (c / 8) (c % 8)) (BitVec.ofNat 32 addr)

/-- A placed task's stream items start, one for each list of its image on the lowest free channels; with SE_CTL.EN = 0 each
completes FLUSHED, unread (R219). -/
def startStreams (it : RItem) (s : State) : State :=
  if !s.flag R.SE_CTL F.SE_CTL_EN then
    if it.lists.isEmpty then s else addOutcome it.id stFlushed 0 s
  else
    let free := (List.range 192).filter (chanFree s)
    let pairs := List.zip free it.lists
    let place := some (it.tiles.getD [], it.cores.getD [])
    let own : Word := if it.func = 16 then 0x10 else BitVec.ofNat 32 it.func
    let s1 := updItem it.id (fun x => { x with chans := pairs.map (·.1) }) s
    pairs.foldl (fun s (c, a) => chanStart c a (some it.id) place (s.setReg (R.SE_CH_OWN (c / 8) (c % 8)) own)) s1

/-- The input region of an audited task is read when the task starts (R435); an unreadable one is that access's status. -/
def readInputs (it : RItem) (s : State) : State :=
  if it.audit = 0 then s
  else
    match vaRead it.func (tkInAddr it.desc) (tkInLen it.desc) s with
    | (s1, .ok bs) => updItem it.id (fun x => { x with inputs := sha256 bs }) s1
    | (s1, .error e) =>
      addOutcome it.id e.status (if e.status = stTrans then unitDetail kMmu 0 e.reason else unitDetail 0 0 e.reason)
        (noteErr it.func (Config.agentCode 0 0) e s1)

/-- Both placements are made: the task starts. -/
def taskStart (id : Nat) (s : State) : State :=
  match itemOf s id with
  | none => s
  | some it => if it.tiles.isSome && it.cores.isSome then taskSettle id (startStreams it (readInputs it s)) else s

/-- The channels a function owns through its running items; a COLLECTIVE takes two (R317, R415). -/
def ownedChans (s : State) (f : Nat) : Nat :=
  ((s.host.items.filter (·.func == f)).map fun it =>
    if dOpcode it.desc = 3 ∧ it.active then 2 else it.chans.length - it.chansDone.length).foldl (· + ·) 0

/-- The semaphore pairs a function's running tasks hold (R317). -/
def ownedPairs (s : State) (f : Nat) : Nat :=
  ((s.host.items.filter fun it => it.func == f && it.tiles.isSome && it.cores.isSome).map (·.pairs)).foldl (· + ·) 0

/-- Enough free channels for the lists of a task, and its channels and pairs within what the function's quota leaves (R317). -/
def chansReady (s : State) (it : RItem) : Bool :=
  it.lists.length ≤ ((List.range 192).filter (chanFree s)).length &&
  ownedChans s it.func + it.lists.length ≤ s.fld (R.VIS_QUOTA (visPage it.func)) F.VIS_QUOTA_CHANNELS &&
  ownedPairs s it.func + it.pairs ≤ s.fld (R.VIS_QUOTA (visPage it.func)) F.VIS_QUOTA_PAIRS

/-- A fenced item holds back every later item of its SQ until it starts, and starts after every earlier one has completed (R327). -/
def fenceClear (s : State) (it : RItem) : Bool :=
  let earlier := s.host.items.filter fun x => x.func == it.func && x.sq == it.sq && x.id < it.id
  let unwritten := s.host.formed.any fun c => c.func == it.func && c.sq == it.sq && c.origin < 0xF0 && c.sqIdx != it.idx
  !(earlier.any fun x => dFence x.desc && !(x.started || x.tiles.isSome || x.cores.isSome)) &&
  !(dFence it.desc && (!earlier.isEmpty || unwritten))

/-- The oldest task of a function that waits for units. -/
def waitingTask (s : State) (f : Nat) (wants : RItem → Bool) : Option RItem :=
  s.host.items.find? fun it => it.func == f && it.active && dOpcode it.desc == 1 && wants it

def placeTiles (f : Nat) (s : State) : State :=
  match waitingTask s f (·.tiles.isNone) with
  | none => s
  | some it =>
    match lowest it.tilesWant ((maskTiles s f).filter fun t => tileUp s t && tileIdle s t) with
    | none => s
    | some ts =>
      if fenceClear s it && chansReady s it then
        let own (t : Nat) (s : State) : State :=
          let s1 := s.setTile t { s.tile t with item := some it.id }
          ((setTileState t nvBusy s1).setFld (R.NAV_STAT t) F.NAV_STAT_OWNER (if f = 16 then 0 else f)).setFlag (R.NAV_STAT t)
            F.NAV_STAT_OWNER_PF (f == 16)
        taskStart it.id (ts.foldl (fun s t => own t s) (updItem it.id (fun x => { x with tiles := some ts }) s))
      else s

def placeCores (f : Nat) (s : State) : State :=
  match waitingTask s f (·.cores.isNone) with
  | none => s
  | some it =>
    match lowest it.coresWant ((maskCores s f).filter fun c => coreUp s c && coreIdle s c) with
    | none => s
    | some cs =>
      if fenceClear s it && chansReady s it then
        let own (c : Nat) (s : State) : State :=
          let entry := s.fld (R.CLO_ENTRY c) F.CLO_ENTRY_BUNDLE
          let s1 := s.setCore c { (s.core c).start entry with item := some it.id }
          setCoreState c cRunning (s1.setFlag (R.CLO_CTL c) F.CLO_CTL_EN true)
        taskStart it.id (cs.foldl (fun s c => own c s) (updItem it.id (fun x => { x with cores := some cs }) s))
      else s

def execTaskPlacement (f : Fin 17) (s : State) : Host.Outcome State Fault Refusal := .next (placeTiles f.val s)

def execCoreTaskPlacement (f : Fin 17) (s : State) : Host.Outcome State Fault Refusal := .next (placeCores f.val s)

end Sys2Proof.Machine
end

