-- ==== Sys2Proof/Machine/Chan.lean ====
section
/-! DEFINITION. Channels and semaphore pairs: signals, waits, the order of signals in a channel, the end of a stream item
(R219, R231-R236, R239-R243). -/

namespace Sys2Proof.Machine

/-! ### Semaphore pairs -/

def semFull (s : State) (p : Nat) : Nat := s.fld (R.SE_SEM_CNT p) F.SE_SEM_CNT_FULL
def semEmpty (s : State) (p : Nat) : Nat := s.fld (R.SE_SEM_CNT p) F.SE_SEM_CNT_EMPTY
def semProd (s : State) (p : Nat) : Nat := s.fld (R.SE_SEM_CFG p) F.SE_SEM_CFG_PROD
def semCons (s : State) (p : Nat) : Nat := s.fld (R.SE_SEM_CFG p) F.SE_SEM_CFG_CONS
def semDepth (s : State) (p : Nat) : Nat := s.fld (R.SE_SEM_CFG p) F.SE_SEM_CFG_DEPTH

/-- The function that owns a pair or a channel: VI in [3:0], PF in [4]. -/
def ownerOf (w : Word) : Nat := if bitOf w.toNat 4 then 16 else bitsOf w.toNat 3 0
def semOwner (s : State) (p : Nat) : Nat := ownerOf (s.reg (R.SE_SEM_OWN p))
def chanOwner (s : State) (c : Nat) : Nat := ownerOf (s.reg (R.SE_CH_OWN (c / 8) (c % 8)))

/-- A SIGNAL of one side: the producer raises FULL, the consumer EMPTY; beyond DEPTH it is discarded (R240, R242). -/
def semSignal (p : Nat) (consumer : Bool) (s : State) : State :=
  if semDepth s p < semFull s p + semEmpty s p + 1 then
    eventVi 0x0060 (semOwner s p) p (s.setFlag R.SE_ERR F.SE_ERR_SEM_OVF true)
  else if consumer then s.addWrap (R.SE_SEM_CNT p) F.SE_SEM_CNT_EMPTY 1
  else s.addWrap (R.SE_SEM_CNT p) F.SE_SEM_CNT_FULL 1

/-- A WAIT's counter: the consumer waits on FULL, the producer on EMPTY. -/
def semReady (s : State) (p : Nat) (consumer : Bool) : Bool := if consumer then 0 < semFull s p else 0 < semEmpty s p

def semTake (p : Nat) (consumer : Bool) (s : State) : State :=
  if consumer then s.setFld (R.SE_SEM_CNT p) F.SE_SEM_CNT_FULL (semFull s p - 1)
  else s.setFld (R.SE_SEM_CNT p) F.SE_SEM_CNT_EMPTY (semEmpty s p - 1)

/-- An agent may act on a pair for an owner: the pair is configured, the owners agree, the agent is one of its two (R241). -/
def semAllowed (s : State) (p agent owner : Nat) : Bool :=
  (s.sem p).conf && semOwner s p == owner && (semProd s p == agent || semCons s p == agent)

/-! ### Placement ranks (R223) -/

def tileOfRank (x : Chan) (r : Nat) : Nat :=
  match x.place with
  | none => r
  | some (ts, _) => ts.getD r 0
def coreOfRank (x : Chan) (r : Nat) : Nat :=
  match x.place with
  | none => r
  | some (_, cs) => cs.getD r 0
def tileRanks (x : Chan) : Nat :=
  match x.place with
  | none => 32
  | some (ts, _) => ts.length
def coreRanks (x : Chan) : Nat :=
  match x.place with
  | none => 16
  | some (_, cs) => cs.length

/-! ### Channels -/

def chStat (c : Nat) : Nat := R.SE_CH_STAT (c / 8) (c % 8)
def chBytes (c : Nat) : Nat := R.SE_CH_BYTES (c / 8) (c % 8)
def chHaz (c : Nat) : Nat := R.SE_CH_HAZ (c / 8) (c % 8)

def swapPend (s : State) (c : Nat) : Bool := s.flag (chStat c) F.SE_CH_STAT_SWAP_PEND

/-- A stream item ends with a status: its channel goes IDLE, and a ring item takes its bytes, PARTIAL and outcome (R219, R326). -/
def chanEnd (c status detail : Nat) (s : State) : State :=
  let bytes := (s.reg (chBytes c)).toNat
  let item := (s.chan c).item
  let s1 := if status = stDone then idleChan c status s else stopChan c status s
  match item with
  | none => s1
  | some id =>
    let s2 := updItem id (fun it => { it with bytes := it.bytes + bytes, part := it.part || (status != stDone && bytes != 0),
                                              chansDone := c :: it.chansDone }) s1
    if status = stDone then taskSettle id (taskFlush id s2) else failTask id status detail s2

/-- DETAIL of a failed access of a channel (R329, R277). -/
def accDetail (c : Nat) (e : AccErr) : Nat :=
  if e.status = stTrans then unitDetail kMmu 0 e.reason else if e.status = stMem then unitDetail kChan c e.reason else 0

/-- A stream item ends by a failed access. -/
def chanFail (c : Nat) (e : AccErr) (s : State) : State :=
  chanEnd c e.status (accDetail c e) (noteErr (chanOwner s c) (Config.agentCode kChan c) e s)

/-- Descriptors that are done signal in order; a SWAP becomes due then (R232, R236). -/
def chanSignals : Nat → Nat → State → State
  | 0, _, s => s
  | n + 1, c, s =>
    let x := s.chan c
    match x.outst with
    | [] => s
    | d :: ds =>
      if d.done then
        let s1 := s.setChan c { x with outst := ds, barrier := x.barrier && !ds.isEmpty }
        let s2 := match d.signal with
          | none => s1
          | some (p, side) => semSignal p side s1
        match d.swap with
        | none => chanSignals n c s2
        | some t => (s2.setTile t { s2.tile t with swaps := (s2.tile t).swaps ++ [c] }).setFlag (chStat c) F.SE_CH_STAT_SWAP_PEND true
      else s

/-- Signal what is due, and end the stream item when its last descriptor has signalled and no swap is pending. -/
def chanAdvance (c : Nat) (s : State) : State :=
  let s1 := chanSignals ((s.chan c).outst.length + 1) c s
  let x := s1.chan c
  if x.phase = .drain ∧ x.outst = [] ∧ swapPend s1 c = false then chanEnd c stDone 0 s1 else s1

/-- A descriptor's work is done. -/
def descDone (c did : Nat) (s : State) : State :=
  let x := s.chan c
  chanAdvance c (s.setChan c { x with outst := x.outst.map (fun d => if d.did = did then { d with done := true } else d) })

/-- The side of a pair a channel is on: the consumer, unless it is the producer. -/
def sideOf (s : State) (p c : Nat) : Bool := semProd s p != c

/-- A descriptor has begun: it joins the outstanding ones, and the channel goes on to the next at `next`, or drains after EOL. -/
def descBegun (c next : Nat) (done : Bool) (swap : Option Nat) (writes : Option (Nat × Nat × Nat))
    (reads : List (Nat × Nat × Nat)) (s : State) : State :=
  let x := s.chan c
  let sig := if sdSigEn x.desc then some (sdSigPair x.desc, sideOf s (sdSigPair x.desc) c) else none
  let eol := sdEol x.desc
  let ent : ChDesc := { did := x.did, signal := sig, swap := swap, done := done, writes := writes, reads := reads }
  let s1 := s.setChan c { x with phase := if eol then .drain else .fetch, cur := next, did := x.did + 1,
                                 outst := x.outst ++ [ent], barrier := x.barrier || sdLayerEnd x.desc }
  let s2 := setChanState c 1 s1
  let s3 := if eol then s2 else s2.setReg (R.SE_CH_CUR (c / 8) (c % 8)) (BitVec.ofNat 32 next)
  let s4 := chanAdvance c s3
  match (s4.chan c).item with
  | some id => if eol then taskFlush id s4 else s4
  | none => s4

/-! ### Swaps (R236-R238) -/

/-- Role A of the tile is free of passes, vectors and rows. -/
def roleFree (x : Tile) : Bool :=
  x.work.isNone && x.ctxs.all fun (_, c) => c.reqs.isEmpty && c.held.isEmpty && c.groups.isEmpty

end Sys2Proof.Machine
end

