-- ==== Sys2Proof/Machine/Float.lean ====
section
/-! DEFINITION. Binary floating point, exact and rounded once (R162, R185, R198-R202): every operation is formed exactly and
rounded to nearest with ties to even; subnormals are kept; the canonical NaN is written. -/

namespace Sys2Proof.Machine

/-- A floating-point value: ±m·2^e, an infinity, or a NaN. -/
inductive Fl where
  | fin (neg : Bool) (m : Nat) (e : Int)
  | inf (neg : Bool)
  | nan
  deriving DecidableEq, Repr

/-- A binary format: significand bits with the hidden one, the exponent of the lowest subnormal bit, the bits of infinity (or of
the first code beyond the largest number), the code an overflow gives, the canonical NaN, the sign bit. -/
structure FlFmt where
  prec : Nat
  lsb  : Int
  top  : Nat
  past : Nat
  nan  : Nat
  sign : Nat
  deriving DecidableEq, Repr

def fp32 : FlFmt := { prec := 24, lsb := -149, top := 0x7F800000, past := 0x7F800000, nan := 0x7FC00000, sign := 31 }
def bf16 : FlFmt := { prec := 8, lsb := -133, top := 0x7F80, past := 0x7F80, nan := 0x7FC0, sign := 15 }
def e4m3 : FlFmt := { prec := 4, lsb := -9, top := 0x7F, past := 0x7E, nan := 0x7F, sign := 7 }
def e5m2 : FlFmt := { prec := 3, lsb := -16, top := 0x7C, past := 0x7C, nan := 0x7E, sign := 7 }

/-- Read a code of a format. E4M3 has no infinity; its one NaN magnitude is 0x7F (R202). -/
def FlFmt.decode (f : FlFmt) (w : Nat) : Fl :=
  let mag := w % 2 ^ f.sign
  let neg := bitOf w f.sign
  let h := 2 ^ (f.prec - 1)
  if mag < h then .fin neg mag f.lsb
  else if mag < f.top then .fin neg (h + mag % h) (f.lsb + (mag / h : Nat) - 1)
  else if mag = f.top ∧ f.past = f.top then .inf neg
  else .nan

/-- Bits a number needs. -/
def bitLen : Nat → Nat → Nat
  | 0, _ => 0
  | fuel + 1, n => if n = 0 then 0 else bitLen fuel (n / 2) + 1

/-- n / 2^s to nearest, ties to even. -/
def shrEven (n s : Nat) : Nat :=
  let q := n / 2 ^ s
  let r := n % 2 ^ s
  if 2 * r < 2 ^ s then q else if 2 ^ s < 2 * r then q + 1 else q + q % 2

/-- Round a value to a format's code (R202). -/
def FlFmt.encode (f : FlFmt) : Fl → Nat
  | .nan => f.nan
  | .inf neg => f.past + (if neg then 2 ^ f.sign else 0)
  | .fin neg m e =>
    let s := if neg then 2 ^ f.sign else 0
    if m = 0 then s
    else
      let q : Int := max ((bitLen (m + 1) m : Nat) + e - f.prec) f.lsb
      let n := if q ≤ e then m * 2 ^ (e - q).toNat else shrEven m (q - e).toNat
      let bits := (q - f.lsb).toNat * 2 ^ (f.prec - 1) + n
      (if f.top ≤ bits then f.past else bits) + s

/-- The exact value, as a signed multiple of 2^e. -/
def flInt (neg : Bool) (m : Nat) : Int := if neg then -(m : Int) else m

def flNeg : Fl → Bool
  | .fin n _ _ => n
  | .inf n => n
  | .nan => false

/-- Exact sum. A zero sum is +0 unless both terms are -0. -/
def flAdd : Fl → Fl → Fl
  | .nan, _ => .nan
  | _, .nan => .nan
  | .inf a, .inf b => if a = b then .inf a else .nan
  | .inf a, _ => .inf a
  | _, .inf b => .inf b
  | .fin a m e, .fin b n g =>
    let lo := min e g
    let t := flInt a (m * 2 ^ (e - lo).toNat) + flInt b (n * 2 ^ (g - lo).toNat)
    if t = 0 then .fin (a && b) 0 lo else .fin (decide (t < 0)) t.natAbs lo

def flOpp : Fl → Fl
  | .fin a m e => .fin (!a) m e
  | .inf a => .inf (!a)
  | .nan => .nan

/-- Exact product. -/
def flMul : Fl → Fl → Fl
  | .nan, _ => .nan
  | _, .nan => .nan
  | .inf a, .inf b => .inf (a != b)
  | .inf a, .fin b n _ => if n = 0 then .nan else .inf (a != b)
  | .fin a m _, .inf b => if m = 0 then .nan else .inf (a != b)
  | .fin a m e, .fin b n g => .fin (a != b) (m * n) (e + g)

/-- FP32 operations on codes: exact, then rounded once. -/
def add32 (x y : Nat) : Nat := fp32.encode (flAdd (fp32.decode x) (fp32.decode y))
def sub32 (x y : Nat) : Nat := fp32.encode (flAdd (fp32.decode x) (flOpp (fp32.decode y)))
def mul32 (x y : Nat) : Nat := fp32.encode (flMul (fp32.decode x) (fp32.decode y))

def isFin : Fl → Bool
  | .fin _ _ _ => true
  | _ => false

/-- x ≤ y for finite codes. -/
def flLe : Fl → Fl → Bool
  | .fin a m e, .fin b n g =>
    let lo := min e g
    decide (flInt a (m * 2 ^ (e - lo).toNat) ≤ flInt b (n * 2 ^ (g - lo).toNat))
  | _, _ => false

/-- The FP32 code of an integer, rounded to nearest even. -/
def ofInt32 (i : Int) : Nat := fp32.encode (.fin (decide (i < 0)) i.natAbs 0)

/-- ⌊x + 1/2⌋ of a finite value; 0 otherwise. -/
def roundHalfUp : Fl → Int
  | .fin a m e =>
    let v := flInt a m
    if 0 ≤ e then v * 2 ^ e.toNat else (2 * v + 2 ^ (-e).toNat) / 2 ^ ((-e).toNat + 1)
  | _ => 0

/-- Is (n·2^q)^80 at most 10^(-t)? -/
def leTenth (t n : Nat) (q : Int) : Bool := n ^ 80 * 10 ^ t ≤ 2 ^ (80 * (-q)).toNat

/-- The largest n below 2^k, built bit by bit from bit k - 1, with n·2^q at most 10^(-t/80). -/
def rootBits (t : Nat) (q : Int) : Nat → Nat → Nat
  | 0, n => n
  | k + 1, n => rootBits t q k (if leTenth t (n + 2 ^ k) q then n + 2 ^ k else n)

/-- T of R163: the FP32 code nearest to 10^(thr/80), for thr from -320 to 0. -/
def thrFp32 (thr : Int) : Nat :=
  let t := (-thr).toNat
  let q : Int := -40
  let n := rootBits t q 41 0
  let l := bitLen 42 n
  -- n holds the 41-bit root; the 24-bit root and its half-way point follow from exact comparisons
  let g : Int := q + (l : Nat) - 24
  let m := rootBits t g 24 0
  let up := leTenth t (2 * m + 1) (g - 1)
  fp32.encode (.fin false (if up then m + 1 else m) g)

end Sys2Proof.Machine
end

