-- ==== Sys2Proof/Machine/Nave.lean ====
section
/-! DEFINITION. The Nave (06_nave_tiles): array passes, the matrix-vector path, quantisation, the hold, feeder queues, pre-emption
and lending, tile errors. -/

namespace Sys2Proof.Machine

/-! ### Formats and layouts (R177, R179, R181, R229, R559) -/

def weightBits (f : Nat) : Nat := if f = 0 then 16 else if f = 4 then 4 else 8
/-- Block depth D (Table NAV-1). -/
def blockDepth (f : Nat) : Nat := if f = 0 then 16 else 32
def blockBytes (f : Nat) : Nat := blockDepth f * 64 * weightBits f / 8
def outBytes (f : Nat) : Nat := if f = 0 ∨ f = 4 then 4 else if f = 1 then 2 else 1
def divUp (a b : Nat) : Nat := (a + b - 1) / b
def kBlocks (h : NavHdr) : Nat := divUp h.k (blockDepth h.wFmt)
def slices (h : NavHdr) : Nat := divUp h.n 64

def halfSize : Nat := 0x200000
/-- Where a role lies in the tile SRAM: NAV_STAT.ROLE is the physical half in role A (R176). -/
def roleBase (s : State) (t role : Nat) : Nat := (if s.fld (R.NAV_STAT t) F.NAV_STAT_ROLE = role then 0 else 1) * halfSize

/-- The code of weight (k, n): k within the block, n within the slice (R559). -/
def weightCode (m : Mem) (base f blk k n : Nat) : Nat :=
  let b := base + blk * blockBytes f
  if f = 0 then leNat (m.read (b + (k * 64 + n) * 2) 2)
  else if f = 4 then let v := (m.byte (b + k / 2 * 64 + n)).toNat; if k % 2 = 0 then v % 16 else v / 16
  else (m.byte (b + (k / 2 * 64 + n) * 2 + k % 2)).toNat

/-- The code of activation element k of block b of row m of a request of M rows (R181, R229). -/
def actCode (mem : Mem) (base f bigM b k m : Nat) : Nat :=
  let g := divUp bigM 32
  let row := if f = 0 then k else k / 2
  let e := base + ((b * g + m / 32) * 16 + row) * 64 + 2 * (m % 32)
  if f = 0 then leNat (mem.read e 2) else (mem.byte (e + k % 2)).toNat

def fmtOf (f : Nat) : FlFmt := if f = 0 then bf16 else if f = 1 then e4m3 else e5m2

/-! ### Sums (R184-R187, R190) -/

/-- A block's column sum on the floating-point path: each product rounded once, added in ascending K (R185). -/
def fpSum : List (Nat × Nat) → Option Nat → Nat
  | [], acc => acc.getD 0
  | (a, w) :: xs, none => fpSum xs (some (fp32.encode (flMul (fp32.decode a) (fp32.decode w))))
  | (a, w) :: xs, some s => fpSum xs (some (add32 s (fp32.encode (flMul (fp32.decode a) (fp32.decode w)))))

/-- The integer path: exact (R186, R197). -/
def intSum (zp : Nat) : List (Int × Int) → Int
  | [] => 0
  | (u, w) :: xs => (u - zp) * w + intSum zp xs

/-- A block's column sum for one row, as an accumulator word. Rows beyond K contribute nothing (R187). -/
def blockSum (h : NavHdr) (mem : Mem) (base : Nat) (q : NavReq) (row slice b n : Nat) : Word :=
  let d := blockDepth h.wFmt
  let ks := List.range (Nat.min d (h.k - b * d))
  let blk := slice * kBlocks h + b
  let w k := weightCode mem (base + q.wOfs) h.wFmt blk k n
  let a k := actCode mem (base + q.aOfs) h.aFmt q.m b k row
  if intPath h.aFmt then
    BitVec.ofInt 32 (intSum h.aZp (ks.map fun k => ((a k : Int), signed (weightBits h.wFmt) (w k))))
  else
    BitVec.ofNat 32 (fpSum (ks.map fun k =>
      (fp32.encode ((fmtOf h.aFmt).decode (a k)), fp32.encode ((fmtOf h.wFmt).decode (w k)))) none)

/-- Add a block's sum to the accumulator; the first block starts it (R184). -/
def accAdd (h : NavHdr) (b : Nat) (acc x : Word) : Word :=
  if b = 0 then x else if intPath h.aFmt then acc + x else BitVec.ofNat 32 (add32 acc.toNat x.toNat)

/-! ### Output conversion (R199-R202) -/

def clampByte (i : Int) : Nat := (clampInt 0 255 i).toNat

/-- R199. -/
def requantInt (acc : Int) (m zp : Nat) : Nat :=
  if m = 0 then clampByte zp
  else
    let mant : Int := 2 ^ 23 + m % 2 ^ 23
    let s := 150 - m / 2 ^ 23 % 256
    clampByte ((acc * mant + 2 ^ (s - 1)) / 2 ^ s + zp)

/-- R200's UINT8 on the floating-point path. -/
def requantFp (t zp : Nat) : Nat :=
  match fp32.decode t with
  | .nan => 0
  | .inf neg => if neg then 0 else 255
  | f => clampByte (roundHalfUp f + zp)

def narrow32 (f : FlFmt) (w : Nat) : Nat := f.encode (fp32.decode w)

/-- An accumulator word to an output code (R199, R200). -/
def outCode (h : NavHdr) (n : Nat) (acc : Word) : Nat :=
  let m := if h.mults.length ≤ 1 then h.mults.getD 0 0 else h.mults.getD n 0
  if intPath h.aFmt then
    if h.outFmt = 4 then acc.toNat
    else if h.outFmt = 5 then requantInt acc.toInt m h.outZp
    else narrow32 bf16 (mul32 (ofInt32 acc.toInt) m)
  else
    let t := mul32 acc.toNat m
    if h.outFmt = 0 then t
    else if h.outFmt = 1 then narrow32 bf16 t
    else if h.outFmt = 2 then narrow32 e4m3 t
    else if h.outFmt = 3 then narrow32 e5m2 t
    else requantFp t h.outZp

/-! ### Passes -/

/-- The rows of a group: request serial and row. -/
def groupRows (g : NavGroup) : List (Nat × Nat) := g.segs.flatMap fun x => (List.range x.count).map fun i => (x.ser, x.row + i)

def reqOf (c : NavCtx) (ser : Nat) : Option NavReq := c.reqs.find? (·.ser == ser)

def sliceCols (h : NavHdr) (slice : Nat) : List Nat := List.range (Nat.min 64 (h.n - slice * 64))

/-- One row of a pass: its column sums go to accumulator row i. -/
def passRow (h : NavHdr) (c : NavCtx) (mem : Mem) (base slice b : Nat) (acc : Tab Word) (e : (Nat × Nat) × Nat) : Tab Word :=
  match reqOf c e.1.1 with
  | none => acc
  | some q =>
    (sliceCols h slice).foldl (fun acc n =>
      let k := 64 * e.2 + n
      Tab.set (fun _ => 0) acc k (accAdd h b (Tab.get (fun _ => 0) acc k) (blockSum h mem base q e.1.2 slice b n))) acc

def passRows (h : NavHdr) (c : NavCtx) (mem : Mem) (base slice b : Nat) (g : NavGroup) (acc : Tab Word) : Tab Word :=
  (List.zip (groupRows g) (List.range 256)).foldl (passRow h c mem base slice b) acc

/-- Write a row's outputs of one slice (R229). -/
def outRow (h : NavHdr) (c : NavCtx) (base slice : Nat) (acc : Tab Word) (mem : Mem) (e : (Nat × Nat) × Nat) : Mem :=
  match reqOf c e.1.1 with
  | none => mem
  | some q =>
    let sz := outBytes h.outFmt
    mem.write (base + q.oOfs + (e.1.2 * h.n + slice * 64) * sz)
      ((sliceCols h slice).flatMap fun n => leBytes sz (outCode h (slice * 64 + n) (Tab.get (fun _ => 0) acc (64 * e.2 + n))))

def outRows (h : NavHdr) (c : NavCtx) (base slice : Nat) (acc : Tab Word) (g : NavGroup) (mem : Mem) : Mem :=
  (List.zip (groupRows g) (List.range 256)).foldl (outRow h c base slice acc) mem

/-- The work after a pass: the next block, the next slice, or none. -/
def nextWork (h : NavHdr) (k slice b : Nat) : Option (Nat × Nat × Nat) :=
  if b + 1 < kBlocks h then some (k, slice, b + 1) else if slice + 1 < slices h then some (k, slice + 1, 0) else none

/-- The requests that end when n rows of each run have finished. -/
def finishSegs (segs : List NavSeg) (reqs : List NavReq) : List NavReq :=
  segs.foldl (fun qs x => qs.map fun q => if q.ser = x.ser then { q with left := q.left - x.count } else q) reqs

/-- Rows of a context have finished: a request with none left is complete (R230), and one with CLOSE closes the context (R228). -/
def rowsFinished (t k : Nat) (segs : List NavSeg) (s : State) : State :=
  let x := s.tile t
  let c := x.ctx k
  let qs := finishSegs segs c.reqs
  let ended := qs.filter (·.left == 0)
  let closing := ended.any (·.close)
  let c1 := { c with reqs := qs.filter (·.left != 0) }
  let c2 := if closing then {} else c1
  let s1 := showTile t (s.setTile t (x.setCtx k c2))
  let s2 := ended.foldl (fun s q => descDone q.chan q.did s) s1
  match x.item with
  | none => s2
  | some id => taskSettle id s2

/-- The next pass of the array on a context: one weight block over the rows of the oldest issue (R180, R184). -/
def arrayPass (t k : Nat) (s : State) : State :=
  let x := s.tile t
  let c := x.ctx k
  match c.hdr, c.groups with
  | some h, g :: gs =>
    let w := x.work.getD (k, 0, 0)
    if mayRun s t c && !g.mvp && w.1 == k then
      let base := roleBase s t 0
      let acc := passRows h c x.sram base w.2.1 w.2.2 g x.acc
      let sliceDone := w.2.2 + 1 == kBlocks h
      let sram := if sliceDone then outRows h c base w.2.1 acc g x.sram else x.sram
      let nw := nextWork h k w.2.1 w.2.2
      let x1 := { x with acc := acc, sram := sram, work := nw, cycles := x.cycles + segRows g.segs + 16 }
      let s1 := (showTile t (s.setTile t x1)).addWrap (R.NAV_CNT_PASS t) F.NAV_CNT_PASS_CNT 1
      let s2 := match x.item with
        | none => s1
        | some id => if c.ring then markStarted id s1 else s1
      match nw with
      | some _ => s2
      | none => rowsFinished t k g.segs (s2.setTile t (x1.setCtx k { c with groups := gs }))
    else s
  | _, _ => s

def execArrayPass (tile : Fin 32) (ctx : Fin 8) (s : State) : Host.Outcome State Fault Refusal := .next (arrayPass tile.val ctx.val s)

/-- One output element on the MVP: the same products, blocks and order as the array (R190). -/
def rowAcc (h : NavHdr) (mem : Mem) (base : Nat) (q : NavReq) (row slice n : Nat) : Word :=
  (List.range (kBlocks h)).foldl (fun acc b => accAdd h b acc (blockSum h mem base q row slice b n)) 0

/-- A whole output row. -/
def mvpRow (h : NavHdr) (mem : Mem) (base : Nat) (q : NavReq) (row : Nat) : List Byte :=
  (List.range h.n).flatMap fun n => leBytes (outBytes h.outFmt) (outCode h n (rowAcc h mem base q row (n / 64) (n % 64)))

/-- The MVP processes the next vector of a context's oldest issue (R189, R193). -/
def mvpVector (t k : Nat) (s : State) : State :=
  let x := s.tile t
  let c := x.ctx k
  match c.hdr, c.groups with
  | some h, g :: gs =>
    if mayRun s t c && g.mvp then
      match g.segs with
      | [] => s.setTile t (x.setCtx k { c with groups := gs })
      | sg :: rest =>
        let base := roleBase s t 0
        let sram := match reqOf c sg.ser with
          | none => x.sram
          | some q => x.sram.write (base + q.oOfs + sg.row * h.n * outBytes h.outFmt) (mvpRow h x.sram base q sg.row)
        let segs := if sg.count ≤ 1 then rest else { sg with row := sg.row + 1, count := sg.count - 1 } :: rest
        let groups := if segs.isEmpty then gs else { g with segs := segs } :: gs
        let x1 := { x with sram := sram, cycles := x.cycles + 8 * kBlocks h * slices h }
        let s1 := (s.setTile t (x1.setCtx k { c with groups := groups })).addWrap (R.NAV_CNT_MVP t) F.NAV_CNT_MVP_CNT 1
        let s2 := match x.item with
          | none => s1
          | some id => if c.ring then markStarted id s1 else s1
        rowsFinished t k [{ sg with count := 1 }] s2
    else s
  | _, _ => s

def execMvpVector (tile : Fin 32) (ctx : Fin 8) (s : State) : Host.Outcome State Fault Refusal := .next (mvpVector tile.val ctx.val s)

/-- FILL_TIMEOUT has passed since the oldest held row arrived: one issue (R192). -/
def fillTimeout (t k : Nat) (s : State) : State :=
  let x := s.tile t
  let c := x.ctx k
  match c.hdr, c.held with
  | some h, old :: _ =>
    if mayRun s t c && h.fillTimeout != 0 then
      let x1 := { x with cycles := Nat.max x.cycles (old.cycle + h.fillTimeout) }
      showTile t (s.setTile t (x1.setCtx k (issueOne h c)))
    else s
  | _, _ => s

def execFillTimeout (tile : Fin 32) (ctx : Fin 8) (s : State) : Host.Outcome State Fault Refusal := .next (fillTimeout tile.val ctx.val s)

/-! ### Requests of rows (R192, R193, R228) -/

/-- A request reaches its context: its rows join the hold, a LAST request flushes it. -/
def postRows (t k : Nat) (q : NavReq) (s : State) : State :=
  let x := s.tile t
  let c := x.ctx k
  match c.hdr with
  | none => s
  | some _ =>
    let q1 := { q with ser := x.nextSer, left := q.m }
    let c1 := { c with reqs := c.reqs ++ [q1], held := c.held ++ [⟨x.nextSer, 0, q.m, x.cycles⟩],
                       flush := if q.last then x.nextSer else c.flush }
    showTile t (s.setTile t ({ x with nextSer := x.nextSer + 1 }.setCtx k (holdNow s t c1)))

/-- A request that finds a swap pending runs after it (R236). -/
def reachTile (t k : Nat) (q : NavReq) (s : State) : State :=
  let x := s.tile t
  if x.swaps.isEmpty then postRows t k q s else s.setTile t { x with later := x.later ++ [(k, q, x.swaps.length)] }

/-- Requests of a context on the tile or waiting for a swap (R228). -/
def queuedReqs (x : Tile) (k : Nat) : Nat := (x.ctx k).reqs.length + (x.later.filter fun p => p.1 == k).length

/-! ### Feeder queues (R181-R183) -/

/-- Requests served in one cycle: in order, at most four, from distinct banks, for queues below 8 entries. -/
def refill : Nat → List Nat → List (Nat × Nat) → Tab Nat → Tab Nat
  | 0, _, _, q => q
  | _, _, [], q => q
  | n + 1, used, (r, b) :: rs, q =>
    let level := Tab.get (fun _ => 0) q r
    if used.contains b || 8 ≤ level then refill (n + 1) used rs q
    else refill n (b :: used) rs (Tab.set (fun _ => 0) q r (level + 1))

/-- One cycle of the feeder: the array advances when every row that needs an element has one, else it holds and STALL counts;
entries whose last vector was taken leave their queue. -/
def feederCycle (t : Nat) (need spent : Nat) (reqs : List (Nat × Nat)) (s : State) : State :=
  let x := s.tile t
  let level r := Tab.get (fun _ => 0) x.queues r
  let advance := (List.range 16).all fun r => !bitOf need r || 0 < level r
  let q1 := if advance then
      (List.range 16).foldl (fun q r => if bitOf spent r && bitOf need r then Tab.set (fun _ => 0) q r (level r - 1) else q) x.queues
    else x.queues
  let s1 := s.setTile t { x with queues := refill 4 [] reqs q1 }
  if advance then s1 else s1.addSat (R.NAV_CNT_STALL t) F.NAV_CNT_STALL_CNT 1

def execFeederRefill (tile : Fin 32) (need spent : BitVec 16) (requests : List (Fin 16 × Fin 32)) (s : State) :
    Host.Outcome State Fault Refusal :=
  .next (feederCycle tile.val need.toNat spent.toNat (requests.map fun p => (p.1.val, p.2.val)) s)

/-! ### Pre-emption and lending (R208-R211, R215, Table NAV-7) -/

/-- A pre-emption request reaches an effectively pre-emptible tile. -/
def preempt (t : Nat) (s : State) : State :=
  let st := tileState s t
  if !preEff s t || rtTile s t then s
  else if st = nvBusy then setTileState t nvYielding s
  else if st = nvIdle then setTileState t nvLent s
  else if st = nvRestoring then
    setTileState t nvLent (s.setTile t { s.tile t with engine := none })
  else s

def execPreemptionRequest (tile : Fin 32) (s : State) : Host.Outcome State Fault Refusal := .next (preempt tile.val s)

/-- An engine of GLB_NAV_PRE_SE that serves no tile. -/
def freePreEngine (s : State) : Option Nat :=
  (List.range 24).find? fun e => preEngine s e && engineUp s e &&
    (List.range 32).all fun t => (s.tile t).engine != some e

/-- The pass in progress has ended and an engine is free: the spill starts (R208, R209). -/
def spillStart (t : Nat) (s : State) : State :=
  if tileState s t = nvYielding then
    match freePreEngine s with
    | none => s
    | some e => setTileState t nvSpilling (s.setTile t { s.tile t with engine := some e })
  else s

def execSpillStart (tile : Fin 32) (s : State) : Host.Outcome State Fault Refusal := .next (spillStart tile.val s)

/-- The bytes of a tile's half in role A. -/
def roleACopy (s : State) (t : Nat) : Mem :=
  let b := roleBase s t 0
  Tab.keep (fun a => b ≤ a && a < b + halfSize) (s.tile t).sram

/-- The spill is done: the tile is LENT (Table NAV-7). -/
def spillDone (t took : Nat) (s : State) : State :=
  if tileState s t = nvSpilling then
    let x := s.tile t
    let s1 := (s.setTile t { x with copy := some (roleACopy s t, x.acc), engine := none }).addWrap (R.NAV_CNT_PRE t) F.NAV_CNT_PRE_CNT 1
    setTileState t nvLent (s1.setFld (R.NAV_PRE_MAX t) F.NAV_PRE_MAX_NS (Nat.max took (s1.fld (R.NAV_PRE_MAX t) F.NAV_PRE_MAX_NS)))
  else s

def execSpillDone (tile : Fin 32) (took : BitVec 16) (s : State) : Host.Outcome State Fault Refusal :=
  .next (spillDone tile.val took.toNat s)

/-- A pre-emption has exceeded 8 µs (R209). -/
def execPreOver (tile : Fin 32) (s : State) : Host.Outcome State Fault Refusal :=
  .next (if tileState s tile.val = nvYielding ∨ tileState s tile.val = nvSpilling then
    s.setFlag (R.NAV_STAT tile.val) F.NAV_STAT_PRE_OVER true else s)

/-- Put a spilled half and accumulator back. -/
def restoreCopy (t : Nat) (s : State) : State :=
  let x := s.tile t
  match x.copy with
  | none => s
  | some (m, acc) =>
    let b := roleBase s t 0
    s.setTile t { x with sram := m.foldl (fun a e => a.setByte e.1 e.2) (Tab.keep (fun a => !(b ≤ a && a < b + halfSize)) x.sram),
                         acc := acc, copy := none }

/-- A reserved engine has served a tile's restore, or is free to (R209). -/
def restoreServed (s : State) (t : Nat) : Bool := (s.tile t).engine.isSome || (freePreEngine s).isSome

/-- The holds of a tile decide on what came while it was lent. -/
def resumeHolds (t : Nat) (s : State) : State :=
  showTile t ((List.range 8).foldl (fun s k => s.setTile t ((s.tile t).setCtx k (holdAgain ((s.tile t).ctx k)))) s)

/-- The restore is done: the ring work resumes (R208, R238). -/
def restoreDone (t : Nat) (s : State) : State :=
  if tileState s t == nvRestoring && restoreServed s t then
    let s1 := restoreCopy t s
    setTileState t nvBusy (resumeHolds t (s1.setTile t { s1.tile t with engine := none }))
  else s

def execRestoreDone (tile : Fin 32) (s : State) : Host.Outcome State Fault Refusal := .next (restoreDone tile.val s)

/-- The lending ends: the spilled copy is restored, or the tile is IDLE (R208, R211). -/
def endLending (t : Nat) (s : State) : State :=
  if tileState s t = nvLent then
    let x := s.tile t
    if x.copy.isSome then setTileState t nvRestoring (s.setTile t { x with slot := none, engine := freePreEngine s })
    else setTileState t nvIdle (s.setTile t { x with slot := none })
  else s

/-- The trigger bits of NAV_CTL: PRE_REQ and PRE_REL are expert bits (R215), CLR clears a FAULTED tile (R478). -/
def navClear (t : Nat) (s : State) : State :=
  if tileState s t = nvFaulted then setTileState t nvIdle s else s

/-- A write to NAV_CTL. -/
def writeNavCtl (a : Agent) (t : Nat) (v : Word) (s : State) : State :=
  let off := R.NAV_CTL t
  let s1 := storeReg a off v s
  if reaches a off s then
    let s2 := if expertOn s 4 && F.NAV_CTL_PRE_REQ.get v == 1 && preEff s1 t && !rtTile s1 t then
        preempt t (s1.setTile t { s1.tile t with preHeld := true })
      else s1
    let s3 := if expertOn s 4 && F.NAV_CTL_PRE_REL.get v == 1 && preEff s2 t && !rtTile s2 t then
        s2.setTile t { s2.tile t with preHeld := false }
      else s2
    if F.NAV_CTL_CLR.get v = 1 then navClear t s3 else s3
  else s1

def execPreReq (a : Agent) (tile : Fin 32) (v : Word) (s : State) : Host.Outcome State Fault Refusal := .next (writeNavCtl a tile.val v s)
def execPreRel (a : Agent) (tile : Fin 32) (v : Word) (s : State) : Host.Outcome State Fault Refusal := .next (writeNavCtl a tile.val v s)
def execNavClr (a : Agent) (tile : Fin 32) (v : Word) (s : State) : Host.Outcome State Fault Refusal := .next (writeNavCtl a tile.val v s)

/-! ### Errors (R212, R236, R461) -/

/-- Cancel a tile's pending swaps: their channels' stream items complete MEM_UNCORRECTABLE naming the tile (R236). -/
def cancelSwaps (t : Nat) (s : State) : State :=
  (s.tile t).swaps.foldl (fun s c => chanEnd c stMem (unitDetail kTile t 0) s) (s.setTile t { s.tile t with swaps := [] })

/-- An uncorrectable error in a tile: every item on it completes MEM_UNCORRECTABLE, and the tile is FAULTED. -/
def tileUe (t : Nat) (s : State) : State :=
  let s1 := cancelSwaps t s
  let s2 := match (s1.tile t).item with
    | none => s1
    | some id => failTask id stMem (unitDetail kTile t 0) s1
  let x := s2.tile t
  let chans := x.ctxs.flatMap fun (_, c) => c.reqs.map (·.chan)
  let s3 := s2.setTile t { x with ctxs := [], work := none, item := none, slot := none, copy := none, later := [], engine := none }
  let s4 := chans.foldl (fun s c => if (s.chan c).phase = .idle then s else chanEnd c stMem (unitDetail kTile t 0) s) s3
  event 0x0050 16 t (setTileState t nvFaulted (showTile t s4))

end Sys2Proof.Machine
end

