-- ==== Sys2Proof/Machine/Stream.lean ====
section
/-! DEFINITION. Stream Engines (07_stream_engines): fetching descriptors, NOP, COPY, HEADER, ROWS, LINK, bursts, semaphore pairs,
core commands, role swaps. -/

namespace Sys2Proof.Machine

/-! ### Fetching a descriptor -/

def overlapBoundary (s : State) (c : Nat) : Bool := s.flag (R.SE_CH_CTL (c / 8) (c % 8)) F.SE_CH_CTL_BOUNDARY

/-- The channel may fetch its next descriptor: no swap is pending, and under DRAIN no LAYER_END is outstanding (R233, R236). -/
def mayFetch (s : State) (c : Nat) : Bool :=
  (s.chan c).phase == .fetch && !swapPend s c && (!(s.chan c).barrier || overlapBoundary s c)

/-- Read the descriptor at the current address (R218, R219). -/
def fetchDesc (c : Nat) (s : State) : State :=
  let x := s.chan c
  if x.cur % 64 ≠ 0 then chanEnd c stRejected 0 s
  else
    match vaRead (chanOwner s c) x.cur 64 s with
    | (s1, .error e) => chanFail c e (markStartedOpt x.item (s1.setChan c { x with begun := true }))
    | (s1, .ok bs) => markStartedOpt x.item (s1.setChan c { x with begun := true, desc := bs, phase := .run })

/-- The pairs a descriptor names are ones its channel may use (R241). -/
def pairsOk (s : State) (c : Nat) (d : List Byte) : Bool :=
  (!sdWaitEn d || semAllowed s (sdWaitPair d) c (chanOwner s c)) && (!sdSigEn d || semAllowed s (sdSigPair d) c (chanOwner s c))

/-- The tile a SWAP names; none where SWAP is REJECTED (R235). -/
def swapTile (x : Chan) (d : List Byte) : Option Nat :=
  match sdOpcode d with
  | 1 => if cpDstSpace d = 1 then some (tileOfRank x (epTileRank (cpDst d)))
         else if cpSrcSpace d = 1 then some (tileOfRank x (epTileRank (cpSrc d))) else none
  | 2 => some (tileOfRank x (hdTile d))
  | 3 => some (tileOfRank x (rwTile d))
  | _ => none

/-- Fields of a descriptor in range, as far as they do not depend on a tile's contexts (R221). -/
def descOk (s : State) (x : Chan) (d : List Byte) : Bool :=
  (!sdSwap d || (swapTile x d).isSome) &&
  match sdOpcode d with
  | 1 => copyOk d (tileRanks x) (coreRanks x)
  | 2 => hdTile d < tileRanks x && headerOk (hdBytes d) (expertOn s 4)
  | 3 => rwTile d < tileRanks x && 1 ≤ rwM d && rwM d ≤ 65536 && rwA d % 64 == 0 && rwW d % 64 == 0
  | 0xF => !sdSwap d && !sdLayerEnd d && !sdLast d && !sdClose d && lkNext d % 64 == 0
  | _ => true

/-- Check a fetched descriptor and take its WAIT: it may run, or it waits, or its stream item is REJECTED. -/
def prepDesc (c : Nat) (s : State) : State :=
  let x := s.chan c
  let d := x.desc
  if !(descOk s x d && pairsOk s c d) then chanEnd c stRejected 0 s
  else if sdWaitEn d then
    let p := sdWaitPair d
    let side := sideOf s p c
    if semReady s p side && (s.sem p).waiters.all (·.2 != side) then semTake p side s
    else
      setChanState c 2 ((s.setSem p { s.sem p with waiters := (s.sem p).waiters ++ [(c, side)] }).setChan c { x with phase := .wait })
  else s

/-- Opcodes of Table STR-2. -/
def knownOpcode (op : Nat) : Bool := op == 0 || op == 1 || op == 2 || op == 3 || op == 7 || op == 0xF

/-- Run `k` on a channel whose current descriptor has an opcode that satisfies `p`, fetching and preparing it if need be. A channel
that stands elsewhere is unchanged. -/
def onDesc (c : Nat) (p : Nat → Bool) (k : State → State) (s : State) : State :=
  match (s.chan c).phase with
  | .fetch =>
    if mayFetch s c then
      let s1 := fetchDesc c s
      if (s1.chan c).phase = .run then
        if p (sdOpcode (s1.chan c).desc) then
          let s2 := prepDesc c s1
          if (s2.chan c).phase = .run then k s2 else s2
        else s
      else s1
    else s
  | .run => if p (sdOpcode (s.chan c).desc) then k s else s
  | .move _ _ => if p 1 then k s else s
  | _ => s

/-! ### NOP, LINK, an undefined opcode -/

def execStreamNop (ch : Fin 192) (s : State) : Host.Outcome State Fault Refusal :=
  .next (onDesc ch.val (· == 0) (fun s => descBegun ch.val ((s.chan ch.val).cur + 64) true none none [] s) s)

/-- R560. -/
def execLink (ch : Fin 192) (s : State) : Host.Outcome State Fault Refusal :=
  .next (onDesc ch.val (· == 0xF) (fun s => descBegun ch.val (lkNext (s.chan ch.val).desc) true none none [] s) s)

/-- R221: the channel stops and the stream item completes REJECTED. -/
def undefinedStream (c : Nat) (s : State) : State :=
  if mayFetch s c then
    let s1 := fetchDesc c s
    if (s1.chan c).phase = .run ∧ knownOpcode (sdOpcode (s1.chan c).desc) then s
    else if (s1.chan c).phase = .run then chanEnd c stRejected 0 s1
    else s1
  else s

def execUndefinedStreamOpcode (ch : Fin 192) (s : State) : Host.Outcome State Fault Refusal := .next (undefinedStream ch.val s)

/-! ### COPY (R222-R226) -/

/-- One side of a burst: its space, the tile or core, the address. -/
structure Side where
  space : Nat
  unit  : Nat
  role  : Nat
  addr  : Int
  frame : Bool
  deriving DecidableEq, Repr

/-- The base of an endpoint as an address of its space. -/
def epBase (space a : Nat) : Nat := if space = 1 then epTileOfs a else if space = 2 then epCoreOfs a else a

/-- An element's address on one side (R224): `xi` is the index entry of the indexed side. -/
def sideAddr (space base : Nat) (stride : Int) (mode : Nat) (indexed : Bool) (i xi : Nat) : Int :=
  if mode = 2 ∧ indexed then (xi * 65536 + base % 65536 : Nat)
  else (epBase space base : Nat) + (if mode = 1 ∧ indexed then (xi : Int) else (i : Int)) * stride

def mkSide (x : Chan) (dst : Bool) (i xi : Nat) : Side :=
  let d := x.desc
  let space := if dst then cpDstSpace d else cpSrcSpace d
  let base := if dst then cpDst d else cpSrc d
  let indexed := cpSide d == dst
  { space := space, unit := if space = 1 then tileOfRank x (epTileRank base) else if space = 2 then coreOfRank x (epCoreRank base) else 0,
    role := epTileRole base, addr := sideAddr space base (if dst then cpDstStride d else cpSrcStride d) (cpMode d) indexed i xi,
    frame := cpMode d == 2 && indexed }

/-- A failed access: status, DETAIL, and the translation error to record. -/
structure SideErr where
  status : Nat
  detail : Nat
  acc    : Option AccErr := none
  deriving DecidableEq, Repr

def accSide (c : Nat) (e : AccErr) : SideErr := { status := e.status, detail := accDetail c e, acc := some e }

/-- Outside the endpoint, or its tile or core is not there (R226). -/
def sideMissing (s : State) (c n : Nat) (d : Side) : Option SideErr :=
  let size : Int := if d.space = 1 then halfSize else if d.space = 2 then dmemSize else 2 ^ 48
  let kind := if d.space = 1 then kTile else kCore
  let out := decide (d.addr < 0) || decide (size < d.addr + n)
  let gone := (d.space == 1 && !tileOpen s d.unit) || (d.space == 2 && !coreOpen s d.unit)
  if d.space = 0 then
    if out && !d.frame then some (accSide c { status := stTrans, reason := 5, addr := d.addr.toNat }) else none
  else if out || gone then some { status := stTrans, detail := unitDetail kind d.unit 5 }
  else none

/-- While role A of a tile is spilled, ring work's transfers reach the spilled copy, so that no result changes (R33, log 47). -/
def spilledSide (s : State) (c : Nat) (d : Side) : Option (Mem × Tab Word) :=
  if d.role = 0 ∧ (s.chan c).item.isSome then (s.tile d.unit).copy else none

/-- Read a tile's SRAM for a channel. -/
def tileRead (s : State) (c n : Nat) (d : Side) : List Byte :=
  let a := roleBase s d.unit d.role + d.addr.toNat
  match spilledSide s c d with
  | some p => p.1.read a n
  | none => (s.tile d.unit).sram.read a n

/-- Write a tile's SRAM for a channel. -/
def tileWrite (c : Nat) (bs : List Byte) (d : Side) (s : State) : State :=
  let x := s.tile d.unit
  let a := roleBase s d.unit d.role + d.addr.toNat
  match spilledSide s c d with
  | some p => s.setTile d.unit { x with copy := some (p.1.write a bs, p.2) }
  | none => s.setTile d.unit { x with sram := x.sram.write a bs }

def readSide (c n : Nat) (d : Side) (s : State) : State × Except SideErr (List Byte) :=
  let sp := chanOwner s c
  let a := d.addr.toNat
  match sideMissing s c n d with
  | some e => (s, .error e)
  | none =>
    if d.space = 1 then (s, .ok (tileRead s c n d))
    else if d.space = 2 then
      match dmemRead (s.core d.unit) a n 1 with
      | .ok bs => (s, .ok bs)
      | .error _ => (s, .error { status := stMem, detail := unitDetail kCore d.unit 0 })
    else if d.frame then
      match frameOk s sp a n with
      | some e => (s, .error (accSide c e))
      | none =>
        match physRead s a n with
        | .ok bs => (s, .ok bs)
        | .error e => (s, .error (accSide c e))
    else
      match vaRead sp a n s with
      | (s1, .ok bs) => (s1, .ok bs)
      | (s1, .error e) => (s1, .error (accSide c e))

def writeSide (c : Nat) (bs : List Byte) (d : Side) (s : State) : State × Option SideErr :=
  let sp := chanOwner s c
  let a := d.addr.toNat
  match sideMissing s c bs.length d with
  | some e => (s, some e)
  | none =>
    if d.space = 1 then (tileWrite c bs d s, none)
    else if d.space = 2 then
      if mergeBad (s.core d.unit) a bs.length then (s, some { status := stMem, detail := unitDetail kCore d.unit 0 })
      else (s.setCore d.unit (dmemStore (s.core d.unit) a bs), none)
    else if d.frame then
      match frameOk s sp a bs.length with
      | some e => (s, some (accSide c e))
      | none =>
        match physWrite a bs s with
        | (s1, none) => (s1, none)
        | (s1, some e) => (s1, some (accSide c e))
    else
      match vaWrite sp a bs s with
      | (s1, none) => (s1, none)
      | (s1, some e) => (s1, some (accSide c e))

/-- A stream item ends by a failed side. -/
def sideFail (c : Nat) (e : SideErr) (s : State) : State :=
  let s1 := match e.acc with
    | none => s
    | some a => noteErr (chanOwner s c) (Config.agentCode kChan c) a s
  chanEnd c e.status e.detail s1

/-- Bytes of the burst at offset `off` of an element: within the element and one 4 KiB page of each side (R216). -/
def burstLen (elem off : Nat) (src dst : Int) : Nat :=
  Nat.min (elem - off) (Nat.min ((4096 : Int) - src % 4096).toNat ((4096 : Int) - dst % 4096).toNat)

/-- Do role A bytes [lo, lo+n) of a tile share a 64-byte line with a range? -/
def lineMeet (t lo n : Nat) (r : Nat × Nat × Nat) : Bool := r.1 == t && lo / 64 * 64 < r.2.2 && r.2.1 / 64 * 64 < lo + n

/-- A burst meets the order of R231: it reads a line an earlier descriptor has yet to write, or writes one it has yet to read or write. -/
def hazard (x : Chan) (src dst : Side) (n : Nat) : Bool :=
  x.outst.any fun d => !d.done &&
    ((src.space == 1 && src.role == 0 && (d.writes.any (lineMeet src.unit src.addr.toNat n))) ||
     (dst.space == 1 && dst.role == 0 && (d.writes.any (lineMeet dst.unit dst.addr.toNat n) ||
      d.reads.any (lineMeet dst.unit dst.addr.toNat n))))

/-- The index entry of element i (R224). -/
def indexOf (c i : Nat) (s : State) : State × Except SideErr Nat :=
  let d := (s.chan c).desc
  if cpMode d = 0 then (s, .ok 0)
  else
    match vaRead (chanOwner s c) (cpIdx d + 4 * i) 4 s with
    | (s1, .ok bs) => (s1, .ok (leNat bs))
    | (s1, .error e) => (s1, .error (accSide c e))

/-- A burst has moved n bytes: the counters, and the bytes a twin compares. -/
def countBurst (c : Nat) (bs : List Byte) (dst : Side) (s : State) : State :=
  let s1 := (s.addSat (chBytes c) F.SE_CH_BYTES_BYTES bs.length).addWrap (R.SE_PERF_BYTES (c / 8)) F.SE_PERF_BYTES_CNT bs.length
  match (s1.chan c).item with
  | some id => if dst.space = 0 ∧ twinRunning s1 then updItem id (fun it => { it with outs := it.outs ++ bs }) s1 else s1
  | none => s1

/-- The COPY is over: its descriptor is done, its SWAP due. -/
def copyOver (c : Nat) (s : State) : State :=
  let x := s.chan c
  descBegun c (x.cur + 64) true (if sdSwap x.desc then swapTile x x.desc else none) none [] s

/-- Where the next burst stands: the element, the offset. -/
def copyPos (x : Chan) : Nat × Nat :=
  match x.phase with
  | .move i o => (i, o)
  | _ => (0, 0)

/-- A LAYER_END holds back every write of a later descriptor (R233). -/
def writeHeld (x : Chan) : Bool := x.barrier && !x.outst.isEmpty

/-- One burst of a COPY (R216, R224-R226, R231). -/
def copyBurst (c : Nat) (s : State) : State :=
  let x := s.chan c
  let d := x.desc
  let pos := copyPos x
  if writeHeld x then s
  else
    match indexOf c pos.1 s with
    | (s1, .error e) => sideFail c e s1
    | (s1, .ok xi) =>
      let src := mkSide x false pos.1 xi
      let dst := mkSide x true pos.1 xi
      let src1 := { src with addr := src.addr + pos.2 }
      let dst1 := { dst with addr := dst.addr + pos.2 }
      let n := burstLen (cpElem d) pos.2 src1.addr dst1.addr
      if hazard x src1 dst1 n then
        if x.hazard then s1
        else (s1.setChan c { s1.chan c with hazard := true }).addSat (chHaz c) F.SE_CH_HAZ_CNT 1
      else
        match readSide c n src1 s1 with
        | (s2, .error e) => sideFail c e s2
        | (s2, .ok bs) =>
          match writeSide c bs dst1 s2 with
          | (s3, some e) => sideFail c e s3
          | (s3, none) =>
            let off := pos.2 + n
            let nxt := if off < cpElem d then (pos.1, off) else (pos.1 + 1, 0)
            let s4 := countBurst c bs dst1 (s3.setChan c { s3.chan c with phase := .move nxt.1 nxt.2, hazard := false })
            if nxt.1 < cpCount d then s4 else copyOver c s4

/-- Bursts until the COPY is over, fails or waits. -/
def copyRun : Nat → Nat → State → State
  | 0, _, s => s
  | fuel + 1, c, s =>
    let did := (s.chan c).did
    let s1 := copyBurst c s
    match (s1.chan c).phase with
    | .move _ _ => if (s1.chan c).did = did ∧ !(s1.chan c).hazard ∧ !writeHeld (s1.chan c) then copyRun fuel c s1 else s1
    | _ => s1

/-- Enough bursts for what is left: every burst moves at least one byte. -/
def copyFuel (x : Chan) : Nat := cpCount x.desc * cpElem x.desc + 1

def execCopy (ch : Fin 192) (s : State) : Host.Outcome State Fault Refusal :=
  .next (onDesc ch.val (· == 1) (fun s => copyRun (copyFuel (s.chan ch.val)) ch.val s) s)

/-- Is the channel's next work a COPY burst? -/
def burstable (s : State) (c : Nat) : Bool :=
  match (s.chan c).phase with
  | .move _ _ => true
  | .run => sdOpcode (s.chan c).desc == 1
  | .fetch => mayFetch s c && sdOpcode ((fetchDesc c s).chan c).desc == 1 && ((fetchDesc c s).chan c).phase == .run
  | _ => false

/-- The engine's next burst, round-robin over its channels (R216). -/
def seBurst (e : Nat) (s : State) : State :=
  let t := Tab.get (fun _ => 0) s.se.turn e
  match ((List.range 8).map fun i => 8 * e + (t + i) % 8).find? (burstable s) with
  | none => s
  | some c =>
    onDesc c (· == 1) (copyBurst c) { s with se := { s.se with turn := Tab.set (fun _ => 0) s.se.turn e ((c + 1) % 8) } }

def execSeBurst (e : Fin 24) (s : State) : Host.Outcome State Fault Refusal := .next (seBurst e.val s)

/-! ### HEADER and ROWS (R191, R198, R227-R230) -/

/-- A valid multiplier: +0, or a positive normal number with 2^-40 ≤ m < 2^8 (R198). -/
def multOk (m : Nat) : Bool := m == 0 || (0x2B800000 ≤ m && m < 0x43800000)

def wordsOf : Nat → List Byte → List Nat
  | 0, _ => []
  | n + 1, bs => leNat (bs.take 4) :: wordsOf n (bs.drop 4)

def hdrOf (h : List Byte) (expert : Bool) (mults : List Nat) : NavHdr :=
  { mode := msMode h, wFmt := msW h, aFmt := msA h, outFmt := msOut h, aZp := msAzp h, outZp := msOzp h,
    fillMin := if expert then msFillMin h else 16, fillTimeout := if expert then msFillTimeout h else 2048,
    mvpThr := if expert then msMvpThr h else 3, k := msK h, n := msN h, mults := mults }

/-- The tile of a descriptor, or how it is missing (R226). -/
def tileMissing (s : State) (t : Nat) : Option SideErr :=
  if tileOpen s t then none else some { status := stTrans, detail := unitDetail kTile t 5 }

/-- HEADER: read the multipliers and open the context (R198, R227). -/
def runHeader (c : Nat) (s : State) : State :=
  let x := s.chan c
  let h := hdBytes x.desc
  let t := tileOfRank x (hdTile x.desc)
  let k := msCtx h
  match tileMissing s t with
  | some e => sideFail c e s
  | none =>
    let n := if msPerCh h then msN h else 1
    match vaRead (chanOwner s c) (msMult h) (4 * n) s with
    | (s1, .error e) => chanFail c e s1
    | (s1, .ok bs) =>
      let mults := wordsOf n bs
      if ((s1.tile t).ctx k).hdr.isSome || !mults.all multOk then chanEnd c stRejected 0 s1
      else
        let s2 := showCtx t k (s1.setTile t ((s1.tile t).setCtx k { hdr := some (hdrOf h (expertOn s 4) mults), ring := x.item.isSome }))
        descBegun c (x.cur + 64) true (if sdSwap x.desc then some t else none) none [] s2

def execHeader (ch : Fin 192) (s : State) : Host.Outcome State Fault Refusal := .next (onDesc ch.val (· == 2) (runHeader ch.val) s)

/-- The ranges of a request of rows in role A: activations, weights, outputs (R229). -/
def rowsRanges (h : NavHdr) (d : List Byte) : List (Nat × Nat) :=
  [(rwA d, rwA d + kBlocks h * divUp (rwM d) 32 * 1024), (rwW d, rwW d + slices h * kBlocks h * blockBytes h.wFmt),
   (rwO d, rwO d + rwM d * h.n * outBytes h.outFmt)]

/-- ROWS: post a request; a fifth request of a context waits (R228). -/
def runRows (c : Nat) (s : State) : State :=
  let x := s.chan c
  let d := x.desc
  let t := tileOfRank x (rwTile d)
  let k := rwCtx d
  match tileMissing s t with
  | some e => sideFail c e s
  | none =>
    match ((s.tile t).ctx k).hdr with
    | none => chanEnd c stRejected 0 s
    | some h =>
      let rs := rowsRanges h d
      if !rs.all (fun r => r.2 ≤ halfSize) then chanEnd c stRejected 0 s
      else if writeHeld x || 4 ≤ queuedReqs (s.tile t) k then s
      else
        let q : NavReq := { ser := 0, chan := c, did := x.did, m := rwM d, aOfs := rwA d, wOfs := rwW d, oOfs := rwO d,
                            last := sdLast d, close := sdClose d, left := rwM d }
        let rd := (rs.take 2).map fun r => (t, r.1, r.2)
        let wr := (rs.drop 2).head?.map fun r => (t, r.1, r.2)
        reachTile t k q (descBegun c (x.cur + 64) false (if sdSwap d then some t else none) wr rd s)

def execRows (ch : Fin 192) (s : State) : Host.Outcome State Fault Refusal := .next (onDesc ch.val (· == 3) (runRows ch.val) s)

/-! ### Starting a channel (R217, R219, R248) -/

def channelGo (a : Agent) (c : Nat) (v : Word) (s : State) : State :=
  let off := R.SE_CH_CTL (c / 8) (c % 8)
  let s1 := storeReg a off v s
  if reaches a off s && F.SE_CH_CTL_GO.get v == 1 && expertOn s 5 then
    if preEngine s1 (c / 8) then s1.setFlag R.SE_ERR F.SE_ERR_RESV_START true
    else if s1.flag R.SE_CTL F.SE_CTL_EN && (s1.chan c).phase == .idle && engineUp s1 (c / 8) then
      chanStart c (s1.pair (R.SE_CH_LIST_LO (c / 8) (c % 8)) (R.SE_CH_LIST_HI (c / 8) (c % 8))) none none s1
    else s1
  else s1

def execChannelGo (a : Agent) (ch : Fin 192) (v : Word) (s : State) : Host.Outcome State Fault Refusal := .next (channelGo a ch.val v s)

/-! ### Semaphore commands (R239-R243) -/

/-- Write a core command's word back: VALID = 0, GRANTED as given. -/
def cslBack (core word : Nat) (granted : Bool) (s : State) : State :=
  let x := s.core core
  let a := s.fld (R.SE_CSL core) F.SE_CSL_LINE * 64 + 4 * word
  let old := leNat (x.dmem.read a 4)
  let new := old % 2 ^ 29 + (old / 2 ^ 30 % 2) * 2 ^ 30 + granted.toNat * 2 ^ 29
  s.setCore core { x with dmem := x.dmem.write a (leBytes 4 new) }

def cslOf (s : State) (core : Nat) : List Nat := Tab.get (fun _ => []) s.se.csl core
def setCsl (core : Nat) (l : List Nat) (s : State) : State :=
  { s with se := { s.se with csl := Tab.set (fun _ => []) s.se.csl core l } }

/-- Set a pending bit of a core's EVP, or count the event lost (R140). -/
def setEvp (core ev : Nat) (s : State) : State :=
  if bitOf (s.fld (R.CLO_EVP core) F.CLO_EVP_EVP) ev then
    (s.addSat (R.CLO_EVLOST core) F.CLO_EVLOST_CNT 1).setFlag (R.CLO_STAT core) F.CLO_STAT_EVOVF true
  else s.setReg (R.CLO_EVP core) (setBit (s.reg (R.CLO_EVP core)) ev)

/-- The first waiter of a side of a pair, taken out in arrival order. -/
def takeWaiter (p : Nat) (consumer : Bool) (s : State) : Option (Nat × State) :=
  match (s.sem p).waiters.find? (·.2 == consumer) with
  | none => none
  | some w => some (w.1, s.setSem p { s.sem p with waiters := (s.sem p).waiters.erase w })

/-- A waiter of a pair is served: its counter falls by one, a channel may run its descriptor, a core's command is written back and
SEMA is set (R240, R243). -/
def waitGrant (p : Nat) (consumer : Bool) (s : State) : State :=
  if semReady s p consumer then
    match takeWaiter p consumer s with
    | none => s
    | some (agent, s1) =>
      let s2 := semTake p consumer s1
      if agent < 192 then setChanState agent 1 (s2.setChan agent { s2.chan agent with phase := .run })
      else
        let core := agent - 0xC0
        match cslOf s2 core with
        | [] => s2
        | w :: ws => setEvp core 16 (setCsl core ws (cslBack core w true s2))
  else s

def execSemWaitGrant (p : Fin 256) (consumer : Bool) (s : State) : Host.Outcome State Fault Refusal := .next (waitGrant p.val consumer s)

/-- A write to SE_SEMp_CFG (R239). -/
def semCfg (a : Agent) (p : Nat) (v : Word) (s : State) : State :=
  let off := R.SE_SEM_CFG p
  if reaches a off s then
    if !(s.sem p).waiters.isEmpty then s.setFlag R.SE_ERR F.SE_ERR_SEM_BUSY true
    else if F.SE_SEM_CFG_PROD.get v = F.SE_SEM_CFG_CONS.get v then s.setFlag R.SE_ERR F.SE_ERR_SEM_AGENT true
    else
      let s1 := storeReg a off v s
      if s1.flag (R.SE_SEM_OWN p) F.SE_SEM_OWN_EN then
        let s2 := (s1.setFld (R.SE_SEM_CNT p) F.SE_SEM_CNT_FULL 0).setFld (R.SE_SEM_CNT p) F.SE_SEM_CNT_EMPTY (semDepth s1 p)
        s2.setSem p { s2.sem p with conf := true }
      else s1
  else storeReg a off v s

def execSemCfgWrite (a : Agent) (p : Fin 256) (v : Word) (s : State) : Host.Outcome State Fault Refusal := .next (semCfg a p.val v s)

/-- A write to SE_SEMp_OWN leaves the pair unconfigured (R239). -/
def semOwn (a : Agent) (p : Nat) (v : Word) (s : State) : State :=
  let off := R.SE_SEM_OWN p
  let s1 := storeReg a off v s
  if reaches a off s then s1.setSem p { s1.sem p with conf := false } else s1

def execSemOwnWrite (a : Agent) (p : Fin 256) (v : Word) (s : State) : Host.Outcome State Fault Refusal := .next (semOwn a p.val v s)

/-- SE_SEMp_OP: the PF signals as producer (1) or consumer (2), effective only where that agent is 0xFF (Table STR-6). -/
def semOp (a : Agent) (p op : Nat) (s : State) : State :=
  let off := R.SE_SEM_OP p
  let s1 := storeReg a off (BitVec.ofNat 32 op) s
  if reaches a off s && expertOn s 5 && (s1.sem p).conf then
    if op = 1 ∧ semProd s1 p = 0xFF then semSignal p false s1
    else if op = 2 ∧ semCons s1 p = 0xFF then semSignal p true s1
    else s1
  else s1

def execSemOpProducer (a : Agent) (p : Fin 256) (s : State) : Host.Outcome State Fault Refusal := .next (semOp a p.val 1 s)
def execSemOpConsumer (a : Agent) (p : Fin 256) (s : State) : Host.Outcome State Fault Refusal := .next (semOp a p.val 2 s)

/-- A core's owner: the function of its ring task; the PF for a reserve core (R241). A core that runs no task has none. -/
def coreOwner (s : State) (core : Nat) : Option Nat :=
  if rtCore s core then some 16
  else
    match (s.core core).item with
    | none => none
    | some id => (itemOf s id).map (·.func)

/-- A store of a core wrote its semaphore line: the words with VALID set, in ascending order, are queued (R243). -/
def cslObserve (core addr len : Nat) (s : State) : State :=
  let reg := R.SE_CSL core
  if s.flag reg F.SE_CSL_EN then
    let line := s.fld reg F.SE_CSL_LINE * 64
    let words := (List.range 16).filter fun w =>
      addr < line + 4 * w + 4 && line + 4 * w < addr + len && bitOf (leNat ((s.core core).dmem.read (line + 4 * w) 4)) 31
    setCsl core (cslOf s core ++ words) s
  else s

/-- Serve the oldest command of a core's line; a word that is no longer VALID is none (R243). -/
def cslCommand (core : Nat) (s : State) : State :=
  match cslOf s core with
  | [] => s
  | w :: ws =>
    let v := leNat ((s.core core).dmem.read (s.fld (R.SE_CSL core) F.SE_CSL_LINE * 64 + 4 * w) 4)
    let p := v % 256
    let agent := 0xC0 + core
    if (s.sem p).waiters.any (·.1 == agent) then s
    else if !bitOf v 31 then setCsl core ws s
    else
      match coreOwner s core with
      | none => (setCsl core ws s).setFlag R.SE_ERR F.SE_ERR_SEM_AGENT true
      | some f =>
        if !semAllowed s p agent f then (setCsl core ws s).setFlag R.SE_ERR F.SE_ERR_SEM_AGENT true
        else
          let side := sideOf s p agent
          if bitOf v 30 then cslBack core w false (semSignal p side (setCsl core ws s))
          else if semReady s p side && (s.sem p).waiters.all (·.2 != side) then
            setEvp core 16 (cslBack core w true (semTake p side (setCsl core ws s)))
          else s.setSem p { s.sem p with waiters := (s.sem p).waiters ++ [(agent, side)] }

def execCslCommand (core : Fin 16) (s : State) : Host.Outcome State Fault Refusal := .next (cslCommand core.val s)

/-! ### Role swaps (R236-R238) -/

/-- The first swap due on a tile takes effect. -/
def swapEffect (t : Nat) (s : State) : State :=
  let x := s.tile t
  match x.swaps with
  | [] => s
  | c :: cs =>
    if (tileState s t == nvBusy || tileState s t == nvIdle) && roleFree x then
      let later := x.later.map fun p => (p.1, p.2.1, p.2.2 - 1)
      let s1 := s.setTile t { x with swaps := cs, later := later.filter (·.2.2 != 0) }
      let s2 := s1.setFld (R.NAV_STAT t) F.NAV_STAT_ROLE (1 - s.fld (R.NAV_STAT t) F.NAV_STAT_ROLE)
      let s3 := (later.filter (·.2.2 == 0)).foldl (fun s p => postRows t p.1 p.2.1 s) s2
      chanAdvance c (s3.setFlag (chStat c) F.SE_CH_STAT_SWAP_PEND false)
    else s

def execSwapEffect (tile : Fin 32) (s : State) : Host.Outcome State Fault Refusal := .next (swapEffect tile.val s)

end Sys2Proof.Machine
end

