-- ==== Sys2Proof/Machine/Cloister.lean ====
section
/-! DEFINITION. The Cloister cores as units of the device (04_cloister_dsp): issuing bundles, waits, interrupts, events, faults, control
through CLO_CTL (R558), indirect and external access to their memories. -/

namespace Sys2Proof.Machine

def evpOf (s : State) (c : Nat) : Nat := s.fld (R.CLO_EVP c) F.CLO_EVP_EVP

/-- A program fault (R146): code and PC recorded, FAULTED, CLO_FAULT; the core's item completes ABORTED, or MEM_UNCORRECTABLE for
DMEM_ECC. -/
def coreFault (c code : Nat) (s : State) : State :=
  let pc := (s.core c).ctx.pc
  let st := R.CLO_STAT c
  let s1 := setCoreState c cFaulted ((s.setFld st F.CLO_STAT_FAULT code).setFld st F.CLO_STAT_FAULT_PC pc)
  let s2 := event 0x0030 16 (c + 256 * code + 4096 * pc) s1
  match (s2.core c).item with
  | none => s2
  | some id =>
    if code = 3 then failTask id stMem (unitDetail kCore c 0) s2 else failTask id stAborted (unitDetail kCore c code) s2

/-- Issue the bundle at PC: what it wrote, events cleared, wrapped accumulators, its stores to the semaphore line, the end of the
program. -/
def issueAt (c : Nat) (s : State) : State :=
  match issue (s.core c) (evpOf s c) with
  | .error code => coreFault c code s
  | .ok r =>
    let s1 := markStartedOpt (s.core c).item (s.setCore c r.core)
    let s2 := s1.setFld (R.CLO_EVP c) F.CLO_EVP_EVP (evpOf s1 c - Nat.land (evpOf s1 c) r.clear)
    let s3 := if r.aovf then s2.setFlag (R.CLO_STAT c) F.CLO_STAT_AOVF true else s2
    let s4 := r.stores.foldl (fun s w => cslObserve c w.1 w.2 s) s3
    let s5 := s4.addWrap (R.CLO_PERF_CYC c) F.CLO_PERF_CYC_CNT r.cycles
    if r.ended then coreEnded c (setCoreState c cHalted s5) else s5

/-- Was the core told to stop at its next bundle boundary (R558)? A bundle is one command, so none issues after that. -/
def stopAsked (x : Core) : Bool := x.stopping || x.halting

/-- A RUNNING core issues one bundle; stall cycles count (R120, R123, R124). -/
def bundleIssue (c opnd ext : Nat) (s : State) : State :=
  if coreState s c = cRunning ∧ stopAsked (s.core c) = false ∧ (s.core c).wait = none then
    let s1 := s.addWrap (R.CLO_PERF_CYC c) F.CLO_PERF_CYC_CNT (opnd + ext)
    issueAt c ((s1.addWrap (R.CLO_PERF_OPND c) F.CLO_PERF_OPND_CNT opnd).addWrap (R.CLO_PERF_EXT c) F.CLO_PERF_EXT_CNT ext)
  else s

def execBundleIssue (core : Fin 16) (stallOpnd stallExt : BitVec 8) (s : State) : Host.Outcome State Fault Refusal :=
  .next (bundleIssue core.val stallOpnd.toNat stallExt.toNat s)

/-- A waiting core whose mask meets a pending event goes on (R142). -/
def waitevWake (c : Nat) (s : State) : State :=
  match (s.core c).wait with
  | none => s
  | some m => if coreState s c = cRunning ∧ stopAsked (s.core c) = false ∧ Nat.land (evpOf s c) m ≠ 0 then issueAt c s else s

def execWaitevWake (core : Fin 16) (s : State) : Host.Outcome State Fault Refusal := .next (waitevWake core.val s)

/-- An enabled event is pending, no handler is active, no RPT is in progress (R134, R141). -/
def interruptDue (s : State) (c : Nat) : Bool :=
  coreState s c == cRunning && !stopAsked (s.core c) && !(s.core c).handler && (s.core c).rpt == 0 &&
  Nat.land (evpOf s c) (s.fld (R.CLO_IEN c) F.CLO_IEN_IEN) != 0

/-- R141. -/
def interruptEntry (c : Nat) (s : State) : State :=
  if interruptDue s c then
    let x := s.core c
    s.setCore c { x with shadow := x.ctx, ctx := { x.ctx with pc := s.fld (R.CLO_IVEC c) F.CLO_IVEC_BUNDLE, loops := [] },
                         handler := true, wait := none }
  else s

def execInterruptEntry (core : Fin 16) (s : State) : Host.Outcome State Fault Refusal := .next (interruptEntry core.val s)

/-- An event arrives at a core (R139, R140): a comparator event only where its DEST includes CL (bit 0) and CLO_STI names it. -/
def evpEvent (c ev : Nat) (s : State) : State :=
  if ev < 16 then
    if bitOf (s.fld (R.CLO_STI c) F.CLO_STI_MASK) ev && bitOf (s.fld (R.BEL_CMP_CTL ev) F.BEL_CMP_CTL_DEST) 0 then setEvp c ev s else s
  else setEvp c ev s

def execEvpEvent (core : Fin 16) (ev : Fin 19) (s : State) : Host.Outcome State Fault Refusal := .next (evpEvent core.val ev.val s)

/-- An external agent's access to data memory (R120, R121): one that waited 15 cycles stalls a running core once; an uncorrectable
word ends the channel's stream item. -/
def externalDmem (c ch : Nat) (write : Bool) (addr : Nat) (data : List Byte) (waited : Nat) (s : State) : State :=
  let s1 := if 15 ≤ waited ∧ coreState s c = cRunning then
      (s.addWrap (R.CLO_PERF_EXT c) F.CLO_PERF_EXT_CNT 1).addWrap (R.CLO_PERF_CYC c) F.CLO_PERF_CYC_CNT 1 else s
  let x := s1.core c
  let bad := if write then mergeBad x addr data.length else (dmemRead x addr data.length 1).toOption.isNone
  if dmemSize < addr + data.length then s1
  else if bad then
    if (s1.chan ch).phase = .idle then s1 else chanEnd ch stMem (unitDetail kCore c 0) s1
  else if write then s1.setCore c (dmemStore x addr data)
  else s1

def execExternalDmemAccess (core : Fin 16) (chan : Fin 192) (write : Bool) (addr : BitVec 19) (data : List Byte) (waited : BitVec 4)
    (s : State) : Host.Outcome State Fault Refusal :=
  .next (externalDmem core.val chan.val write addr.toNat data waited.toNat s)

/-! ### CLO_CTL (R558, R478) -/

/-- A core at its bundle boundary: after EN = 0 it enters RESET, its item ABORTED; after HALT it enters HALTED. -/
def coreStop (c : Nat) (s : State) : State :=
  let st := coreState s c
  if (s.core c).stopping ∧ (st = cRunning ∨ st = cHalted) then
    let s1 := setCoreState c cReset (s.setCore c { s.core c with stopping := false, halting := false, wait := none })
    match (s1.core c).item with
    | none => s1
    | some id => failTask id stAborted (unitDetail kCore c 0) s1
  else if (s.core c).halting ∧ st = cRunning then setCoreState c cHalted (s.setCore c { s.core c with halting := false })
  else s

def execCoreStop (core : Fin 16) (s : State) : Host.Outcome State Fault Refusal := .next (coreStop core.val s)

/-- A FAULTED core is cleared: RESET with EN = 0. -/
def coreClear (c : Nat) (s : State) : State :=
  if coreState s c = cFaulted then setCoreState c cReset (s.setFlag (R.CLO_CTL c) F.CLO_CTL_EN false) else s

def coreEnBit (c : Nat) (en : Bool) (s : State) : State :=
  let st := coreState s c
  if en then
    if st = cReset ∧ coreUp s c ∧ !(s.core c).zeroing then
      setCoreState c cRunning (s.setCore c ((s.core c).start (s.fld (R.CLO_ENTRY c) F.CLO_ENTRY_BUNDLE)))
    else s
  else if st = cRunning ∨ st = cHalted then s.setCore c { s.core c with stopping := true }
  else s

/-- A RUNNING core is to halt at its next bundle boundary. -/
def coreHaltBit (c : Nat) (s : State) : State := if coreState s c = cRunning then s.setCore c { s.core c with halting := true } else s

/-- A HALTED core issues one bundle and is HALTED again. -/
def coreStepOne (c : Nat) (s : State) : State :=
  if coreState s c = cHalted then issueAt c s else s

/-- A write to CLO_CTL. -/
def writeCloCtl (a : Agent) (c : Nat) (v : Word) (s : State) : State :=
  let off := R.CLO_CTL c
  let s1 := storeReg a off v s
  if reaches a off s then
    let s2 := coreEnBit c (F.CLO_CTL_EN.get v == 1) s1
    let ex := expertOn s 2
    let s3 := if ex ∧ F.CLO_CTL_HALT.get v = 1 then coreHaltBit c s2 else s2
    let s4 := if ex ∧ F.CLO_CTL_STEP.get v = 1 ∧ coreState s c = cHalted then coreStepOne c s3 else s3
    let s5 := if ex ∧ F.CLO_CTL_RESUME.get v = 1 ∧ coreState s c = cHalted ∧ coreState s4 c = cHalted then setCoreState c cRunning s4 else s4
    if F.CLO_CTL_CLR.get v = 1 then coreClear c s5 else s5
  else s1

def execCoreEnable (a : Agent) (core : Fin 16) (v : Word) (s : State) : Host.Outcome State Fault Refusal := .next (writeCloCtl a core.val v s)
def execCoreDisable (a : Agent) (core : Fin 16) (v : Word) (s : State) : Host.Outcome State Fault Refusal := .next (writeCloCtl a core.val v s)
def execCoreHalt (a : Agent) (core : Fin 16) (v : Word) (s : State) : Host.Outcome State Fault Refusal := .next (writeCloCtl a core.val v s)
def execCoreStep (a : Agent) (core : Fin 16) (v : Word) (s : State) : Host.Outcome State Fault Refusal := .next (writeCloCtl a core.val v s)
def execCoreResume (a : Agent) (core : Fin 16) (v : Word) (s : State) : Host.Outcome State Fault Refusal := .next (writeCloCtl a core.val v s)
def execCloClr (a : Agent) (core : Fin 16) (v : Word) (s : State) : Host.Outcome State Fault Refusal := .next (writeCloCtl a core.val v s)

/-! ### Indirect access (R149) -/

/-- CLO_IMD: a read, or a write of a word, at CLO_IMA. A write is an expert access; one while RUNNING is discarded with IMWR. -/
def imemIndirect (a : Agent) (c : Nat) (w : Option Word) (s : State) : State :=
  let off := R.CLO_IMD c
  let step (s : State) : State := s.addWrap (R.CLO_IMA c) F.CLO_IMA_ADDR 1
  match w with
  | none => if answers a off s then step s else s
  | some v =>
    let s1 := storeReg a off v s
    if reaches a off s && expertOn s 2 then
      if coreState s c = cRunning then s1.setFlag (R.CLO_STAT c) F.CLO_STAT_IMWR true
      else
        let x := s1.core c
        step (s1.setCore c { x with imem := Tab.set (fun _ => 0) x.imem (s1.fld (R.CLO_IMA c) F.CLO_IMA_ADDR) v })
    else s1

def execImemIndirectAccess (a : Agent) (core : Fin 16) (write : Option Word) (s : State) : Host.Outcome State Fault Refusal :=
  .next (imemIndirect a core.val write s)

/-- CLO_DMD at CLO_DMA. A read of an uncorrectable word returns zero and sets DMECC; a write of half such a word is not
done and does not advance CLO_DMA (R149, R557). -/
def dmemIndirect (a : Agent) (c : Nat) (w : Option Word) (s : State) : State :=
  let off := R.CLO_DMD c
  let addr := 4 * s.fld (R.CLO_DMA c) F.CLO_DMA_ADDR
  let step (s : State) : State := s.addWrap (R.CLO_DMA c) F.CLO_DMA_ADDR 1
  let x := s.core c
  match w with
  | none =>
    if answers a off s then
      step (if (dmemRead x addr 4 4).toOption.isNone then s.setFlag (R.CLO_STAT c) F.CLO_STAT_DMECC true else s)
    else s
  | some v =>
    let s1 := storeReg a off v s
    if reaches a off s && expertOn s 2 then
      if mergeBad x addr 4 then s1.setFlag (R.CLO_STAT c) F.CLO_STAT_DMECC true
      else step (s1.setCore c (dmemStore x addr (leBytes 4 v.toNat)))
    else s1

def execDmemIndirectAccess (a : Agent) (core : Fin 16) (write : Option Word) (s : State) : Host.Outcome State Fault Refusal :=
  .next (dmemIndirect a core.val write s)

/-- CHM_CORE_SIG: MBX of each core named (R139). -/
def coreSig (a : Agent) (v : Word) (s : State) : State :=
  let s1 := storeReg a R.CHM_CORE_SIG v s
  if reaches a R.CHM_CORE_SIG s then
    ((List.range 16).filter (bitOf (F.CHM_CORE_SIG_CORES.get v))).foldl (fun s c => setEvp c 17 s) s1
  else s1

def execChmCoreSig (a : Agent) (v : Word) (s : State) : Host.Outcome State Fault Refusal := .next (coreSig a v s)

end Sys2Proof.Machine
end

