-- ==== Sys2Proof/Machine/Frame.lean ====
section
/-! DEFINITION. Ethernet frames as the Fronthaul Switch reads and writes them: FCS, the VLAN tag, eCPRI and O-RAN headers, block floating
point, PTP messages (R352, R354-R356, R364-R371, R65-R67). Network fields are big-endian. The bit places of the O-RAN and PTP headers
are those of the standards the manual names (log entry 20: PRESUMED). -/

namespace Sys2Proof.Machine

/-! ### Big-endian fields and CRC-32 -/

def beNat (bs : List Byte) : Nat := bs.foldl (fun n b => 256 * n + b.toNat) 0
def beField (bs : List Byte) (a n : Nat) : Nat := beNat ((bs.drop a).take n)
def beOut (n v : Nat) : List Byte := (leBytes n v).reverse
def putBe (bs : List Byte) (a n v : Nat) : List Byte := bs.take a ++ beOut n v ++ bs.drop (a + n)

def crc32Bit (c : Nat) (b : Bool) : Nat := if (c % 2 == 1) != b then Nat.xor (c / 2) 0xEDB88320 else c / 2
def crc32Byte (c : Nat) (b : Byte) : Nat := ((List.range 8).map fun i => bitOf b.toNat i).foldl crc32Bit c
/-- The IEEE 802.3 CRC-32. -/
def crc32 (bs : List Byte) : Nat := Nat.xor (bs.foldl crc32Byte 0xFFFFFFFF) 0xFFFFFFFF

/-- The FCS of a frame, as sent. -/
def fcs (bs : List Byte) : List Byte := leBytes 4 (crc32 bs)
/-- A frame with its FCS: the FCS is right. -/
def fcsOk (bs : List Byte) : Bool := bs.drop (bs.length - 4) == fcs (bs.take (bs.length - 4))

/-! ### Addresses and the tag -/

def frDst (f : List Byte) : Nat := beField f 0 6
def frSrc (f : List Byte) : Nat := beField f 6 6
/-- Group bit of an address: multicast or broadcast. -/
def isGroup (mac : Nat) : Bool := bitOf mac 40

def frTagged (f : List Byte) : Bool := beField f 12 2 == 0x8100
def frTci (f : List Byte) : Nat := beField f 14 2
/-- Where the Ethertype after any tag lies. -/
def frTypeAt (f : List Byte) : Nat := if frTagged f then 16 else 12
def frType (f : List Byte) : Nat := beField f (frTypeAt f) 2
/-- The bytes after the Ethertype. -/
def frBody (f : List Byte) : List Byte := f.drop (frTypeAt f + 2)

/-- A frame without its tag, and one tagged with a TCI. -/
def untag (f : List Byte) : List Byte := if frTagged f then f.take 12 ++ f.drop 16 else f
def retag (f : List Byte) (tci : Nat) : List Byte := f.take 12 ++ [0x81, 0x00] ++ beOut 2 tci ++ (untag f).drop 12

/-! ### eCPRI and O-RAN (R364-R371) -/

def ecRev (b : List Byte) : Nat := beField b 0 1 / 16
def ecConcat (b : List Byte) : Bool := bitOf (beField b 0 1) 0
def ecType (b : List Byte) : Nat := beField b 1 1
def ecSize (b : List Byte) : Nat := beField b 2 2
def ecPcId (b : List Byte) : Nat := beField b 4 2
/-- The message is one the switch handles: revision 1, no concatenation (R364). -/
def ecHandled (b : List Byte) : Bool := ecRev b == 1 && !ecConcat b && (ecType b == 0 || ecType b == 2)
/-- The payload size matches the frame: equal, or shorter in a frame padded to the minimum. -/
def ecSizeOk (f : List Byte) (b : List Byte) : Bool := b.length == ecSize b + 4 || (f.length ≤ 60 && ecSize b + 4 ≤ b.length)

/-- The application header of a U-plane message: frame, subframe, slot, symbol. -/
structure UpHdr where
  frame : Nat
  sub   : Nat
  slot  : Nat
  sym   : Nat
  deriving DecidableEq, Repr

def upHdr (b : List Byte) : UpHdr :=
  let w := beField b 10 2
  { frame := beField b 9 1, sub := w / 4096, slot := bitsOf w 11 6, sym := bitsOf w 5 0 }

/-- A section header: every other PRB, symbol increment, first PRB, number of PRBs. -/
structure SecHdr where
  rb    : Bool
  inc   : Bool
  start : Nat
  num   : Nat
  deriving DecidableEq, Repr

def secHdr (x : List Byte) : SecHdr :=
  let w := beField x 0 4
  { rb := bitOf w 19, inc := bitOf w 18, start := bitsOf w 17 8, num := bitsOf w 7 0 }

/-- PRBs of a section; a number of 0 names the whole carrier. -/
def secPrbs (h : SecHdr) : Nat := if h.num = 0 then 273 else h.num
def secStep (h : SecHdr) : Nat := if h.rb then 2 else 1

/-- Width and method of a flow's or section's compression; width 16 without. -/
def compOf (comp : Nat) : Nat := if comp = 1 then 9 else if comp = 2 then 12 else if comp = 3 then 14 else 16

/-- The width of a dynamic udCompHdr, if it is supported: method 0 with 16 bits, method 1 with 9, 12 or 14 (R364). -/
def dynWidth (hdr : Nat) : Option Nat :=
  let w := if hdr / 16 = 0 then 16 else hdr / 16
  if hdr % 16 = 0 ∧ w = 16 then some 16 else if hdr % 16 = 1 ∧ (w = 9 ∨ w = 12 ∨ w = 14) then some w else none

/-- Bytes of one PRB on the wire. -/
def prbBytes (w : Nat) : Nat := if w = 16 then 48 else 1 + 3 * w

/-- 24 values of w bits, most significant first. -/
def unpack (w : Nat) (bs : List Byte) : List Int :=
  let n := beNat bs
  (List.range 24).map fun i => signed w (n / 2 ^ (w * (23 - i)) % 2 ^ w)

def pack (w : Nat) (vs : List Int) : List Byte := beOut (3 * w) (vs.foldl (fun n v => 2 ^ w * n + unsigned w v) 0)

def satIQ (v : Int) : Int := clampInt (-32768) 32767 v

/-- Decompress one PRB into 48 bytes of samples (R370). -/
def prbDecode (w : Nat) (bs : List Byte) : List Byte :=
  let vs := if w = 16 then unpack 16 (bs.take 48) else
    (unpack w ((bs.drop 1).take (3 * w))).map fun m => satIQ (m * 2 ^ (beField bs 0 1 % 16))
  vs.flatMap fun v => leBytes 2 (unsigned 16 v)

/-- ⌊(v + 2^(e-1)) / 2^e⌋ (R371). -/
def bfpRound (e : Nat) (v : Int) : Int := if e = 0 then v else (v + 2 ^ (e - 1)) / 2 ^ e

def bfpFits (w e : Nat) (vs : List Int) : Bool :=
  vs.all fun v => decide (-(2 ^ (w - 1) : Int) ≤ bfpRound e v) && decide (bfpRound e v ≤ 2 ^ (w - 1) - 1)

/-- The smallest exponent that fits (R371). -/
def bfpExp (w : Nat) (vs : List Int) : Nat := ((List.range 16).find? fun e => bfpFits w e vs).getD 15

/-- Compress one PRB of 24 samples. -/
def prbEncode (w : Nat) (bs : List Byte) : List Byte :=
  let vs := unpack 16 (bs.take 48)
  let e := bfpExp w vs
  leBytes 1 e ++ pack w (vs.map (bfpRound e))

def prbsEncode (w : Nat) : Nat → List Byte → List Byte
  | 0, _ => []
  | n + 1, bs => prbEncode w bs ++ prbsEncode w n (bs.drop 48)

/-- Compress every section of a U-plane message's section part; `dyn` when each section has a udCompHdr of two bytes. -/
def secsEncode (w : Nat) (dyn : Bool) : Nat → List Byte → List Byte
  | 0, _ => []
  | fuel + 1, x =>
    if x.length < 4 then []
    else
      let h := secHdr x
      let hl := if dyn then 6 else 4
      let n := Nat.min (secPrbs h) ((x.length - hl) / 48)
      x.take 4 ++ (if dyn then [BitVec.ofNat 8 (16 * w + 1), 0] else []) ++ prbsEncode w n (x.drop hl) ++
        secsEncode w dyn fuel (x.drop (hl + 48 * n))

/-- A downlink U-plane frame with its PRBs compressed and its payload size recomputed (R371). -/
def compressFrame (w : Nat) (dyn : Bool) (f : List Byte) : List Byte :=
  let b := frBody f
  let secs := secsEncode w dyn (b.length / 4 + 1) ((b.take (ecSize b + 4)).drop 12)
  f.take (frTypeAt f + 2) ++ putBe (b.take 12) 2 2 (8 + secs.length) ++ secs

/-! ### PTP (R65-R67) -/

/-- Where the PTP message of a frame starts, and whether it is carried over UDP: Ethertype 0x88F7, or UDP port 319 or 320. -/
def ptpAt (f : List Byte) : Option (Nat × Option Nat) :=
  let o := frTypeAt f + 2
  if frType f = 0x88F7 then some (o, none)
  else
    let udp (u : Nat) : Option (Nat × Option Nat) :=
      if beField f (u + 2) 2 = 319 ∨ beField f (u + 2) 2 = 320 then some (u + 8, some u) else none
    if frType f = 0x0800 ∧ beField f (o + 9) 1 = 17 then udp (o + 4 * (beField f o 1 % 16))
    else if frType f = 0x86DD ∧ beField f (o + 6) 1 = 17 then udp (o + 40)
    else none

def ptpType (f : List Byte) (m : Nat) : Nat := beField f m 1 % 16

/-- An event message: message types 0 to 3. -/
def ptpEvent (f : List Byte) : Bool :=
  match ptpAt f with
  | some (m, u) => ptpType f m < 4 && (match u with
    | some u => beField f (u + 2) 2 == 319
    | none => true)
  | none => false

/-- The one's complement sum of 16-bit words, folded. -/
def onesSum : Nat → List Byte → Nat
  | 0, _ => 0
  | n + 1, bs => if bs.isEmpty then 0 else beNat (fit 2 (bs.take 2)) + onesSum n (bs.drop 2)
def fold16 (n : Nat) : Nat := let a := n / 65536 + n % 65536; a / 65536 + a % 65536

/-- Recompute the UDP checksum of a frame whose UDP header lies at u. -/
def fixUdp (f : List Byte) (u : Nat) : List Byte :=
  let o := frTypeAt f + 2
  let addrs := if frType f = 0x0800 then (f.drop (o + 12)).take 8 else (f.drop (o + 8)).take 32
  let len := beField f (u + 4) 2
  let g := putBe f (u + 6) 2 0
  let sum := fold16 (onesSum 65536 (addrs ++ beOut 2 17 ++ beOut 2 len ++ (g.drop u).take len))
  let c := 0xFFFF - sum % 65536
  putBe g (u + 6) 2 (if c = 0 then 0xFFFF else c)

/-- ONE_STEP (R67): the egress time into a Sync's originTimestamp, or the residence time into a Pdelay_Resp's correctionField. -/
def oneStep (f : List Byte) (egress ingress : Tod) : List Byte :=
  match ptpAt f with
  | none => f
  | some (m, u) =>
    let g :=
      if ptpType f m = 0 then putBe (putBe f (m + 34) 6 egress.sec) (m + 40) 4 egress.ns
      else if ptpType f m = 3 then
        let res : Int := ((egress.sec : Int) - ingress.sec) * 1000000000 + ((egress.ns : Int) - ingress.ns)
        putBe f (m + 8) 8 (unsigned 64 (signed 64 (beField f (m + 8) 8) + res * 65536))
      else f
    match u with
    | some u => fixUdp g u
    | none => g

end Sys2Proof.Machine
end

