-- ==== Sys2Proof/Machine/Seq.lean ====
section
/-! DEFINITION. The sequence unit (09_sequence_state): the sequence table, groups and pages, OPEN and CLOSE, appends, step blocks and
continuous batching. -/

namespace Sys2Proof.Machine

/-! ### Groups (R282-R286) -/

/-- A sequence group as its registers hold it. -/
structure Group where
  valid  : Bool
  list   : Bool
  ring   : Bool
  layers : Nat
  layb   : Nat
  owner  : Nat
  deriving DecidableEq, Repr

def groupOf (s : State) (g : Nat) : Group :=
  let c := R.SEQ_GRP_CFG g
  { valid := s.flag c F.SEQ_GRP_CFG_VALID, list := s.flag c F.SEQ_GRP_CFG_MODE, ring := s.flag c F.SEQ_GRP_CFG_USE,
    layers := s.fld c F.SEQ_GRP_CFG_LAYERS + 1, layb := 64 * s.fld c F.SEQ_GRP_CFG_LAYB,
    owner := if s.flag (R.SEQ_GRP_OWN g) F.SEQ_GRP_OWN_PF then 16 else s.fld (R.SEQ_GRP_OWN g) F.SEQ_GRP_OWN_VI }

/-- P of R283. -/
def Group.perPage (g : Group) : Nat := 65536 / g.layb

/-- R284. -/
def capacity (g : Group) (e : List Byte) : Nat := Nat.min 131072 (seqCap e / g.layers * g.perPage)

/-- A write of a group's configuration: VALID is set only when a SLOT group is PF-owned and LAYB is in range (R282). -/
def writeGroup (a : Agent) (g : Nat) (v : Word) (s : State) : State :=
  let off := R.SEQ_GRP_CFG g
  let s1 := storeReg a off v s
  if reaches a off s && F.SEQ_GRP_CFG_VALID.get v == 1 then
    let x := groupOf s1 g
    let n := F.SEQ_GRP_CFG_LAYB.get v
    if (!x.ring && x.owner != 16) || n = 0 || 1024 < n then
      (s1.setFlag off F.SEQ_GRP_CFG_VALID false).setFlag R.SEQ_ERR F.SEQ_ERR_GRP_CFG true
    else s1
  else s1

def execSeqGroupConfig (a : Agent) (g : Fin 64) (v : Word) (s : State) : Host.Outcome State Fault Refusal :=
  .next (writeGroup a g.val v s)

/-! ### The table (R280, R281) -/

def tblSize (s : State) : Nat := (s.reg R.SEQ_TBL_SIZE).toNat

def seqAddr (s : State) (i : Nat) : Nat := s.pair R.SEQ_TBL_LO R.SEQ_TBL_HI + 32 * i

/-- The table is in use: SEQ_CTL.EN is 1 (R280, R307). -/
def tblOn (s : State) : Bool := s.flag R.SEQ_CTL F.SEQ_CTL_EN

/-- Read an entry afresh (R281). -/
def seqRead (i : Nat) (s : State) : State × Except AccErr (List Byte) := vaRead 16 (seqAddr s i) 32 s

/-- Write a field of an entry: what landed, and how it failed. -/
def seqWrite (i a n v : Nat) (s : State) : State × Option AccErr := vaWrite 16 (seqAddr s i + a) (leBytes n v) s

/-- Write a field; a failure only reports its fault. -/
def seqPut (i a n v : Nat) (s : State) : State :=
  match seqWrite i a n v s with
  | (s1, none) => s1
  | (s1, some e) => noteErr 16 (Config.agentCode 0 0) e s1

def seqFree : Nat := 0
def seqActive : Nat := 1
def seqClosing : Nat := 2
def seqClosed : Nat := 3

/-- The item number below which items still use a CLOSING sequence (R289). -/
def closedAt (s : State) (i : Nat) : Option Nat := Tab.get (fun _ => none) s.seq.closing i

/-- A sequence is ACTIVE for a ring item: ACTIVE, or CLOSING since after the item was accepted (R289). -/
def usableBy (s : State) (i : Nat) (e : List Byte) (item : Nat) : Bool :=
  tblOn s && i < tblSize s && (seqState e == seqActive || (seqState e == seqClosing && (match closedAt s i with
    | some n => item < n
    | none => false)))

/-! ### Commands (R288-R290, R316) -/

def seqOk : Nat := 0
def seqNotFree : Nat := 1
def seqBadEntry : Nat := 2
def seqBadGroup : Nat := 3
def seqOutOfRange : Nat := 4
def seqNotActive : Nat := 5
def seqBadOp : Nat := 6

/-- The command and status registers of an issuer: SEQ_CMD, or the VIS page of a function. -/
def seqCmdReg : Option Nat → Nat
  | none => R.SEQ_CMD
  | some f => R.VIS_SEQ_CMD (visPage f)
def seqStatReg : Option Nat → Nat
  | none => R.SEQ_CMD_STAT
  | some f => R.VIS_SEQ_CMD_STAT (visPage f)
def pageNo : Option Nat → Nat
  | none => 17
  | some f => f

def seqResult (page : Option Nat) (busy : Bool) (res : Nat) (s : State) : State :=
  let r := seqStatReg page
  (s.setFlag r F.SEQ_CMD_STAT_BUSY busy).setFld r F.SEQ_CMD_STAT_RESULT res

/-- CAP, BASE and LEN of an entry are good for its group (R284-R286, R288). -/
def entryGood (g : Group) (e : List Byte) : Bool :=
  1 ≤ seqCap e && seqCap e ≤ (if g.list then 32768 else 4096) && seqBase e % (if g.list then 64 else 65536) == 0 &&
  seqLen e ≤ capacity g e

/-- OPEN (R288): FULL, BIND cleared, LAST_STEP set, ACTIVE. -/
def seqOpenCmd (page : Option Nat) (i : Nat) (s : State) : State :=
  let issuer := page.getD 16
  if !(i < tblSize s) then seqResult page false seqOutOfRange s
  else
    match seqRead i s with
    | (s1, .error e) => seqResult page false seqBadEntry (noteErr 16 (Config.agentCode 0 0) e s1)
    | (s1, .ok e) =>
      let g := groupOf s1 (seqGroup e)
      if !(seqState e == seqFree || seqState e == seqClosed) then seqResult page false seqNotFree s1
      else if !(g.valid && g.owner == issuer) then seqResult page false seqBadGroup s1
      else if !entryGood g e then seqResult page false seqBadEntry s1
      else
        let s2 := seqPut i 6 1 0 s1
        seqResult page false seqOk (seqPut i 4 1 seqActive (seqPut i 24 4 0xFFFFFFFF (seqPut i 20 1 0 s2)))

/-- CLOSE (R289): CLOSING at once, BUSY until the last user is done. Through a VIS page the group must be the function's (R316). -/
def seqCloseCmd (page : Option Nat) (i : Nat) (s : State) : State :=
  if !(i < tblSize s) then seqResult page false seqOutOfRange s
  else
    match seqRead i s with
    | (s1, .error e) => seqResult page false seqNotActive (noteErr 16 (Config.agentCode 0 0) e s1)
    | (s1, .ok e) =>
      let foreign := match page with
        | none => false
        | some f => (groupOf s1 (seqGroup e)).owner != f
      if foreign then seqResult page false seqBadGroup s1
      else if seqState e != seqActive then seqResult page false seqNotActive s1
      else
        let s2 := seqResult page true seqOk (seqPut i 4 1 seqClosing s1)
        { s2 with seq := { s2.seq with closes := Tab.set (fun _ => none) s2.seq.closes (pageNo page) (some i),
                                       closing := Tab.set (fun _ => none) s2.seq.closing i (some s2.host.nextId) } }

/-- A write to a sequence command register. -/
def writeSeqCmd (a : Agent) (page : Option Nat) (v : Word) (s : State) : State :=
  let off := seqCmdReg page
  let op := F.SEQ_CMD_OP.get v
  let i := F.SEQ_CMD_INDEX.get v
  if reaches a off s && bitOf v.toNat 31 then
    if s.flag (seqStatReg page) F.SEQ_CMD_STAT_BUSY then s.setFlag R.SEQ_ERR F.SEQ_ERR_CMD_BUSY true
    else
      let s1 := storeReg a off v s
      if op = 0 then seqOpenCmd page i s1 else if op = 1 then seqCloseCmd page i s1 else seqResult page false seqBadOp s1
  else storeReg a off v s

def pageOf (p : Option (Fin 17)) : Option Nat := p.map (·.val)

def execSeqOpen (a : Agent) (page : Option (Fin 17)) (v : Word) (s : State) : Host.Outcome State Fault Refusal :=
  .next (writeSeqCmd a (pageOf page) v s)
def execSeqClose (a : Agent) (page : Option (Fin 17)) (v : Word) (s : State) : Host.Outcome State Fault Refusal :=
  .next (writeSeqCmd a (pageOf page) v s)
def execSeqBadOp (a : Agent) (page : Option (Fin 17)) (v : Word) (s : State) : Host.Outcome State Fault Refusal :=
  .next (writeSeqCmd a (pageOf page) v s)

/-- The sequence indices a step block names; none when they cannot be read. -/
def stepSeqs (s : State) (it : RItem) : List Nat :=
  match vaRead it.func (stepBlockAddr it.desc) 64 s with
  | (_, .error _) => []
  | (_, .ok b) =>
    match vaRead it.func (sbSeq b) (4 * sbN b) s with
    | (_, .error _) => []
    | (_, .ok l) => (List.range (sbN b)).map fun i => fieldAt l (4 * i) 4 % 2 ^ 20

/-- Does an item accepted before item number n still reference the sequence (R289)? -/
def seqInUse (s : State) (i n : Nat) : Bool :=
  (s.host.items.any fun it => it.id < n && dOpcode it.desc == 2 && (stepSeqs s it).contains i) ||
  ((List.range 16).any fun c => (s.cell c).slots.any fun y => y.items.any fun it => it.active && itSeq it.ent == i &&
    (fwLive it || s.host.formed.any fun x => x.append && x.slot == some (c, y.epoch, it.idx)))

/-- The last item that references a CLOSING sequence has completed: CLOSED (R289). -/
def seqCloseEnd (page : Option Nat) (s : State) : State :=
  match Tab.get (fun _ => none) s.seq.closes (pageNo page) with
  | none => s
  | some i =>
    if seqInUse s i ((closedAt s i).getD 0) then s
    else
      let s1 := seqResult page false seqOk (seqPut i 4 1 seqClosed s)
      { s1 with seq := { s1.seq with closes := Tab.set (fun _ => none) s1.seq.closes (pageNo page) none,
                                     closing := Tab.set (fun _ => none) s1.seq.closing i none } }

def execSeqCloseEnd (page : Option (Fin 17)) (s : State) : Host.Outcome State Fault Refusal := .next (seqCloseEnd (pageOf page) s)

/-! ### Records and appends (R283, R285, R286, R291) -/

/-- Logical page of token t in layer l. -/
def logicalPage (g : Group) (t l : Nat) : Nat := t / g.perPage * g.layers + l

/-- Write a token's record of one layer. -/
def writeRecord (g : Group) (e : List Byte) (t l : Nat) (rec : List Byte) (s : State) : State × Option AccErr :=
  let lp := logicalPage g t l
  let ofs := t % g.perPage * g.layb
  let bs := fit g.layb rec
  if g.list then
    match vaRead g.owner (seqBase e + 4 * lp) 4 s with
    | (s1, .error x) => (s1, some x)
    | (s1, .ok f) =>
      let pa := leNat f * 65536 + ofs
      match frameOk s1 g.owner pa g.layb with
      | some x => (s1, some x)
      | none => physWrite pa bs s1
  else vaWrite g.owner (seqBase e + lp * 65536 + ofs) bs s

/-- The records of one layer for n tokens from t on. -/
def writeLayer (g : Group) (e : List Byte) (t l : Nat) : Nat → List Byte → State → State × Option AccErr
  | 0, _, s => (s, none)
  | n + 1, bs, s =>
    match writeRecord g e t l (bs.take g.layb) s with
    | (s1, some x) => (s1, some x)
    | (s1, none) => writeLayer g e (t + 1) l n (bs.drop g.layb) s1

def writeLayers (g : Group) (e : List Byte) (t n : Nat) : Nat → List (List Byte) → State → State × Option AccErr
  | _, [], s => (s, none)
  | l, bs :: rest, s =>
    match writeLayer g e t l n bs s with
    | (s1, some x) => (s1, some x)
    | (s1, none) => writeLayers g e t n (l + 1) rest s1

/-- An append of n tokens after token t: every record in every layer, then LEN in one write (R291). -/
def appendTokens (i : Nat) (g : Group) (e : List Byte) (t n : Nat) (recs : List (List Byte)) (s : State) : State × Option AccErr :=
  match writeLayers g e t n 0 ((recs ++ List.replicate g.layers []).take g.layers) s with
  | (s1, some x) => (noteErr g.owner (Config.agentCode 0 0) x s1, some x)
  | (s1, none) =>
    match seqWrite i 0 4 (t + n) s1 with
    | (s2, some x) => (noteErr 16 (Config.agentCode 0 0) x s2, some x)
    | (s2, none) => (s2.addWrap R.SEQ_CNT_APPEND F.SEQ_CNT_APPEND_CNT 1, none)

/-! ### Steps (R296-R304) -/

/-- The first accepted item of an SQ whose opcode has not been taken up, when its fence allows (R327, R328). -/
def frontItem (s : State) (f q : Nat) : Option RItem :=
  match s.host.items.find? fun it => it.func == f && it.sq == q && !it.active with
  | none => none
  | some it => if fenceClear s it then some it else none

/-- Take up the front item of an SQ when its opcode is the command's. -/
def onItem (f q op : Nat) (s : State) (k : RItem → State → State) : State :=
  match frontItem s f q with
  | none => s
  | some it => if dOpcode it.desc = op then k { it with active := true } (updItem it.id (fun x => { x with active := true }) s) else s

/-- A ring item ends by an access its own command made. -/
def failItem (it : RItem) (e : AccErr) (s : State) : State :=
  finish it.id e.status (if e.status = stTrans then unitDetail kMmu 0 e.reason else unitDetail 0 0 e.reason)
    (noteErr it.func (Config.agentCode 0 0) e s)

/-- Read the step block of an item, and check its own fields (R296, R297). -/
def stepSubmit (it : RItem) (s : State) : State :=
  if stepBlockAddr it.desc % 64 ≠ 0 then finish it.id stRejected 0 s
  else
    match vaRead it.func (stepBlockAddr it.desc) 64 s with
    | (s1, .error e) => failItem it e s1
    | (s1, .ok b) =>
      let own := s1.reg (R.SEQ_BCTX_OWN (sbCtx b))
      if stepBlockOk b && (if bitOf own.toNat 4 then 16 else bitsOf own.toNat 3 0) == it.func then
        updItem it.id (fun x => { x with image := Config.imageDigest it.func (sbTask b) }) s1
      else finish it.id stRejected 0 s1

def execStep (f : Fin 17) (q : Fin 8) (s : State) : Host.Outcome State Fault Refusal := .next (onItem f.val q.val 2 s stepSubmit)

def ctxOf (s : State) (it : RItem) : Option (Nat × List Byte) :=
  match vaRead it.func (stepBlockAddr it.desc) 64 s with
  | (_, .ok b) => some (sbCtx b, b)
  | _ => none

def stepRun (s : State) (b : Nat) : Option StepRun := Tab.get (fun _ => none) s.seq.runs b
def setRun (b : Nat) (r : Option StepRun) (s : State) : State :=
  { s with seq := { s.seq with runs := Tab.set (fun _ => none) s.seq.runs b r } }

/-- The next submitted step of a context, in the order of acceptance (R299). -/
def nextStep (s : State) (b : Nat) : Option (RItem × List Byte) :=
  s.host.items.findSome? fun it =>
    if it.active && dOpcode it.desc == 2 then
      match ctxOf s it with
      | some (c, blk) => if c = b then some (it, blk) else none
      | none => none
    else none

/-- Row ranges of two entries overlap. -/
def rowsMeet : List (Nat × Nat) → Bool
  | [] => false
  | (o, n) :: t => t.any (fun p => o < p.1 + p.2 && p.1 < o + n) || rowsMeet t

def hasDup : List Nat → Bool
  | [] => false
  | x :: t => t.contains x || hasDup t

/-- The lists of a step are good (R297). -/
def stepListsOk (b : List Byte) (seqs : List Nat) (lens : List (Nat × Nat)) : Bool :=
  !hasDup seqs && lens.all (fun p => p.1 ≤ 131072 && (p.1 == 0 || p.2 + p.1 ≤ sbRows b)) &&
  !rowsMeet ((lens.filter (·.1 != 0)).map fun p => (p.2, p.1))

/-- Is the step saturated, and what its joiners have used (R301). -/
structure Admit where
  saturated : Bool
  anyCont   : Bool
  joiners   : Nat := 0
  cost      : Nat := 0
  ents      : List StepEnt := []
  full      : List Nat := []

/-- The checks of R298 on one entry, with its sequence's entry. `none`: valid. -/
def entryReject (s : State) (b : Nat) (owner item : Nat) (append : Bool) (i len : Nat) (e : List Byte) : Bool :=
  let g := groupOf s (seqGroup e)
  !usableBy s i e item || !g.valid || g.owner != owner ||
  (append && (!g.ring || (seqBound e && seqCtx e != b) || capacity g e < seqLen e + len))

/-- Is the entry continuing (R300)? -/
def isCont (step : Nat) (e : List Byte) : Bool := seqLast e + 1 == step

/-- Decide one entry's admission (R298-R303). -/
def admitOne (s : State) (b step owner item : Nat) (append : Bool) (a : Admit) (x : Nat × (Nat × Nat) × Except AccErr (List Byte)) : Admit :=
  let i := x.1
  let len := x.2.1.1
  let put (st : Nat) (adm join : Bool) (snap : Nat) : List StepEnt := a.ents ++ [⟨i, len, x.2.1.2, snap, st, adm, join⟩]
  match x.2.2 with
  | .error e => { a with ents := put (if i < tblSize s then e.status else stRejected) false false 0 }
  | .ok e =>
    let g := groupOf s (seqGroup e)
    if entryReject s b owner item append i len e then
      let past := append && usableBy s i e item && g.valid && g.owner == owner && g.ring && !(seqBound e && seqCtx e != b)
      { a with ents := put stRejected false false (seqLen e), full := if past then a.full ++ [i] else a.full }
    else if len = 0 then { a with ents := put stDone false false (seqLen e) }
    else if isCont step e then { a with ents := put stDone true false (seqLen e) }
    else
      let cost := (seqLen e + len) * g.layers * g.layb
      let first := a.saturated && !a.anyCont && a.joiners == 0
      let fits := a.joiners + 1 ≤ s.fld (R.SEQ_BCTX_CTL b) F.SEQ_BCTX_CTL_JOIN_CAP &&
        a.cost + cost ≤ s.fld (R.SEQ_BCTX_BUDGET b) F.SEQ_BCTX_BUDGET_UNITS * 4096
      if !a.saturated || first || fits then
        { a with ents := put stDone true true (seqLen e), joiners := a.joiners + 1, cost := a.cost + cost }
      else { a with ents := put stFlushed false false (seqLen e) }

/-- Read every sequence's entry. -/
def readEntries : List Nat → State → State × List (Except AccErr (List Byte))
  | [], s => (s, [])
  | i :: is, s =>
    let r := if i < tblSize s then seqRead i s else (s, .error { status := stRejected })
    let t := readEntries is (match r.2 with
      | .error e => noteErr 16 (Config.agentCode 0 0) e r.1
      | .ok _ => r.1)
    (t.1, r.2 :: t.2)

/-- What admission writes to an admitted sequence: LAST_STEP, and BIND for an append. -/
def noteAdmitted (b step : Nat) (append : Bool) (s : State) (e : StepEnt) : State :=
  if e.admitted then
    let s1 := seqPut e.seq 24 4 step s
    if append then seqPut e.seq 20 1 (0x80 + b) s1 else s1
  else s

/-- The step's input digest: the input rows of its admitted entries in order (R435). -/
def stepInputs (it : RItem) (blk : List Byte) (ents : List StepEnt) (s : State) : State × Option AccErr × List Byte :=
  ents.foldl (fun r e =>
    match r with
    | (s, some x, bs) => (s, some x, bs)
    | (s, none, bs) =>
      if e.admitted then
        match vaRead it.func (sbIn blk + e.ofs * sbInRow blk) (e.len * sbInRow blk) s with
        | (s1, .error x) => (s1, some x, bs)
        | (s1, .ok d) => (s1, none, bs ++ d)
      else r) (s, none, [])

/-- Begin a step whose lists are read: sample SEQ_OCC, decide admission, count (R299-R303, R451). -/
def beginStep (b : Nat) (it : RItem) (blk : List Byte) (seqs : List Nat) (lens : List (Nat × Nat)) (s : State) : State :=
  let step := (s.reg (R.SEQ_BCTX_STEP b)).toNat + 1
  let d := s.draw
  let occ := (Config.readOccupancy d.1).val
  let s1 := (d.2.setFld R.SEQ_OCC F.SEQ_OCC_PCT occ).setReg (R.SEQ_BCTX_STEP b) (BitVec.ofNat 32 step)
  let r := readEntries seqs s1
  let s2 := r.1
  let xs := List.zip seqs (List.zip lens r.2)
  let sat := s2.fld R.SEQ_SAT F.SEQ_SAT_THR ≤ occ && !twinRunning s2
  let anyCont := xs.any fun x => match x.2.2 with
    | .ok e => x.2.1.1 != 0 && isCont step e && !entryReject s2 b it.func it.id (sbAppend blk) x.1 x.2.1.1 e
    | .error _ => false
  let a := xs.foldl (admitOne s2 b step it.func it.id (sbAppend blk)) { saturated := sat, anyCont := anyCont }
  let s3 := a.full.foldl (fun s i => seqPut i 6 1 1 s) s2
  let s4 := a.ents.foldl (noteAdmitted b step (sbAppend blk)) s3
  let adm := (a.ents.filter (·.admitted)).length
  let defer := (a.ents.filter fun e => e.status == stFlushed).length
  let s5 := (s4.addWrap (R.SEQ_BCTX_JOIN b) F.SEQ_BCTX_JOIN_CNT a.joiners).addWrap (R.SEQ_BCTX_DEFER b) F.SEQ_BCTX_DEFER_CNT defer
  let s6 := setRun b (some { item := it.id, block := blk, ents := a.ents })
    (updItem it.id (fun x => { x with started := true, detail := adm + 65536 * defer }) s5)
  if it.audit = 0 then s6
  else
    match stepInputs it blk a.ents s6 with
    | (s7, some e, _) => addOutcome it.id e.status (unitDetail kMmu 0 e.reason) (noteErr it.func (Config.agentCode 0 0) e s7)
    | (s7, none, bs) => updItem it.id (fun x => { x with inputs := sha256 bs }) s7

/-- A context's next step begins (R299). -/
def stepBegin (b : Nat) (s : State) : State :=
  match stepRun s b, nextStep s b with
  | none, some (it, blk) =>
    match vaRead it.func (sbSeq blk) (4 * sbN blk) s with
    | (s1, .error e) => failItem it e s1
    | (s1, .ok sq) =>
      match vaRead it.func (sbLen blk) (8 * sbN blk) s1 with
      | (s2, .error e) => failItem it e s2
      | (s2, .ok ln) =>
        let seqs := (List.range (sbN blk)).map fun i => fieldAt sq (4 * i) 4 % 2 ^ 20
        let lens := (List.range (sbN blk)).map fun i => (fieldAt ln (8 * i) 4, fieldAt ln (8 * i + 4) 4)
        if stepListsOk blk seqs lens then beginStep b it blk seqs lens s2 else finish it.id stRejected 0 s2
  | _, _ => s

def execStepBegin (b : Fin 64) (s : State) : Host.Outcome State Fault Refusal := .next (stepBegin b.val s)

/-- What the end of one entry has done. -/
structure EntEnd where
  status  : Nat
  flags   : Nat
  bytes   : Nat
  lenNow  : Nat
  rows    : List Byte

/-- End one entry: its output rows and its append (R291, R304, R306). -/
def endEntry (it : RItem) (blk : List Byte) (e : StepEnt) (o : EntryOut) (s : State) : State × EntEnd :=
  if !e.admitted then (s, ⟨e.status, resultFlags (e.status == stFlushed) false false false, 0, e.snap, []⟩)
  else
    let st := o.status.val
    let rows := if st = stDone then fit (e.len * sbOutRow blk) o.rows else o.rows.take (e.len * sbOutRow blk)
    match vaWrite it.func (sbOut blk + e.ofs * sbOutRow blk) rows s with
    | (s1, some x) => (noteErr it.func (Config.agentCode 0 0) x s1, ⟨x.status, resultFlags false e.joined false false, 0, e.snap, []⟩)
    | (s1, none) =>
      if st ≠ stDone then (s1, ⟨st, resultFlags false e.joined false (!rows.isEmpty), rows.length, e.snap, rows⟩)
      else if sbAppend blk then
        match seqRead e.seq s1 with
        | (s2, .error x) => (noteErr 16 (Config.agentCode 0 0) x s2, ⟨x.status, resultFlags false e.joined false (!rows.isEmpty), rows.length, e.snap, rows⟩)
        | (s2, .ok ent) =>
          let g := groupOf s2 (seqGroup ent)
          match appendTokens e.seq g ent e.snap e.len o.records s2 with
          | (s3, some x) => (s3, ⟨x.status, resultFlags false e.joined false (!rows.isEmpty), rows.length, e.snap, rows⟩)
          | (s3, none) => (s3, ⟨stDone, resultFlags false e.joined true false, rows.length + e.len * g.layers * g.layb, e.snap + e.len, rows⟩)
      else (s1, ⟨stDone, resultFlags false e.joined false false, rows.length, e.snap, rows⟩)

/-- End the entries in order; `outs` holds one outcome for each admitted entry. -/
def endEntries (it : RItem) (blk : List Byte) : List StepEnt → List EntryOut → State → State × List EntEnd
  | [], _, s => (s, [])
  | e :: es, outs, s =>
    let o := if e.admitted then outs.headD ⟨0, [], []⟩ else ⟨0, [], []⟩
    let r := endEntry it blk e o s
    let t := endEntries it blk es (if e.admitted then outs.drop 1 else outs) r.1
    (t.1, r.2 :: t.2)

/-- The result table of a step (Table SEQ-3). -/
def resultBytes (l : List (Nat × Nat × Nat)) : List Byte :=
  l.flatMap fun x => leBytes 1 x.1 ++ leBytes 1 x.2.1 ++ [0, 0] ++ leBytes 4 x.2.2

/-- A step's entries finish: results are written, then the step completes (R304). -/
def stepEnd (b : Nat) (outs : List EntryOut) (s : State) : State :=
  match stepRun s b with
  | none => s
  | some r =>
    match itemOf s r.item with
    | none => setRun b none s
    | some it =>
      let t := endEntries it r.block r.ents outs s
      let ends := t.2
      let bad := (List.zip r.ents ends).filterMap fun p =>
        if p.2.status = stDone || (!p.1.admitted && (p.2.status = stRejected || p.2.status = stFlushed)) || p.2.status = stRejected then none
        else some (p.2.status, unitDetail (if p.2.status = stTrans then kMmu else 0) 0 0)
      let bytes := (ends.map (·.bytes)).foldl (· + ·) 0
      let s1 := updItem it.id (fun x => { x with outcomes := x.outcomes ++ bad, bytes := bytes, outs := ends.flatMap (·.rows),
                                                 part := (List.zip r.ents ends).any fun p => p.1.admitted && p.2.status == stDone }) (setRun b none t.1)
      match vaWrite it.func (sbRes r.block) (resultBytes (ends.map fun x => (x.status, x.flags, x.lenNow))) s1 with
      | (s2, some e) => failItem it e s2
      | (s2, none) =>
        match itemOf s2 it.id with
        | none => s2
        | some x => formItem x s2

def execStepEnd (b : Fin 64) (outs : List EntryOut) (s : State) : Host.Outcome State Fault Refusal := .next (stepEnd b.val outs s)

/-- A step stopped as a whole reports every entry: ABORTED when it had begun, else FLUSHED (R306, R469). -/
def stopStep (it : RItem) (s : State) : State :=
  match ctxOf s it with
  | none => s
  | some (b, blk) =>
    match stepRun s b with
    | some r =>
      if r.item = it.id then
        setRun b none (deviceWrite it.func (sbRes blk) (resultBytes (r.ents.map fun e => (if e.admitted then stAborted else stFlushed, 0, e.snap))) s)
      else deviceWrite it.func (sbRes blk) (resultBytes (List.replicate (sbN blk) (stFlushed, 0, 0))) s
    | none => deviceWrite it.func (sbRes blk) (resultBytes (List.replicate (sbN blk) (stFlushed, 0, 0))) s

end Sys2Proof.Machine
end

