-- ==== Sys2Proof/Machine/Freewheel.lean ====
section
/-! DEFINITION. The Freewheel (05_freewheel_speculation) and the slot path: plans, epochs, admission, predictions, the commit test,
deadlines, appends; stage triggers and placement (R143, R206), the end of a lending (R208), errors of a tile (R212). -/

namespace Sys2Proof.Machine

/-! ### Plans (R150, R151, R207) -/

/-- A write to FWL_CELLc_NEXT_LO arms the plan, abandoning one armed earlier. -/
def planArm (a : Agent) (c : Nat) (v : Word) (s : State) : State :=
  let off := R.FWL_CELL_NEXT_LO c
  let s1 := storeReg a off v s
  if reaches a off s then s1.setCell c { s1.cell c with arm := some (s1.pair (R.FWL_CELL_NEXT_LO c) (R.FWL_CELL_NEXT_HI c), false) } else s1

def execPlanArm (a : Agent) (cell : Fin 16) (v : Word) (s : State) : Host.Outcome State Fault Refusal := .next (planArm a cell.val v s)

/-- Read the header of a plan and its stage table; none when a read fails or a field is invalid. -/
def readPlan (c addr : Nat) (s : State) : State × Option (List Byte × List (List Byte)) :=
  if addr % 64 ≠ 0 then (s, none)
  else
    match vaRead 16 addr 64 s with
    | (s1, .error e) => (noteErr 16 (Config.agentCode 0 0) e s1, none)
    | (s1, .ok h) =>
      if !planHeaderOk h c then (s1, none)
      else
        match vaRead 16 (plStageAddr h) (32 * plStages h) s1 with
        | (s2, .error e) => (noteErr 16 (Config.agentCode 0 0) e s2, none)
        | (s2, .ok t) =>
          let st := (List.range (plStages h)).map fun i => (t.drop (32 * i)).take 32
          if st.all stageOk then (s2, some (h, st)) else (s2, none)

/-- Loading a plan arms its trigger words' comparators in the cores they name (R143). -/
def armCores (e : List Byte) (s : State) : State :=
  if sgValid e then
    (List.range 16).foldl (fun s c =>
      if bitOf (sgCores e) c then s.setFld (R.CLO_STI c) F.CLO_STI_MASK (Nat.lor (s.fld (R.CLO_STI c) F.CLO_STI_MASK) (2 ^ sgCmp e)) else s) s
  else s

/-- Validation of an armed plan ends. -/
def planValidationEnd (c : Nat) (roleB : Bool) (s : State) : State :=
  match (s.cell c).arm with
  | some (addr, false) =>
    match readPlan c addr s with
    | (s1, some (_, st)) =>
      if roleB then (s1.setFlag R.FWL_ERR F.FWL_ERR_PLAN_ERR true).setCell c { s1.cell c with arm := none }
      else st.foldl (fun s e => armCores e s) (s1.setCell c { s1.cell c with arm := some (addr, true) })
    | (s1, none) => (s1.setFlag R.FWL_ERR F.FWL_ERR_PLAN_ERR true).setCell c { s1.cell c with arm := none }
  | _ => s

def execPlanValidationEnd (cell : Fin 16) (imagesUseRoleB : Bool) (s : State) : Host.Outcome State Fault Refusal :=
  .next (planValidationEnd cell.val imagesUseRoleB s)

/-! ### Settings -/

def fwSg (s : State) (c : Nat) : Nat := s.fld (R.FWL_CELL_CTL c) F.FWL_CELL_CTL_SG

/-- The shadow pool lies partly in stacks that answer no access (R523). -/
def poolOff (s : State) : Bool :=
  upperOff s && hbmSize / 2 < s.pair R.FWL_SHADOW_BASE_LO R.FWL_SHADOW_BASE_HI + 0x10000 * s.fld R.FWL_SHADOW_SIZE F.FWL_SHADOW_SIZE_BLOCKS

/-- Reserve blocks: USED rises, PEAK keeps its largest value. -/
def takeBlocks (n : Nat) (s : State) : State :=
  let u := s.fld R.FWL_STAT F.FWL_STAT_USED + n
  (s.setFld R.FWL_STAT F.FWL_STAT_USED u).setFld R.FWL_STAT F.FWL_STAT_PEAK (Nat.max u (s.fld R.FWL_STAT F.FWL_STAT_PEAK))

def countNospec (c : Nat) (s : State) : State := s.addWrap (R.FWL_CELL_CNT_NOSPEC c) F.FWL_CELL_CNT_NOSPEC_CNT 1

/-- A prediction fault (R159). -/
def predFault (c idx : Nat) (s : State) : State :=
  event 0x0040 16 (c + 65536 * idx) (s.setFlag R.FWL_ERR F.FWL_ERR_PRED_FAULT true)

/-! ### Admission (R153-R159, R293, R442, R443, R491) -/

/-- A slot item's use of its sequence: length snapshot, whether it takes an append, whether reading it failed (R292, R293). -/
structure SeqUse where
  snap   : Nat
  active : Bool
  fault  : Bool

def seqUse (i : Nat) (s : State) : State × SeqUse :=
  match seqRead i s with
  | (s1, .error e) => (noteErr 16 (Config.agentCode 0 0) e s1, ⟨0, false, true⟩)
  | (s1, .ok e) =>
    let g := groupOf s1 (seqGroup e)
    if tblOn s1 && seqState e == seqActive && g.valid && !g.ring then (s1, ⟨seqLen e, true, false⟩)
    else (s1.addWrap R.SEQ_CNT_INACTIVE F.SEQ_CNT_INACTIVE_CNT 1, ⟨0, false, false⟩)

/-- Put an item into the newest slot of a cell. -/
def pushItem (c epoch : Nat) (it : FwItem) (s : State) : State := updSlot c epoch (fun y => { y with items := y.items ++ [it] }) s

/-- Blocks that count as held: those in use; while the pair runs, every block reserved for a slot of the last two strobes (R526). -/
def heldBlocks (s : State) : Nat :=
  if twinRunning s then
    ((List.range 16).flatMap fun c => ((s.cell c).slots.filter fun y => !y.old).flatMap (·.items)).foldl (fun n it => n + it.resv) 0
  else s.fld R.FWL_STAT F.FWL_STAT_USED

/-- Admit one item: speculative when the conditions of R156 hold, else non-speculative. -/
def admitItem (c epoch idx : Nat) (ent : List Byte) (record : Option (List Byte × Nat)) (s : State) : State :=
  let ctl := R.FWL_CELL_CTL c
  let spec := s.flag ctl F.FWL_CELL_CTL_SPEC
  let u := match record with
    | some (_, n) => (s, (⟨n, true, false⟩ : SeqUse))
    | none => seqUse (itSeq ent) s
  let s1 := u.1
  let base : FwItem := { idx := idx, ent := ent, state := .nonspec, thr := s.fld (R.FWL_CELL_THR c) F.FWL_CELL_THR_THR,
                         force := s.flag ctl F.FWL_CELL_CTL_FORCE_REPLAY, spec := spec, snap := u.2.snap, active := u.2.active,
                         record := record.map (·.1) }
  let want := spec && !itNoSpec ent
  if want && u.2.fault then pushItem c epoch base (countNospec c (predFault c idx s1))
  else if want && s1.fld ctl F.FWL_CELL_CTL_MIN_HIST ≤ u.2.snap then
    if !poolOff s1 && heldBlocks s1 + itBlocks ent ≤ s1.fld R.FWL_SHADOW_SIZE F.FWL_SHADOW_SIZE_BLOCKS then
      pushItem c epoch { base with state := .predict, blocks := itBlocks ent, resv := itBlocks ent } (takeBlocks (itBlocks ent) s1)
    else pushItem c epoch base (countNospec c (s1.setFlag R.FWL_ERR F.FWL_ERR_SHADOW_FULL true))
  else pushItem c epoch base (if spec then countNospec c s1 else s1)

/-- Read one item's log record for a replay: its elements and its length snapshot (R442, R443). -/
def readRecord (s : State) (ent : List Byte) (i : Nat) : State × Except AccErr (List Byte × Nat × Nat) :=
  let list := s.pair R.CRY_RPL_LIST_LO R.CRY_RPL_LIST_HI
  let ants := if s.rfi.mode = 2 then s.fld (R.FHS_CELL_CFG (s.fld R.CRY_RPL_CTL F.CRY_RPL_CTL_CELL)) F.FHS_CELL_CFG_NANT else 4
  let syms := ((List.range 14).filter fun k => bitOf (itDmrs ent) k || bitOf (itData ent) k).length
  match vaRead 16 (list + 8 * i) 8 s with
  | (s1, .error e) => (s1, .error e)
  | (s1, .ok a) =>
    match vaRead 16 (leNat a) 64 s1 with
    | (s2, .error e) => (s2, .error e)
    | (s2, .ok h) =>
      match vaRead 16 (leNat a + 64 + fieldAt h 20 4) (syms * ants * itPrbCnt ent * 12 * 4) s2 with
      | (s3, .error e) => (s3, .error e)
      | (s3, .ok el) => (s3, .ok (el, fieldAt h 12 4, fieldAt h 8 4 % 2 ^ 20))

/-- End an item at the strobe itself. -/
def endAtStrobe (c epoch idx : Nat) (ent : List Byte) (status detail : Nat) (s : State) : State :=
  finishSlot c epoch idx status detail (pushItem c epoch { idx := idx, ent := ent, state := .nonspec } s)

/-- Take up one item of the plan at its strobe. -/
def readItem (c epoch : Nat) (replay : Bool) (idx : Nat) (ent : List Byte) (s : State) : State :=
  if !itemOk ent (tblSize s) then endAtStrobe c epoch idx ent stRejected 0 s
  else if startBlocked s (fwSg s c) then endAtStrobe c epoch idx ent stUntested 0 s
  else if replay then
    if s.fld R.CRY_RPL_N F.CRY_RPL_N_N ≤ idx then endAtStrobe c epoch idx ent stFlushed 0 s
    else
      match readRecord s ent idx with
      | (s1, .error e) =>
        endAtStrobe c epoch idx ent e.status (if e.status = stTrans then unitDetail kMmu 0 e.reason else 0) (noteErr 16 (Config.agentCode 0 0) e s1)
      | (s1, .ok (el, n, sq)) =>
        if sq = itSeq ent then admitItem c epoch idx ent (some (el, n)) s1
        else endAtStrobe c epoch idx ent stRejected 0 (s1.setFlag R.CRY_ERR F.CRY_ERR_RPL_ERR true)
  else admitItem c epoch idx ent none s

/-! ### The slot strobe (R28, R151, R153-R157) -/

/-- A dropped item counts in CNT_DROP. -/
def dropFw (c epoch idx : Nat) (s : State) : State :=
  finishSlot c epoch idx stDropped 0 (s.addWrap (R.FWL_CELL_CNT_DROP c) F.FWL_CELL_CNT_DROP_CNT 1)

/-- At the strobe of slot n+2 the items of slot n that are still live are dropped, which frees their blocks. -/
def expireSlot (c : Nat) (y : FwSlot) (s : State) : State :=
  updSlot c y.epoch (fun z => { z with old := true })
    (slotMiss c y.epoch ((y.items.filter fwLive).foldl (fun s it => dropFw c y.epoch it.idx s) s))

def expireSlots (c count : Nat) (s : State) : State :=
  dropSlots c (((s.cell c).slots.filter fun y => 2 ≤ (count + 65536 - y.epoch) % 65536).foldl (fun s y => expireSlot c y s) s)

/-- Take a plan that has been validated (R151). -/
def takePlan (c : Nat) (s : State) : State :=
  match (s.cell c).arm with
  | some (addr, true) =>
    (s.setCell c { s.cell c with arm := none, plan := some addr }).setPair (R.FWL_CELL_PLAN_LO c) (R.FWL_CELL_PLAN_HI c) addr
  | _ => s

/-- The slot number within the second. -/
def slotInSecond (s : State) (g : Nat) : Nat :=
  let x := s.gen g
  (s.bel.tod.ns + 10 ^ 9 - x.phase) % 10 ^ 9 / Nat.max 1 x.period

/-- Open the slot's epoch and read the plan in use. A plan that cannot be read takes no item (R523). -/
def openSlot (c count : Nat) (s : State) : State :=
  let s1 := s.setFld (R.FWL_CELL_EPOCH c) F.FWL_CELL_EPOCH_EPOCH count
  match (s1.cell c).plan with
  | none => s1
  | some addr =>
    match readPlan c addr s1 with
    | (s2, none) => s2.setFlag R.FWL_ERR F.FWL_ERR_PLAN_ERR true
    | (s2, some (h, st)) =>
      match vaRead 16 (plItemAddr h) (64 * plItems h) s2 with
      | (s3, .error e) => (noteErr 16 (Config.agentCode 0 0) e s3).setFlag R.FWL_ERR F.FWL_ERR_PLAN_ERR true
      | (s3, .ok t) =>
        let g := fwSg s3 c
        let replay := s3.flag R.CRY_RPL_CTL F.CRY_RPL_CTL_EN && s3.fld R.CRY_RPL_CTL F.CRY_RPL_CTL_CELL == c
        let y : FwSlot := { epoch := count, dnc := s3.pair (R.BEL_SG_DNC_LO g) (R.BEL_SG_DNC_HI g), sec := s3.bel.tod.sec, slot := slotInSecond s3 g,
                            header := h, stages := st, items := [], replay := replay, audit := s3.fld (R.CRY_CELL_AUDIT c) F.CRY_CELL_AUDIT_MODE }
        let s4 := s3.setCell c { s3.cell c with slots := (s3.cell c).slots ++ [y] }
        (List.range (plItems h)).foldl (fun s i => readItem c count replay i ((t.drop (64 * i)).take 64) s) s4

/-- The replayed slot is over at the next strobe: EN clears (R442). -/
def endReplay (c : Nat) (s : State) : State :=
  if (s.cell c).slots.getLast?.any (·.replay) then s.setFlag R.CRY_RPL_CTL F.CRY_RPL_CTL_EN false else s

/-- The slot strobe reaches the Freewheel. -/
def fwlStrobe (c : Nat) (s : State) : State :=
  let g := fwSg s c
  let n := (s.reg (R.BEL_SG_COUNT g)).toNat
  let seen := (n, s.pair (R.BEL_SG_DNC_LO g) (R.BEL_SG_DNC_HI g))
  if (s.cell c).seen = seen ∨ 2 ≤ startOf s then s
  else
    let s1 := takePlan c (endReplay c (expireSlots c (n % 65536) (s.setCell c { s.cell c with seen := seen })))
    if s1.flag R.FWL_CTL F.FWL_CTL_EN && s1.flag (R.FWL_CELL_CTL c) F.FWL_CELL_CTL_EN && !twinHalted s1 then
      openSlot c (n % 65536) s1
    else s1

def execFwlSlotStrobe (cell : Fin 16) (s : State) : Host.Outcome State Fault Refusal := .next (fwlStrobe cell.val s)

/-! ### The commit test (R162, R163) -/

/-- E and P over the elements in grid order, as FP32 codes. -/
def gridSums : List GridEl → List GridEl → Nat × Nat → Nat × Nat
  | p :: ps, m :: ms, (e, q) =>
    let w (x : BitVec 16) : Nat := x.toNat * 65536
    let dr := sub32 (w p.re) (w m.re)
    let di := sub32 (w p.im) (w m.im)
    gridSums ps ms (add32 (add32 e (mul32 dr dr)) (mul32 di di), add32 (add32 q (mul32 (w m.re) (w m.re))) (mul32 (w m.im) (w m.im)))
  | _, _, a => a

def gridFinite (g : List GridEl) : Bool := g.all fun x => isFin (bf16.decode x.re.toNat) && isFin (bf16.decode x.im.toNat)

/-- Does the item commit? -/
def commitTest (p m : List GridEl) (thr : Nat) : Bool :=
  let s := gridSums p m (0, 0)
  let tp := mul32 (thrFp32 (signed 16 thr)) s.2
  let fin (x : Nat) : Bool := isFin (fp32.decode x)
  gridFinite p && gridFinite m && s.2 != 0 && fin s.1 && fin s.2 && fin tp && flLe (fp32.decode s.1) (fp32.decode tp)

/-- The test is decided: commit, or replay (R165, R167); its blocks go back (R157). -/
def settleItem (c epoch : Nat) (it : FwItem) (p m : List GridEl) (s : State) : State :=
  let ok := !it.force && commitTest p m it.thr
  let s2 := updFw c epoch it.idx (fun x => { x with state := if ok then .committed else .replaying, committed := ok, replayed := !ok,
                                                    pred := if ok then some p else none, meas := some m, started := true }) (freeBlocks c epoch it s)
  if ok then s2.addWrap (R.FWL_CELL_CNT_COMMIT c) F.FWL_CELL_CNT_COMMIT_CNT 1
  else s2.addWrap (R.FWL_CELL_CNT_REPLAY c) F.FWL_CELL_CNT_REPLAY_CNT 1

/-- A live item of a cell. -/
def liveItem (s : State) (c epoch idx : Nat) : Option FwItem :=
  match slotOf s c epoch with
  | none => none
  | some y => match y.item idx with
    | none => none
    | some it => if fwLive it then some it else none

/-- The prediction lands (R158); an estimate that waited for it is tested now (R526). -/
def predictionLanded (c epoch idx : Nat) (grid : List GridEl) (s : State) : State :=
  match liveItem s c epoch idx with
  | none => s
  | some it =>
    if it.state = .predict then
      match it.meas with
      | some m => settleItem c epoch it grid m s
      | none => updFw c epoch idx (fun x => { x with state := .speculating, pred := some grid, started := true }) s
    else s

def execPredictionLanded (cell : Fin 16) (epoch : BitVec 16) (idx : Fin 1024) (grid : List GridEl) (s : State) :
    Host.Outcome State Fault Refusal :=
  .next (predictionLanded cell.val epoch.toNat idx.val grid s)

/-- The prediction is given up: blocks freed, non-speculative, CNT_NOSPEC (R159). -/
def giveUp (c epoch : Nat) (it : FwItem) (s : State) : State :=
  countNospec c (updFw c epoch it.idx (fun x => { x with state := .nonspec, pred := none }) (freeBlocks c epoch it s))

def predictionFault (c epoch idx : Nat) (s : State) : State :=
  match liveItem s c epoch idx with
  | none => s
  | some it => if it.state = .predict then predFault c idx (giveUp c epoch it s) else s

def execPredictionFault (cell : Fin 16) (epoch : BitVec 16) (idx : Fin 1024) (s : State) : Host.Outcome State Fault Refusal :=
  .next (predictionFault cell.val epoch.toNat idx.val s)

/-- The measured estimate is ready (R159, R162). -/
def estimateReady (c epoch idx : Nat) (grid : List GridEl) (s : State) : State :=
  match liveItem s c epoch idx with
  | none => s
  | some it =>
    match it.state, it.pred with
    | .speculating, some p => settleItem c epoch it p grid s
    | .predict, _ =>
      let s1 := updFw c epoch idx (fun x => { x with meas := some grid, started := true }) s
      if twinRunning s then s1 else giveUp c epoch it s1
    | _, _ => updFw c epoch idx (fun x => { x with meas := some grid, started := true }) s

def execEstimateReady (cell : Fin 16) (epoch : BitVec 16) (idx : Fin 1024) (grid : List GridEl) (s : State) :
    Host.Outcome State Fault Refusal :=
  .next (estimateReady cell.val epoch.toNat idx.val grid s)

/-! ### The end of an item (R170-R172) -/

/-- Decoding finishes: DONE, or DONE_LATE after the deadline. A replayed item's elements are those of its record (R442). -/
def itemFinal (c epoch idx : Nat) (out soft elements : List Byte) (s : State) : State :=
  match slotOf s c epoch, liveItem s c epoch idx with
  | some y, some it =>
    if it.state = .nonspec ∨ it.state = .committed ∨ it.state = .replaying then
      dropSlots c (formSlot c y it (if it.late then stLate else stDone) 0 out soft (it.record.getD elements) s)
    else s
  | _, _ => s

def execItemFinal (cell : Fin 16) (epoch : BitVec 16) (idx : Fin 1024) (out soft elements : List Byte) (s : State) :
    Host.Outcome State Fault Refusal :=
  .next (itemFinal cell.val epoch.toNat idx.val out soft elements s)

def countLate (c : Nat) (s : State) : State := s.addWrap (R.FWL_CELL_CNT_LATE c) F.FWL_CELL_CNT_LATE_CNT 1

/-- A live item meets its deadline (R170). -/
def deadlineItem (c epoch : Nat) (it : FwItem) (s : State) : State :=
  if itDropLate it.ent then dropFw c epoch it.idx s
  else countLate c (updFw c epoch it.idx (fun x => { x with late := true }) s)

/-- A final item whose completion still waits for its digest becomes DONE_LATE (R439). -/
def deadlineWaiting (c epoch : Nat) (s : State) : State :=
  let late (x : Cpl) : Bool := x.wait && x.status == stDone && (x.slot.map fun p => (p.1, p.2.1)) == some (c, epoch)
  let n := (s.host.formed.filter late).length
  let s1 := setFormed (s.host.formed.map fun x => if late x then { x with status := stLate } else x) s
  updSlot c epoch (fun y => { y with nLate := y.nLate + n }) (s1.addWrap (R.FWL_CELL_CNT_LATE c) F.FWL_CELL_CNT_LATE_CNT n)

/-- The deadline event of the oldest slot whose deadline has not come. -/
def deadlineEvent (c : Nat) (s : State) : State :=
  match (s.cell c).slots.find? fun y => !y.dl with
  | none => s
  | some y =>
    let s1 := updSlot c y.epoch (fun z => { z with dl := true }) (deadlineWaiting c y.epoch s)
    dropSlots c (slotMiss c y.epoch ((y.items.filter fwLive).foldl (fun s it => deadlineItem c y.epoch it s) s1))

def execDeadlineEvent (cell : Fin 16) (s : State) : Host.Outcome State Fault Refusal := .next (deadlineEvent cell.val s)

/-! ### Appends (R26, R291-R295) -/

/-- An item that appends before this one to the same sequence: of an earlier slot, or earlier in its slot, not yet done with it (R294). -/
def appendWaits (s : State) (c epoch idx sq : Nat) : Bool :=
  let pending (e i : Nat) : Bool := s.host.formed.any fun x => x.append && x.slot == some (c, e, i)
  let before := (s.cell c).slots.takeWhile fun y => y.epoch != epoch
  let busy (e : Nat) (it : FwItem) : Bool := it.active && itSeq it.ent == sq && (fwLive it || pending e it.idx)
  before.any (fun y => y.items.any (busy y.epoch)) ||
  (match slotOf s c epoch with
   | none => false
   | some y => (y.items.takeWhile fun it => it.idx != idx).any (busy epoch))

/-- The append of one token for a final item (R291, R295). An append that finds its memory in self-refresh is not made (R523). -/
def slotAppend (c epoch idx : Nat) (records : List (List Byte)) (s : State) : State :=
  match s.host.formed.find? fun x => x.append && !x.held && x.slot == some (c, epoch, idx), slotOf s c epoch with
  | some x, some y =>
    match y.item idx with
    | none => s
    | some it =>
      let i := itSeq it.ent
      if appendWaits s c epoch idx i then s
      else
        let done (s : State) : State := dropSlots c (updCpl x.id (fun x => { x with append := false }) s)
        let failed (e : AccErr) (s : State) : State :=
          if e.status = stPower then done s
          else
            let s1 := updCpl x.id (fun x => x.worsen e.status (unitDetail (if e.status = stTrans then kMmu else 0) 0 e.reason) true) s
            slotMiss c epoch (done s1)
        match seqRead i s with
        | (s1, .error e) => failed e (noteErr 16 (Config.agentCode 0 0) e s1)
        | (s1, .ok e) =>
          let g := groupOf s1 (seqGroup e)
          if capacity g e < seqLen e + 1 then
            done (event 0x0080 16 i ((seqPut i 6 1 1 s1).addWrap R.SEQ_CNT_FULL F.SEQ_CNT_FULL_CNT 1))
          else
            match appendTokens i g e (seqLen e) 1 records s1 with
            | (s2, none) => done s2
            | (s2, some e) => failed e s2
  | _, _ => s

def execKvAppend (cell : Fin 16) (epoch : BitVec 16) (idx : Fin 1024) (records : List (List Byte)) (s : State) :
    Host.Outcome State Fault Refusal :=
  .next (slotAppend cell.val epoch.toNat idx.val records s)

/-! ### Stages (R143, R206, R524) -/

/-- A tile slot work may use: in the reserve or effectively pre-emptible. -/
def slotTile (s : State) (t : Nat) : Bool := rtTile s t || preEff s t

def tilesOf (m : Nat) : List Nat := (List.range 32).filter (bitOf m)

/-- The stage needs the Nave: its TILES binds (Table FWL-2). -/
def naveStage (e : List Byte) : Bool := sgKind e == 2 || sgTiles e != 0

/-- End every live item of a slot. -/
def endSlot (c : Nat) (y : FwSlot) (status : Nat) (s : State) : State :=
  dropSlots c ((y.items.filter fwLive).foldl (fun s it => finishSlot c y.epoch it.idx status 0 s) s)

/-- A stage trigger fires for the oldest slot in which it has not fired. -/
def stageTrigger (c st : Nat) (s : State) : State :=
  match (s.cell c).slots.find? fun y => st < y.stages.length && !y.trig.contains st with
  | none => s
  | some y =>
    let e := y.stages.getD st []
    let s1 := updSlot c y.epoch (fun z => { z with trig := z.trig ++ [st] }) s
    if (List.range 16).any fun k => bitOf (sgCores e) k && !rtCore s k then endSlot c y stRejected s1
    else if naveStage e && (tilesOf (sgTiles e)).any fun t => !slotTile s t then endSlot c y stRejected s1
    else if naveStage e && !((tilesOf (sgTiles e)).any (tileUp s)) then endSlot c y stPower s1
    else
      let s2 := updSlot c y.epoch (fun z => { z with items := z.items.map fun it => if fwLive it then { it with started := true } else it }) s1
      if startBlocked s (fwSg s c) then s2 else (tilesOf (sgTiles e)).foldl (fun s t => if rtTile s t then s else preempt t s) s2

def execStageTrigger (cell : Fin 16) (stage : Fin 16) (s : State) : Host.Outcome State Fault Refusal :=
  .next (stageTrigger cell.val stage.val s)

/-- A tile available to slot work that holds no slot item. -/
def slotFree (s : State) (t : Nat) : Bool :=
  tileUp s t && (s.tile t).slot.isNone && ((rtTile s t && tileState s t == nvIdle && !(s.tile t).zeroing) || tileState s t == nvLent)

/-- The next item of a triggered stage takes the lowest free tile of TILES. -/
def placeItem (c st : Nat) (s : State) : State :=
  let waits (y : FwSlot) : Option FwItem := y.items.find? fun it => fwLive it && it.stage != some st
  match (s.cell c).slots.find? fun y => y.trig.contains st && (waits y).isSome && naveStage (y.stages.getD st []) with
  | none => s
  | some y =>
    match waits y with
    | none => s
    | some it =>
      let s1 := freeSlotTile it s
      match (tilesOf (sgTiles (y.stages.getD st []))).find? (slotFree s1) with
      | none => s
      | some t =>
        let s2 := s1.setTile t { s1.tile t with slot := some (c, y.epoch, it.idx) }
        let s3 := if tileState s2 t = nvIdle then setTileState t nvBusy s2 else s2
        updFw c y.epoch it.idx (fun x => { x with tile := some t, stage := some st, started := true }) s3

def execStageItemPlacement (cell : Fin 16) (stage : Fin 16) (s : State) : Host.Outcome State Fault Refusal :=
  .next (placeItem cell.val stage.val s)

/-- A triggered stage that names the tile has unfinished items (R208). -/
def tileNamed (s : State) (t : Nat) : Bool :=
  (List.range 16).any fun c => (s.cell c).slots.any fun y =>
    y.items.any fwLive && y.trig.any fun st => bitOf (sgTiles (y.stages.getD st [])) t

def execLendingEnd (tile : Fin 32) (s : State) : Host.Outcome State Fault Refusal :=
  .next (if tileNamed s tile.val || (s.tile tile.val).preHeld then s else endLending tile.val s)

/-- An uncorrectable error in a half or the accumulator buffer (R212): the ring item and the slot item on the tile complete
MEM_UNCORRECTABLE. -/
def tileError (t : Nat) (s : State) : State :=
  let on := (s.tile t).slot
  let s1 := tileUe t s
  match on with
  | none => s1
  | some (c, e, i) => dropSlots c (finishSlot c e i stMem (unitDetail kTile t 0) s1)

def execTileSramUe (tile : Fin 32) (part : TilePart) (s : State) : Host.Outcome State Fault Refusal :=
  match part with
  | .halfA => .next (tileError tile.val s)
  | .halfB => .next (tileError tile.val s)
  | .acc => .next (tileError tile.val s)

end Sys2Proof.Machine
end

