-- ==== Sys2Proof/Machine/Crypt.lean ====
section
/-! DEFINITION. The Crypt (13_determinism_audit): the digest cache, audit digests, queries, replay, and the twin pair
(R434-R437, R442, R445-R450). -/

namespace Sys2Proof.Machine

/-! ### The digest cache (R436, R437) -/

def digestKey (kind a b c : Nat) (e : DigestEnt) : Bool := e.kind == kind && e.a == a && e.b == b && e.c == c

def setCache (l : List DigestEnt) (s : State) : State := { s with cry := { s.cry with cache := l } }

/-- Put a digest in front; the least recently used of more than 1,024 goes. -/
def cachePut (e : DigestEnt) (s : State) : State :=
  setCache ((e :: s.cry.cache.filter fun x => !digestKey e.kind e.a e.b e.c x).take 1024) s

/-- The digest of a task image: as cached, or the given one, which is cached. -/
def imageDigest (f idx : Nat) (digest : List Byte) (s : State) : List Byte × State :=
  match s.cry.cache.find? (digestKey 0 f idx 0) with
  | some e => (e.digest, cachePut e s)
  | none => (digest, cachePut ⟨0, f, idx, 0, digest⟩ s)

/-- The digest of a weight set: as cached, or over its bytes as they are now. No weight set has 32 zero bytes (Table DET-2). -/
def weightDigest (space addr len : Nat) (s : State) : State × Except AccErr (List Byte) :=
  if addr = 0 then (s, .ok (List.replicate 32 0))
  else
    match s.cry.cache.find? (digestKey 1 space addr len) with
    | some e => (cachePut e s, .ok e.digest)
    | none =>
      match vaRead space addr len s with
      | (s1, .error e) => (s1, .error e)
      | (s1, .ok bs) => (cachePut ⟨1, space, addr, len, sha256 bs⟩ s1, .ok (sha256 bs))

/-! ### Audit digests (R434, R435, R438, R439) -/

/-- The 112-byte preimage (Table DET-2). -/
def preimage (mode : Nat) (p w i : List Byte) (seq snap : Nat) : List Byte :=
  [0x54, 0x52, 0x4B, 0x41, 0x01] ++ leBytes 1 mode ++ [0, 0] ++ fit 32 p ++ fit 32 w ++ fit 32 i ++ leBytes 4 seq ++ leBytes 4 snap

/-- I of a slot's digest: over the I digests of its items, in item-table order. -/
def batchInput (s : State) (c : Cpl) : List Byte :=
  match c.slot with
  | none => c.digI
  | some (cell, epoch, _) =>
    match slotOf s cell epoch with
    | none => c.digI
    | some y => sha256 (y.items.flatMap fun it => ((y.digs.find? (·.1 == it.idx)).map (·.2)).getD [])

/-- The slot of a completion may be over now. -/
def afterDigest (c : Cpl) (s : State) : State :=
  match c.slot with
  | none => s
  | some (cell, epoch, _) => dropSlots cell (slotMiss cell epoch s)

/-- The Crypt finishes the digest requested first. A weight set that cannot be read gives the completion that access's status. -/
def digestFinal (s : State) : State :=
  match s.host.formed.find? (·.wait) with
  | none => s
  | some c =>
    match weightDigest c.digW.1 c.digW.2.1 c.digW.2.2 s with
    | (s1, .error e) =>
      let s2 := noteErr c.digW.1 (Config.agentCode 0 0) e s1
      let detail := if e.status = stTrans then unitDetail kMmu 0 e.reason else unitDetail 0 0 e.reason
      afterDigest c (updCpl c.id (fun x => { x.worsen e.status detail (x.bytes != 0) with wait := false }) s2)
    | (s1, .ok w) =>
      let batch := c.digMode == 2 && c.slot.isSome
      let i := if batch then batchInput s1 c else c.digI
      let pre := preimage c.digMode c.digP w i (if batch then 0 else c.digSeq) (if batch then 0 else c.digS)
      afterDigest c (flushLog c.id (updCpl c.id (fun x => { x with wait := false, digest := sha256 pre }) s1))

def execDigestFinal (s : State) : Host.Outcome State Fault Refusal := .next (digestFinal s)

/-- CRY_INVAL.GO: every digest, or those of an address. -/
def cryInval (a : Agent) (v : Word) (s : State) : State :=
  let off := R.CRY_INVAL
  let s1 := storeReg a off v s
  if reaches a off s && expertOn s 10 && F.CRY_INVAL_GO.get v == 1 then
    let addr := s1.pair R.CRY_INVAL_ADDR_LO R.CRY_INVAL_ADDR_HI
    let hit (e : DigestEnt) : Bool := if e.kind = 1 then e.b == addr else Config.imageAddr e.a e.b == addr
    let keep := if s1.flag off F.CRY_INVAL_ALL then [] else s1.cry.cache.filter fun e => !hit e
    (setCache keep s1).setFlag off F.CRY_INVAL_GO false
  else s1

def execCryInval (a : Agent) (v : Word) (s : State) : Host.Outcome State Fault Refusal := .next (cryInval a v s)

/-- The 32 bytes of a digest in CRY_DIGQ_W0-W7. -/
def showDigest (w : List Byte) (s : State) : State :=
  (List.range 8).foldl (fun s i => s.setReg (R.CRY_DIGQ_W i) (BitVec.ofNat 32 (fieldAt w (4 * i) 4))) s

/-- A write of CRY_DIGQ_LEN queries the weight set at CRY_DIGQ_ADDR in the PF space. -/
def digestQuery (a : Agent) (v : Word) (s : State) : State :=
  let off := R.CRY_DIGQ_LEN
  let s1 := storeReg a off v s
  if reaches a off s then
    match weightDigest 16 (s1.pair R.CRY_DIGQ_ADDR_LO R.CRY_DIGQ_ADDR_HI) (s1.reg off).toNat s1 with
    | (s2, .ok w) => showDigest w s2
    | (s2, .error e) => noteErr 16 (Config.agentCode 0 0) e s2
  else s1

def execDigestQuery (a : Agent) (v : Word) (s : State) : Host.Outcome State Fault Refusal := .next (digestQuery a v s)

/-- CRY_RPL_CTL (R442): the replay is armed by the register's own bits. -/
def execReplayArm (a : Agent) (v : Word) (s : State) : Host.Outcome State Fault Refusal := .next (storeReg a R.CRY_RPL_CTL v s)

/-! ### The twin pair (R445-R450) -/

/-- The W-port of the seat this device pairs with. -/
def partnerPort (s : State) : Option Nat :=
  if discState s = dDone then
    (activeW s).find? fun p =>
      s.fld (R.SPK_P_STAT p) F.SPK_P_STAT_PARTNER == Nat.xor (ownNode s % 16) 1 && !s.flag (R.SPK_P_STAT p) F.SPK_P_STAT_PARTNER_HUB
  else none

def overridden (s : State) : Bool := s.flag R.GLB_STATUS F.GLB_STATUS_OVERRIDE
def twinStrap (s : State) : Bool := s.flag R.CRY_TWIN_STAT F.CRY_TWIN_STAT_STRAP
/-- ROLE 0 is PRIMARY. -/
def rolePrimary (s : State) : Bool := !s.flag R.CRY_TWIN_CTL F.CRY_TWIN_CTL_ROLE

/-- Own values of Table DET-5. -/
def helloVals (s : State) : List Nat :=
  [(twinStrap s).toNat, (rolePrimary s).toNat, (s.reg R.GLB_ID).toNat, s.fld R.GLB_CAPS F.GLB_CAPS_TILES, (s.reg R.CHM_FW_CHF).toNat,
   (s.reg R.CHM_FW_CRF).toNat, (s.reg R.CHM_FW_SLF).toNat, startOf s, (overridden s).toNat, (ownUid s).toNat, ownNode s]

/-- The first failing check of Table DET-5, or 0. -/
def pairCheck (s : State) (h : TwinHello) : Nat :=
  if !(twinStrap s && h.strap) then 1
  else if (partnerPort s).isNone || partnerPort s != s.cry.port then 2
  else if rolePrimary s == h.primary then 3
  else if h.glbId != s.reg R.GLB_ID || h.tiles.toNat != s.fld R.GLB_CAPS F.GLB_CAPS_TILES then 4
  else if h.chf != s.reg R.CHM_FW_CHF || h.crf != s.reg R.CHM_FW_CRF || h.slf != s.reg R.CHM_FW_SLF then 5
  else if !((h.normal && startOf s == 0) || (h.overridden && overridden s)) then 6
  else 0

/-- Check the partner's TWIN_HELLO while PAIRING. -/
def pairWith (h : TwinHello) (s : State) : State :=
  let r := pairCheck s h
  if r = 0 then setTwin 2 0 (s.setPair R.CRY_TWIN_PUID_LO R.CRY_TWIN_PUID_HI h.uid.toNat) else setTwin 3 r s

def setEarly (h : Option TwinHello) (s : State) : State := { s with cry := { s.cry with early := h } }

/-- EN = 1 in OFF: pairing starts once discovery is DONE; in the Site profile it fails with NO_PARTNER (X5). -/
def twinEnable (s : State) : State :=
  if !twinStrap s then setTwin 0 1 s
  else if s.spk.off then setTwin 3 2 s
  else if discState s ≠ dDone then s
  else
    match partnerPort s with
    | none => setTwin 3 2 s
    | some p =>
      let s1 := (setTwin 1 0 { s with cry := { s.cry with port := some p } }).setFld R.CRY_TWIN_STAT F.CRY_TWIN_STAT_NODE
        (Nat.xor (ownNode s) 1)
      let s2 := sendTwin 0 (Config.twinHelloBytes (helloVals s1)) s1
      match s.cry.early with
      | none => s2
      | some h => pairWith h (setEarly none s2)

/-- EN = 0: twin mode returns to OFF; what was held goes as it stands. -/
def twinDisable (s : State) : State :=
  let held := s.host.formed.filter (·.held)
  let s1 := held.foldl (fun s c => releaseCpl c.id s) s
  setTwin 0 0 { s1 with cry := { s1.cry with partner := [], port := none, early := none } }

def writeTwinCtl (a : Agent) (v : Word) (s : State) : State :=
  let off := R.CRY_TWIN_CTL
  let s1 := storeReg a off v s
  if !reaches a off s then s1
  else if s1.flag off F.CRY_TWIN_CTL_EN then (if twinState s1 = 0 then twinEnable s1 else s1)
  else if twinState s1 = 0 then s1.setFld R.CRY_TWIN_STAT F.CRY_TWIN_STAT_REASON 0
  else twinDisable s1

def execTwinEnable (a : Agent) (v : Word) (s : State) : Host.Outcome State Fault Refusal := .next (writeTwinCtl a v s)
def execTwinDisable (a : Agent) (v : Word) (s : State) : Host.Outcome State Fault Refusal := .next (writeTwinCtl a v s)

def execTwinHelloReceive (h : TwinHello) (s : State) : Host.Outcome State Fault Refusal :=
  .next (if twinState s = 1 then pairWith h s else if twinState s = 0 then setEarly (some h) s else s)

/-- The partner's record: compared with the held completion of its KEY, or kept for it. -/
def compareReceive (r : CompareRec) (s : State) : State :=
  if twinRunning s then
    match s.host.formed.find? fun c => c.held && c.key == r.key.toNat with
    | some c => compareWith c r s
    | none => { s with cry := { s.cry with partner := s.cry.partner ++ [r] } }
  else s

def execCompareRecordReceive (r : CompareRec) (s : State) : Host.Outcome State Fault Refusal := .next (compareReceive r s)

/-- WAIT expires for the oldest held completion: MISSING. -/
def twinWaitExpiry (s : State) : State :=
  if twinRunning s then
    match s.host.formed.find? (·.held) with
    | some c => haltPair c.key 7 c.stages [] s
    | none => s
  else s

def execTwinWaitExpiry (s : State) : Host.Outcome State Fault Refusal := .next (twinWaitExpiry s)

/-- The twin port leaves ACTIVE while the pair runs (R450): BROKEN, and what is held completes LINK_LOST. -/
def breakPair (p : Nat) (s : State) : State :=
  if twinRunning s ∧ s.cry.port = some p then
    let lost (c : Cpl) : Cpl :=
      if c.held then { c.worsen stLink (unitDetail kSpoke p 1) (c.bytes != 0) with held := false, append := false, log := [] } else c
    setTwin 5 10 { setFormed (s.host.formed.map lost) s with cry := { s.cry with partner := [] } }
  else s

end Sys2Proof.Machine
end

