-- ==== Sys2Proof/Machine/Host.lean ====
section
/-! DEFINITION. The host interface (10_host_rings): polling and fetching, tasks, writing completions, the report ring and its backlog,
interrupts, ring configuration, the seal. -/

namespace Sys2Proof.Machine

/-! ### Polling (R322, R323, R328, R333, R340) -/

def fenced (s : State) (f : Nat) : Bool := s.host.fences.any (·.1 == f)

/-- The audit mode of a function: index 0 the PF, v + 1 VIv. -/
def fnAudit (s : State) (f : Nat) : Nat := s.fld (R.CRY_FN_AUDIT (if f = 16 then 0 else f + 1)) F.CRY_FN_AUDIT_MODE

def sqEnabled (s : State) (f q : Nat) : Bool := s.flag (R.VIS_SQ_CFG (visPage f) q) F.VIS_SQ_CFG_EN

def pollOf (s : State) (f : Nat) : Poll := Tab.get (fun _ => {}) s.host.polls f
def setPoll (f : Nat) (p : Poll) (s : State) : State :=
  { s with host := { s.host with polls := Tab.set (fun _ => {}) s.host.polls f p } }

/-- The device may fetch for a function: the link is up, the device runs, its pair has not halted, the function is not under a fence. -/
def mayPoll (s : State) (f : Nat) : Bool := s.host.link && startOf s < 2 && !twinHalted s && !fenced s f

/-- Stop an SQ with a reason (R338). -/
def stopSq (f q reason : Nat) (s : State) : State :=
  eventVi 0x0001 f (q + 256 * reason) (shadowWrite f q (s.setRing f q { s.ring f q with state := 2, reason := reason }))

/-- Accept one fetched descriptor. Of its two reserved slots it keeps one when AUDIT = 0 (R333). -/
def acceptOne (f q cq : Nat) (s : State) : State :=
  let r := s.ring f q
  let d := s.hostMem.read ((ringBase s f q + 64 * (r.idx % ringSize s f q)) % 2 ^ 64) 64
  let keep := if dAudit d then 2 else 1
  let it : RItem := { id := s.host.nextId, func := f, sq := q, idx := r.idx, cq := cq, desc := d, resv := keep,
                      audit := if dAudit d then fnAudit s f else 0 }
  let s1 := { s with host := { s.host with items := s.host.items ++ [it], nextId := s.host.nextId + 1 } }
  let s2 := s1.setRing f q { r with idx := (r.idx + 1) % 2 ^ 32 }
  let c := s2.ring f (8 + cq)
  s2.setRing f (8 + cq) { c with resv := c.resv + keep }

def acceptMany (f q cq : Nat) : Nat → State → State
  | 0, s => s
  | n + 1, s => acceptMany f q cq n (acceptOne f q cq s)

/-- How many descriptors an SQ's poll fetches: available, FETCH, what the CQ's free space covers (R333). -/
def fetchCount (s : State) (f q : Nat) : Nat :=
  let d := idxSub (doorbell s f q) (s.ring f q).idx
  let cfg := R.VIS_SQ_CFG (visPage f) q
  Nat.min (Nat.min d (s.fld cfg F.VIS_SQ_CFG_FETCH + 1)) (freeSlots s f (8 + s.fld cfg F.VIS_SQ_CFG_CQ) / 2)

/-- One SQ's part of a poll. -/
def pollSq (f q : Nat) (s : State) : State :=
  let r := s.ring f q
  if !sqEnabled s f q || r.state != 1 then s
  else if ringSize s f q < idxSub (doorbell s f q) r.idx then stopSq f q 1 s
  else
    let n := fetchCount s f q
    if n = 0 then s else shadowWrite f q (acceptMany f q (s.fld (R.VIS_SQ_CFG (visPage f) q) F.VIS_SQ_CFG_CQ) n s)

/-- At a poll, the doorbells of the function's CQs, EQ and RR whose free space is below a quarter are read (R323). -/
def pollConsumers (f : Nat) (s : State) : State :=
  ((List.range 10).map (· + 8)).foldl (fun s k =>
    if (s.ring f k).state = 1 ∧ 4 * freeSlots s f k < ringSize s f k then freshRead f k s else s) s

/-- The base interval of a function's polls, and its backoff, in ns. -/
def pollBase (s : State) (f : Nat) : Nat := 10 * s.fld (R.VIS_POLL (visPage f)) F.VIS_POLL_INTERVAL
def pollIdle (s : State) (f : Nat) : Nat := 1000000 * s.fld (R.VIS_POLL_BO (visPage f)) F.VIS_POLL_BO_IDLE
def pollBackoff (s : State) (f : Nat) : Nat := 1000 * s.fld (R.VIS_POLL_BO (visPage f)) F.VIS_POLL_BO_BACKOFF

/-- The INDEX values a poll reads. -/
def pollReads (s : State) (f : Nat) : List (Nat × Nat) :=
  ((List.range 8).filter (sqEnabled s f)).map fun q => (q, doorbell s f q)

def seenIndex (p : Poll) (q : Nat) : Nat := ((p.seen.find? (·.1 == q)).map (·.2)).getD 0

/-- What the poll leaves for the next one (R322). -/
def nextPoll (s : State) (f : Nat) : Poll :=
  let p := pollOf s f
  let reads := pollReads s f
  let changed := if reads.any (fun r => r.2 != seenIndex p r.1) then s.bel.dnc else p.changed
  let idle := pollIdle s f != 0 && decide (pollIdle s f ≤ s.bel.dnc - changed)
  { due := s.bel.dnc + (if idle then pollBackoff s f else pollBase s f), changed := changed, seen := reads }

/-- One poll of a function that is due; a poll after its due tick is late (R340). The first poll of a function has no due tick: its
`due` is 0 (log 14). -/
def doorbellPoll (f : Nat) (s : State) : State :=
  if !mayPoll s f || !(List.range 8).any (sqEnabled s f) || s.bel.dnc < (pollOf s f).due then s
  else
    let s1 := if (pollOf s f).due ≠ 0 ∧ (pollOf s f).due < s.bel.dnc then s.addSat R.GLB_POLL_LATE F.GLB_POLL_LATE_CNT 1 else s
    let s2 := setPoll f (nextPoll s1 f) s1
    (List.range 8).foldl (fun s q => pollSq f q s) (pollConsumers f s2)

def execDoorbellPoll (f : Fin 17) (s : State) : Host.Outcome State Fault Refusal := .next (doorbellPoll f.val s)

/-- The fetch of an SQ's descriptors returns an error completion (R338): nothing of it is accepted, and its reservation falls. -/
def sqFetchError (f q : Nat) (s : State) : State :=
  let r := s.ring f q
  if !mayPoll s f || !sqEnabled s f q || r.state != 1 then s
  else if ringSize s f q < idxSub (doorbell s f q) r.idx then stopSq f q 1 s
  else if fetchCount s f q = 0 then s
  else stopSq f q 2 s

def execSqFetchError (f : Fin 17) (q : Fin 8) (s : State) : Host.Outcome State Fault Refusal := .next (sqFetchError f.val q.val s)

/-! ### Descriptors without work of their own -/

def execHostNop (f : Fin 17) (q : Fin 8) (s : State) : Host.Outcome State Fault Refusal :=
  .next (onItem f.val q.val 0 s fun it s => finish it.id stDone 0 s)

/-- An opcode outside Table HST-4, a field outside its range, or a misaligned address (R325). -/
def descBad (d : List Byte) : Bool :=
  match dOpcode d with
  | 0 => false
  | 1 => !taskFieldsOk d
  | 2 => stepBlockAddr d % 64 != 0
  | 3 => collPlan d % 64 != 0
  | 4 => ftLen d < 60 || 9216 < ftLen d
  | 5 => rpLen d < 2048 || 16384 < rpLen d || rpAddr d % 64 != 0
  | _ => true

def undefinedHost (f q : Nat) (s : State) : State :=
  match frontItem s f q with
  | none => s
  | some it => if descBad it.desc then finish it.id stRejected 0 (updItem it.id (fun x => { x with active := true }) s) else s

def execUndefinedHostOpcode (f : Fin 17) (q : Fin 8) (s : State) : Host.Outcome State Fault Refusal :=
  .next (undefinedHost f.val q.val s)

/-! ### TASK (R144, R205, R317, R325) -/

/-- The image needs more channels or pairs than the function's quota. -/
def overQuota (s : State) (f : Nat) (img : TaskImage) : Bool :=
  s.fld (R.VIS_QUOTA (visPage f)) F.VIS_QUOTA_CHANNELS < Nat.max img.channels img.lists.length ||
  s.fld (R.VIS_QUOTA (visPage f)) F.VIS_QUOTA_PAIRS < img.pairs

/-- Take up a TASK: REJECTED or POWER_DENIED at once, or the task waits for its units. -/
def taskSubmit (img : TaskImage) (it : RItem) (s : State) : State :=
  let d := it.desc
  let ts := maskTiles s it.func
  let cs := maskCores s it.func
  if !taskFieldsOk d || overQuota s it.func img || ts.length < tkTiles d || cs.length < tkCores d then finish it.id stRejected 0 s
  else if (ts.filter (tileUp s)).length < tkTiles d || (cs.filter (coreUp s)).length < tkCores d then finish it.id stPower 0 s
  else
    let (digest, s1) := imageDigest it.func (tkImage d) img.digest s
    updItem it.id (fun x => { x with tilesWant := tkTiles d, coresWant := tkCores d, pairs := img.pairs, lists := img.lists.map (·.toNat),
                                     image := digest, tiles := if tkTiles d = 0 then some [] else none,
                                     cores := if tkCores d = 0 then some [] else none }) s1

def execTask (f : Fin 17) (q : Fin 8) (img : TaskImage) (s : State) : Host.Outcome State Fault Refusal :=
  .next (onItem f.val q.val 1 s (taskSubmit img))

/-! ### Writing a completion (R329-R335) -/

/-- The 32 bytes of a completion (Table HST-5). -/
def cplBytes (c : Cpl) (diverted : Bool) (phase : Nat) : List Byte :=
  leBytes 1 c.status ++ leBytes 1 c.flags ++ leBytes 2 c.tag ++ leBytes 4 c.itemId ++ leBytes 1 c.origin ++
  leBytes 1 (rflByte c.sq diverted c.reset phase) ++ leBytes 1 (funcByte c.func) ++ leBytes 1 (c.cq % 8) ++ leBytes 4 c.detail ++
  leBytes 8 c.bytes ++ leBytes 8 c.dnc

/-- Slots a completion takes: its digest takes one of its own (R330). -/
def cplSlots (c : Cpl) : Nat := if bitOf c.flags 2 then 2 else 1

/-- Write a completion into ring k of function g: the digest slot, the completion slot, the shadow index, the interrupt count. -/
def putCpl (g k : Nat) (diverted : Bool) (c : Cpl) (s : State) : State :=
  let r := s.ring g k
  let size := ringSize s g k
  let base := ringBase s g k
  let s1 := if bitOf c.flags 2 then hostWrite (base + 32 * ((r.idx + 1) % size)) (fit 32 c.digest) s else s
  let s2 := hostWrite (base + 32 * (r.idx % size)) (cplBytes c diverted (phaseOf r.idx size)) s1
  let s3 := shadowWrite g k (s2.setRing g k { r with idx := (r.idx + cplSlots c) % 2 ^ 32 })
  if c.noint then s3 else countEntry g k s3

/-- Give back the CQ slots a completion holds reserved. -/
def releaseResv (c : Cpl) (s : State) : State :=
  let r := s.ring c.func (8 + c.cq)
  s.setRing c.func (8 + c.cq) { r with resv := r.resv - c.resv }

/-! ### The report ring and its backlog (R334, R335, R468) -/

/-- The area completions for the RR wait in: its base, its entries, and whether it is the hold area. -/
def rrArea (s : State) : Nat × Nat × Bool :=
  let p := visPage 16
  let n := s.fld (R.VIS_RR_BKLOG_SIZE p) F.VIS_RR_BKLOG_SIZE_ENTRIES
  if n ≠ 0 then (s.pair (R.VIS_RR_BKLOG_LO p) (R.VIS_RR_BKLOG_HI p), n, false)
  else (s.pair R.GLB_HOLD_BASE_LO R.GLB_HOLD_BASE_HI, s.fld R.GLB_HOLD_SIZE F.GLB_HOLD_SIZE_ENTRIES, true)

/-- Does a 64 KiB page of a PF structure lie in stacks 4-7? -/
def pageUpper (s : State) (va : Nat) : Bool :=
  match translate 16 va 1 false s with
  | (_, .ok (e, pa)) => !e.host && hbmSize / 2 ≤ pa
  | _ => false

/-- A structure lies wholly or partly in stacks 4-7 while they answer no access (Table CMB-3). -/
def structUpper (s : State) (base len : Nat) : Bool :=
  upperOff s && (List.range (len / 0x10000 + 2)).any fun i =>
    (base / 0x10000 + i) * 0x10000 < base + len && pageUpper s ((base / 0x10000 + i) * 0x10000)

/-- GLB_HOLD_CNT shows the waiting entries. -/
def showHold (s : State) : State :=
  s.setFld R.GLB_HOLD_CNT F.GLB_HOLD_CNT_CNT (Nat.min F.GLB_HOLD_CNT_CNT.max s.host.hold.length)

/-- A completion for the RR is lost (R335). -/
def loseReport (s : State) : State :=
  event 0x0003 16 0 ((s.addSat (R.VIS_RR_LOST (visPage 16)) F.VIS_RR_LOST_CNT 1).setFlag R.GLB_ERR F.GLB_ERR_REPORT_LOST true)

/-- A completion waits for the RR. Where in the area its 64 bytes lie and how they are laid out the manual leaves open. -/
def waitRr (c : Cpl) (s : State) : State :=
  let (base, n, isHold) := rrArea s
  let waiting := if isHold then s.host.hold.length else s.host.backlog.length
  if n ≤ waiting || structUpper s base (64 * n) then loseReport s
  else
    let (k, s1) := s.draw
    let place := (Config.freeWord k).toNat % n
    let s2 := deviceWrite 16 (base + 64 * place) (fit 64 (Config.freeBytes k)) s1
    showHold (if isHold then { s2 with host := { s2.host with hold := s2.host.hold ++ [c] } }
              else { s2 with host := { s2.host with backlog := s2.host.backlog ++ [c] } })

/-- Is a completion for the RR waiting? -/
def rrWaiting (s : State) : Bool := !s.host.hold.isEmpty || !s.host.backlog.isEmpty

/-- Was this completion diverted, rather than reported by a fence (R334, R470)? -/
def rrDiverted (c : Cpl) : Bool := !c.reset

/-- Report a completion to the RR, behind every one that waits for it. -/
def toRr (c : Cpl) (s : State) : State :=
  let s1 := if (s.ring 16 17).state = 1 ∧ freeSlots s 16 17 < cplSlots c then freshRead 16 17 s else s
  if rrWaiting s1 || (s1.ring 16 17).state != 1 || freeSlots s1 16 17 < cplSlots c then waitRr c s1
  else putCpl 16 17 (rrDiverted c) c s1

/-- A completion leaves for its CQ, or diverts (R334). -/
def sendCpl (c : Cpl) (s : State) : State :=
  let k := 8 + c.cq
  if c.reset then toRr c (releaseResv c s)
  else if (s.ring c.func k).state = 1 ∧ c.resv ≠ 0 then putCpl c.func k false c (releaseResv c s)
  else
    let s1 := if (s.ring c.func k).state = 1 ∧ freeSlots s c.func k < cplSlots c then freshRead c.func k s else s
    if (s1.ring c.func k).state = 1 ∧ cplSlots c ≤ freeSlots s1 c.func k then putCpl c.func k false c s1
    else toRr c (s1.addSat (R.VIS_CQ_DIVERT (visPage c.func) c.cq) F.VIS_CQ_DIVERT_CNT 1)

/-- A completion that nothing holds back. -/
def cplFree (c : Cpl) : Bool := !c.wait && !c.held && !c.batch && !c.append

/-- The next completion to write: free, and behind no other of its CQ (R332); reports of a fence go in the order they were formed. -/
def nextCpl (s : State) : Option Cpl :=
  s.host.formed.find? fun c => cplFree c &&
    !(s.host.formed.any fun x => x.id < c.id && !cplFree x && ((x.func == c.func && x.cq == c.cq) || (c.reset && x.reset)))

/-- Reports a fence has made. -/
def countReport (c : Cpl) (s : State) : State :=
  if c.reset then
    { s with host := { s.host with fences := s.host.fences.map fun x => if x.1 = c.func then (x.1, x.2.1, x.2.2 + 1) else x } }
  else s

def completionWrite (s : State) : State :=
  match nextCpl s with
  | none => s
  | some c => sendCpl c (countReport c (setFormed (s.host.formed.filter (·.id != c.id)) s))

def execCompletionWrite (s : State) : Host.Outcome State Fault Refusal := .next (completionWrite s)

/-- The oldest waiting report moves to the RR when it has room (R335, R468): the hold area's first. -/
def rrMove (s : State) : State :=
  let move (c : Cpl) (drop : State → State) : State :=
    if (s.ring 16 17).state = 1 then
      let s1 := if freeSlots s 16 17 < cplSlots c then freshRead 16 17 s else s
      if cplSlots c ≤ freeSlots s1 16 17 then showHold (putCpl 16 17 (rrDiverted c) c (drop s1)) else s1
    else s
  match s.host.hold, s.host.backlog with
  | c :: cs, _ => move c fun s => { s with host := { s.host with hold := cs } }
  | [], c :: cs => move c fun s => { s with host := { s.host with backlog := cs } }
  | [], [] => s

def execRrBacklogMove (s : State) : Host.Outcome State Fault Refusal := .next (rrMove s)

/-! ### Interrupts (R339) -/

def coalTimeExpiry (f k : Nat) (s : State) : State :=
  let r := s.ring f k
  if 8 ≤ k && s.flag (ringCfg f k) F.VIS_CQ_CFG_INT_EN && s.fld (ringCoal f k) F.VIS_CQ_COAL_COAL_TIME != 0 && r.counted != 0 then
    raiseVec f (s.fld (ringCfg f k) F.VIS_CQ_CFG_VEC) (s.setRing f k { r with counted := 0 })
  else s

def execCoalTimeExpiry (f : Fin 17) (ring : Fin 18) (s : State) : Host.Outcome State Fault Refusal :=
  .next (coalTimeExpiry f.val ring.val s)

/-- A write of a vector's control word: unmasking it sends its pending message. -/
def writeMsixCtl (a : Agent) (f vec : Nat) (v : Word) (s : State) : State :=
  let s1 := storeReg a (msixCtl f vec) v s
  let masked := bitOf (s1.reg (msixCtl f vec)).toNat 0
  if vec < vectors f && !masked && bitOf (s1.reg (msixPba f vec)).toNat (vec % 32) then
    let s2 := s1.setReg (msixPba f vec) (clearBit (s1.reg (msixPba f vec)) (vec % 32))
    if s2.host.link then s2.emit (msixMsg s2 f vec) else s2
  else s1

def execMsixUnmask (a : Agent) (f : Fin 17) (vec : Fin 64) (s : State) : Host.Outcome State Fault Refusal :=
  .next (if vec.val < vectors f.val then writeMsixCtl a f.val vec.val (clearBit (s.reg (msixCtl f.val vec.val)) 0) s else s)

/-! ### Ring configuration (R318, R320) -/

/-- Is ring k of a function there? The report ring is the PF's alone (R318). -/
def ringThere (f k : Nat) : Bool := k < 17 || f == 16

def ringEn (s : State) (f k : Nat) : Bool := s.flag (ringCfg f k) F.VIS_CQ_CFG_EN

/-- The stored configuration of a ring is one it can be enabled with. -/
def ringValid (s : State) (f k : Nat) : Bool :=
  let n := s.fld (ringCfg f k) F.VIS_CQ_CFG_LOG2SIZE
  6 ≤ n && n ≤ 16 && ringBase s f k % 4096 == 0 && (k < 8 || s.fld (ringCfg f k) F.VIS_CQ_CFG_VEC < vectors f)

def ringErr (f : Nat) (fl : Fld) (s : State) : State := s.setFlag (R.VIS_ERR (visPage f)) fl true

/-- A ring starts at index 0. -/
def ringOn (f k : Nat) (s : State) : State :=
  let s1 := shadowWrite f k (s.setRing f k { state := 1 })
  if k < 8 then
    let p := pollOf s1 f
    let due := if (List.range 8).any (fun j => j != k && sqEnabled s1 f j) then p.due else 0
    setPoll f { due := due, changed := s1.bel.dnc, seen := p.seen.filter (·.1 != k) } s1
  else s1

/-- A ring stops; its reservations fall, and what it would have taken diverts. -/
def ringOff (f k : Nat) (s : State) : State :=
  let cq := k - 8
  let s1 := if 8 ≤ k && k < 16 then
      { s with host := { s.host with
          items := s.host.items.map fun it => if it.func = f ∧ it.cq = cq then { it with resv := 0 } else it,
          formed := s.host.formed.map fun c => if c.func = f ∧ c.cq = cq then { c with resv := 0 } else c } }
    else s
  shadowWrite f k (s1.setRing f k {})

/-- A write of a ring's CFG. While EN = 1 the other fields keep their values, and a write that would change one sets CFG_WR. -/
def writeRingCfg (a : Agent) (f k : Nat) (v : Word) (s : State) : State :=
  let off := ringCfg f k
  if !(ringThere f k && reaches a off s) then s
  else
    let s1 := storeReg a off v s
    if ringEn s f k then
      let same := F.VIS_CQ_CFG_EN.put (s1.reg off) 0 == F.VIS_CQ_CFG_EN.put (s.reg off) 0
      let s2 := s1.setReg off (s.reg off)
      let s3 := if same then s2 else ringErr f F.VIS_ERR_CFG_WR s2
      if F.VIS_CQ_CFG_EN.get v == 1 then s3 else ringOff f k (s3.setFlag off F.VIS_CQ_CFG_EN false)
    else if ringEn s1 f k then
      if ringValid s1 f k then ringOn f k s1 else ringErr f F.VIS_ERR_CFG (s1.setFlag off F.VIS_CQ_CFG_EN false)
    else s1

def execRingEnable (a : Agent) (f : Fin 17) (ring : Fin 18) (v : Word) (s : State) : Host.Outcome State Fault Refusal :=
  .next (writeRingCfg a f.val ring.val v s)

def execRingDisable (a : Agent) (f : Fin 17) (ring : Fin 18) (v : Word) (s : State) : Host.Outcome State Fault Refusal :=
  .next (writeRingCfg a f.val ring.val v s)

def ringBaseOff (f k : Nat) (hi : Bool) : Nat :=
  let p := visPage f
  let i := if hi then 1 else 0
  if k < 8 then (if i = 1 then R.VIS_SQ_BASE_HI p k else R.VIS_SQ_BASE_LO p k)
  else if k < 16 then (if i = 1 then R.VIS_CQ_BASE_HI p (k - 8) else R.VIS_CQ_BASE_LO p (k - 8))
  else if k = 16 then (if i = 1 then R.VIS_EQ_BASE_HI p else R.VIS_EQ_BASE_LO p)
  else (if i = 1 then R.VIS_RR_BASE_HI p else R.VIS_RR_BASE_LO p)

/-- A write of a ring's base. -/
def writeRingBase (a : Agent) (f k : Nat) (hi : Bool) (v : Word) (s : State) : State :=
  let off := ringBaseOff f k hi
  if !(ringThere f k && reaches a off s) then s
  else if ringEn s f k then (if v = s.reg off then s else ringErr f F.VIS_ERR_CFG_WR s)
  else storeReg a off v s

def execRingConfigWrite (a : Agent) (f : Fin 17) (ring : Fin 18) (reg : Fin 3) (v : Word) (s : State) :
    Host.Outcome State Fault Refusal :=
  .next (if reg.val = 2 then writeRingCfg a f.val ring.val v s else writeRingBase a f.val ring.val (reg.val == 1) v s)

/-! ### The seal (R341) -/

def writeSeal (a : Agent) (v : Word) (s : State) : State :=
  if answers a R.GLB_SEAL s && !isVf a && v == 0x5EA1 then s.setFlag R.GLB_STATUS F.GLB_STATUS_SEALED true else s

def execGlbSeal (a : Agent) (v : Word) (s : State) : Host.Outcome State Fault Refusal := .next (writeSeal a v s)

end Sys2Proof.Machine
end

