-- ==== Sys2Proof/Machine/Radio.lean ====
section
/-! DEFINITION. The Radio Front (03_radio_front): links, slot alignment and buffer, DPD, AGC, preambles, the offset average and
synthesiser feedback. What a slot strobe does here is `radioStrobe`; Tick calls it. -/

namespace Sys2Proof.Machine

def State.rxAnt (s : State) (a : Nat) : RxAnt := Tab.get (fun _ => {}) s.rfi.rx a
def State.setRxAnt (s : State) (a : Nat) (x : RxAnt) : State := { s with rfi := { s.rfi with rx := Tab.set (fun _ => {}) s.rfi.rx a x } }
def State.txChain (s : State) (t : Nat) : TxChain := Tab.get (fun _ => {}) s.rfi.tx t
def State.setTxChain (s : State) (t : Nat) (x : TxChain) : State := { s with rfi := { s.rfi with tx := Tab.set (fun _ => {}) s.rfi.tx t x } }
def State.agcOf (s : State) (a : Nat) : Agc := Tab.get (fun _ => {}) s.rfi.agc a
def State.setAgc (s : State) (a : Nat) (x : Agc) : State := { s with rfi := { s.rfi with agc := Tab.set (fun _ => {}) s.rfi.agc a x } }
def State.radioCell (s : State) (c : Nat) : RadioCell := Tab.get (fun _ => {}) s.rfi.cells c
def State.setRadioCell (s : State) (c : Nat) (x : RadioCell) : State :=
  { s with rfi := { s.rfi with cells := Tab.set (fun _ => {}) s.rfi.cells c x } }

def integrated (s : State) : Bool := s.rfi.mode == 1

/-! ### Links (R75-R78) -/

/-- R76, R77: is a link configuration valid? `mMax` is 10 for the receive link and 8 for the transmit link. -/
def linkValid (cfg : Word) (mMax devclk : Nat) : Bool :=
  let l := F.RFI_JRX_CFG_L.get cfg
  let m := F.RFI_JRX_CFG_M.get cfg
  let n := F.RFI_JRX_CFG_N.get cfg
  let e := F.RFI_JRX_CFG_E.get cfg
  let k := F.RFI_JRX_CFG_CLKMUL.get cfg
  1 ≤ l && l ≤ 8 && m % 2 == 0 && 2 ≤ m && m ≤ mMax && 12 ≤ n && n ≤ 16 && 2 * m % l == 0 && 256 % (2 * m / l) == 0 &&
  1 ≤ e && e ≤ 8 && 1 ≤ k && k ≤ 16 && devclk * k ≤ 8 * 375000

/-- Start, stop or refuse the receive link after a write of RX_EN. -/
def setRxLink (was now : Bool) (s : State) : State :=
  if now && !was then
    if linkValid (s.reg R.RFI_JRX_CFG) 10 s.rfi.devclk then
      let k := s.fld R.RFI_JRX_CFG F.RFI_JRX_CFG_CLKMUL
      let s1 := { s with rfi := { s.rfi with rxOn := true, marked := false } }
      s1.setFld (R.GLB_ISL_STAT 6) F.GLB_ISL_STAT_FREQ_MHZ (s.rfi.devclk * k / 8000)
    else s.setFlag R.RFI_STAT F.RFI_STAT_CFG_ERR true
  else if was && !now then
    { s.setFlag R.RFI_STAT F.RFI_STAT_RX_LOCK false with rfi := { s.rfi with rxOn := false } }
  else s

def setTxLink (was now : Bool) (s : State) : State :=
  if now && !was then
    if linkValid (s.reg R.RFI_JTX_CFG) 8 s.rfi.devclk then { s with rfi := { s.rfi with txOn := true } }
    else s.setFlag R.RFI_STAT F.RFI_STAT_CFG_ERR true
  else if was && !now then
    { s.setFlag R.RFI_STAT F.RFI_STAT_TX_LOCK false with rfi := { s.rfi with txOn := false } }
  else s

/-- A write of RFI_CTL (R74, R76). MODE takes effect at the next slot strobe of SG. -/
def writeRfiCtl (a : Agent) (v : Word) (s : State) : State :=
  let rx := s.flag R.RFI_CTL F.RFI_CTL_RX_EN
  let tx := s.flag R.RFI_CTL F.RFI_CTL_TX_EN
  let s1 := storeReg a R.RFI_CTL v s
  setTxLink tx (s1.flag R.RFI_CTL F.RFI_CTL_TX_EN) (setRxLink rx (s1.flag R.RFI_CTL F.RFI_CTL_RX_EN) s1)

def execJesdLinkEnable (a : Agent) (v : Word) (s : State) : Host.Outcome State Fault Refusal := .next (writeRfiCtl a v s)

/-- The receive link loses lock (R83). -/
def rxLockLost (s : State) : State :=
  if s.flag R.RFI_STAT F.RFI_STAT_RX_LOCK then
    event 0x0021 16 1 ((s.setFlag R.RFI_STAT F.RFI_STAT_RX_LOCK false).setFlag R.RFI_STAT F.RFI_STAT_RX_LOCK_LOST true)
  else s

def execRxLockLost (s : State) : Host.Outcome State Fault Refusal := .next (rxLockLost s)

def txLockLost (s : State) : State :=
  if s.flag R.RFI_STAT F.RFI_STAT_TX_LOCK then
    event 0x0021 16 2 ((s.setFlag R.RFI_STAT F.RFI_STAT_TX_LOCK false).setFlag R.RFI_STAT F.RFI_STAT_TX_LOCK_LOST true)
  else s

def execTxLockLost (s : State) : Host.Outcome State Fault Refusal := .next (txLockLost s)

def execRxLockGained (s : State) : Host.Outcome State Fault Refusal :=
  .next (if s.rfi.rxOn then s.setFlag R.RFI_STAT F.RFI_STAT_RX_LOCK true else s)

def execTxLockGained (s : State) : Host.Outcome State Fault Refusal :=
  .next (if s.rfi.txOn then s.setFlag R.RFI_STAT F.RFI_STAT_TX_LOCK true else s)

/-- A SYSREF pulse (R75): in one-shot mode only the first aligns the counter. -/
def execSysrefEdge (s : State) : Host.Outcome State Fault Refusal :=
  .next { s with rfi := { s.rfi with aligned := true } }

/-! ### Sample arithmetic -/

/-- Round a quotient half up (R79, R90, R94, R107). -/
def roundQuot (num : Int) (den : Nat) : Int := (2 * num + den) / (2 * (den : Int))

def sat16 (i : Int) : Int := clampInt (-32768) 32767 i

def iqI (x : IQ) : Int := signed 16 x.i.toNat
def iqQ (x : IQ) : Int := signed 16 x.q.toNat
def mkIQ (i q : Int) : IQ := ⟨BitVec.ofInt 16 i, BitVec.ofInt 16 q⟩

/-- Clear the low 16 - N bits (R78). -/
def maskN (n : Nat) (v : BitVec 16) : BitVec 16 := BitVec.ofNat 16 (v.toNat / 2 ^ (16 - n) * 2 ^ (16 - n))
def maskIQ (n : Nat) (x : IQ) : IQ := ⟨maskN n x.i, maskN n x.q⟩

/-- I then Q, each in two's complement (R84). -/
def iqBytes (x : IQ) : List Byte := leBytes 2 x.i.toNat ++ leBytes 2 x.q.toNat

/-- A filter output: a free value, rounded and saturated to 16 bits (R79). -/
def filterOut (s : State) : IQ × State :=
  let (n, s1) := s.draw
  (mkIQ (sat16 (Config.halfBandI n)) (sat16 (Config.halfBandQ n)), s1)

/-- n filter outputs. -/
def filterOuts : Nat → State → List IQ × State
  | 0, s => ([], s)
  | n + 1, s =>
    let (x, s1) := filterOut s
    let (xs, s2) := filterOuts n s1
    (x :: xs, s2)

/-! ### Slot buffer (R80, R84) -/

def slotNsamp (s : State) : Nat := s.fld R.RFI_SBUF_NSAMP F.RFI_SBUF_NSAMP_N
def sbufBase (s : State) : Nat := s.pair R.RFI_SBUF_BASE_LO R.RFI_SBUF_BASE_HI

/-- Where sample k of antenna a in the slot numbered n lies (R84). -/
def sampleAddr (s : State) (slot a k : Nat) : Nat := sbufBase s + ((slot % 4 * 4 + a) * slotNsamp s + k) * 4

/-- Store samples of a slot from index k on; those beyond NSAMP are not written. -/
def storeSamples (a slot k : Nat) (xs : List IQ) (s : State) : State :=
  let ys := xs.take (slotNsamp s - k)
  if ys.isEmpty then s else deviceWrite 16 (sampleAddr s slot a k) (ys.flatMap iqBytes) s

/-- Write the rest of a slot's position as zero. -/
def zeroRest (a slot k : Nat) (s : State) : State :=
  if k < slotNsamp s then deviceWrite 16 (sampleAddr s slot a k) (List.replicate (4 * (slotNsamp s - k)) 0) s else s

def decFactor (code : Nat) : Nat := if code = 0 then 1 else if code = 1 then 2 else 4

/-- Decimate link samples (R79): by 1 they pass, by 2 or 4 the fixed filters answer; what does not fill a step waits. -/
def decimate (f : Nat) (part xs : List IQ) (s : State) : List IQ × List IQ × State :=
  if f = 1 then (xs, [], s)
  else
    let all := part ++ xs
    let (ys, s1) := filterOuts (all.length / f) s
    (ys, all.drop (all.length / f * f), s1)

/-- Take link samples of one antenna into its present slot. -/
def takeSamples (a : Nat) (xs : List IQ) (s : State) : State :=
  let r := s.rxAnt a
  let f := decFactor (s.fld (R.RFI_RXMAP a) F.RFI_RXMAP_DEC)
  let (ys, part, s1) := decimate f r.part xs s
  let s2 := if a < 4 && s.flag (R.RFI_RXMAP a) F.RFI_RXMAP_EN then storeSamples a r.slot r.count ys s1 else s1
  s2.setRxAnt a { r with count := r.count + ys.length, part := part, tail := (r.tail ++ xs).drop ((r.tail ++ xs).length - 4096) }

/-- Begin the next slot of an antenna: the rest of the position before is zero. -/
def beginSlot (a slot : Nat) (s : State) : State :=
  let r := s.rxAnt a
  let s1 := if a < 4 && s.flag (R.RFI_RXMAP a) F.RFI_RXMAP_EN && r.slot != slot then zeroRest a r.slot r.count s else s
  s1.setRxAnt a { r with slot := slot, count := 0, next := none, part := [] }

/-- The twin role in a running pair: only the PRIMARY receives and transmits for its cells (R447, R525). -/
def twinPrimary (s : State) : Bool := twinRunning s && !s.flag R.CRY_TWIN_CTL F.CRY_TWIN_CTL_ROLE
def twinSecondary (s : State) : Bool := twinRunning s && s.flag R.CRY_TWIN_CTL F.CRY_TWIN_CTL_ROLE

/-- Link samples of one stream, across the start of the next slot. -/
def placeSamples (a : Nat) (ys : List IQ) (s : State) : State :=
  match (s.rxAnt a).next with
  | none => takeSamples a ys s
  | some (slot, skip) =>
    if ys.length ≤ skip then
      let s1 := takeSamples a ys s
      s1.setRxAnt a { s1.rxAnt a with next := some (slot, skip - ys.length) }
    else takeSamples a (ys.drop skip) (beginSlot a slot (takeSamples a (ys.take skip) s))

/-- Samples of one receive stream (R78, R83, R84). Without lock every sample is zero. A PRIMARY mirrors them; a SECONDARY's own Radio
Front delivers nothing (R447, R525). -/
def rxSamples (a : Nat) (xs : List IQ) (s : State) : State :=
  if integrated s && s.rfi.rxOn && !twinSecondary s then
    let n := s.fld R.RFI_JRX_CFG F.RFI_JRX_CFG_N
    let ys := if s.flag R.RFI_STAT F.RFI_STAT_RX_LOCK then xs.map (maskIQ n) else xs.map fun _ => ⟨0, 0⟩
    placeSamples a ys (if twinPrimary s then sendTwin 2 (Config.mirrorBytes a ys) s else s)
  else s

/-- The samples a PRIMARY mirrors, on the SECONDARY. -/
def mirrorSamples (bs : List Byte) (s : State) : State :=
  let (a, slot, xs) := Config.mirrorRead bs
  if a < 5 then
    placeSamples a xs (match slot with
      | none => s
      | some n => beginSlot a n s)
  else s

def execRxSamples (ant : Fin 5) (x : List IQ) (s : State) : Host.Outcome State Fault Refusal := .next (rxSamples ant.val x s)

/-! ### The slot-start marker (R80, R82, R85, R95) -/

def rfiSg (s : State) : Nat := s.fld R.RFI_CTL F.RFI_CTL_SG

/-- Where the gain record of channel a for a slot lies (R85). -/
def gainRecord (s : State) (slot a : Nat) : Nat := sbufBase s + 16 * slotNsamp s * 4 + (slot % 4 * 5 + a) * 1024

def slotNow (s : State) : Nat := (s.reg (R.BEL_SG_COUNT (rfiSg s))).toNat

/-- The headers of the new position's five records, NCHG = 0 (R85). -/
def gainHeaders (s : State) : State :=
  (List.range 5).foldl (fun t a =>
    let h := leBytes 4 (slotNow t) ++ [0, 0] ++ leBytes 1 (t.fld (R.RFI_AGC_GAIN a) F.RFI_AGC_GAIN_G) ++ List.replicate 9 0
    (deviceWrite 16 (gainRecord t (slotNow t) a) h t).setAgc a { grid := 0, nchg := 0, ovf := false }) s

/-- Marker: an antenna's next slot starts after the boundary, offset by RFI_RX_LAT link samples (R80). A negative offset takes
samples already received. -/
def markAntenna (clocks a : Nat) (s : State) : State :=
  let l := s.fld R.RFI_JRX_CFG F.RFI_JRX_CFG_L
  let m := s.fld R.RFI_JRX_CFG F.RFI_JRX_CFG_M
  let skip : Int := (clocks * 4 * l / m : Nat) + signed 13 (s.fld R.RFI_RX_LAT F.RFI_RX_LAT_SAMPLES)
  let r := s.rxAnt a
  if skip ≤ 0 then
    let back := r.tail.drop (r.tail.length - (-skip).toNat)
    takeSamples a back (beginSlot a (slotNow s) s)
  else s.setRxAnt a { r with next := some (slotNow s, skip.toNat) }

/-- FREEZE_SRC bit of a channel. -/
def freezeSrc (s : State) (a i : Nat) : Bool := bitOf (s.fld (R.RFI_AGC_CTL a) F.RFI_AGC_CTL_FREEZE_SRC) i

def fastFreeze (s : State) (a : Nat) : Bool := s.fld (R.RFI_AGC_CTL a) F.RFI_AGC_CTL_MODE == 1

/-- Freezes are released; with FREEZE_DLY = 0 and FREEZE_SRC bit 1 the channel is frozen again at once (R96). -/
def releaseFreezes (s : State) : State :=
  (List.range 5).foldl (fun t a =>
    t.setFlag (R.RFI_AGC_STAT a) F.RFI_AGC_STAT_FROZEN
      (fastFreeze t a && freezeSrc t a 1 && t.fld (R.RFI_AGC_FRZ a) F.RFI_AGC_FRZ_FREEZE_DLY == 0)) s

def alignPh (clocks : Nat) (s : State) : State :=
  let old := s.fld R.RFI_STAT F.RFI_STAT_ALIGN_PH
  let jump := s.rfi.marked && (clocks > old + 1 || old > clocks + 1)
  let s1 := { s.setFld R.RFI_STAT F.RFI_STAT_ALIGN_PH clocks with rfi := { s.rfi with marked := true } }
  if jump then event 0x0020 16 clocks (s1.setFlag R.RFI_STAT F.RFI_STAT_ALIGN_JUMP true) else s1

/-- The marker reaches the Radio Front, `clocks` receive link clocks before the reference boundary. -/
def slotStartMarker (clocks : Nat) (s : State) : State :=
  if integrated s && s.rfi.rxOn then
    let s1 := releaseFreezes (alignPh clocks s)
    let s2 := gainHeaders s1
    (List.range 5).foldl (fun t a => markAntenna clocks a t) s2
  else s

def execSlotStartMarker (clocks : BitVec 12) (s : State) : Host.Outcome State Fault Refusal := .next (slotStartMarker clocks.toNat s)

/-! ### Gain (R94-R100) -/

/-- Log a change of channel a in the slot's record (R100): the entry before NCHG counts it; beyond 64 only OVF. -/
def logGain (a g sidx : Nat) (s : State) : State :=
  let x := s.agcOf a
  let rec_ := gainRecord s (slotNow s) a
  if x.nchg < 64 then
    let s1 := deviceWrite 16 (rec_ + 16 + 8 * x.nchg) (leBytes 4 sidx ++ leBytes 1 g ++ [0, 0, 0]) s
    (deviceWrite 16 (rec_ + 4) (leBytes 1 (x.nchg + 1)) s1).setAgc a { x with nchg := x.nchg + 1 }
  else (deviceWrite 16 (rec_ + 5) [1] s).setAgc a { x with ovf := true }

/-- Queue a CNV_SPI frame; one waiting for the channel takes the new g in its place (R99). -/
def queueCnv (a g : Nat) (q : List (Nat × Nat)) : List (Nat × Nat) :=
  if q.any (·.1 == a) then q.map fun p => if p.1 == a then (a, g) else p else q ++ [(a, g)]

/-- Does the channel's gain go through CNV_SPI (R98)? -/
def viaSpi (s : State) (a : Nat) : Bool := a == 4 || s.flag (R.RFI_AGC_CTL a) F.RFI_AGC_CTL_OUT

/-- Take a channel's gain index to a new value (R98): pins and log, or a frame. -/
def changeGain (a g sidx : Nat) (s : State) : State :=
  if g = s.fld (R.RFI_AGC_GAIN a) F.RFI_AGC_GAIN_G then s
  else
    let s1 := s.setFld (R.RFI_AGC_GAIN a) F.RFI_AGC_GAIN_G g
    if viaSpi s a then { s1 with rfi := { s1.rfi with cnv := queueCnv a g s1.rfi.cnv } }
    else logGain a g sidx { s1 with rfi := { s1.rfi with pins := Tab.set (fun _ => 0) s1.rfi.pins a g } }

/-- Quarter decibels per gain index (STEP). -/
def stepQuarters (code : Nat) : Nat := if code = 0 then 1 else if code = 1 then 2 else 4

/-- The change of g at a FAST_FREEZE grid point (R94). -/
def fastDelta (s : State) (a : Nat) (p : Int) (full : Bool) : Int :=
  let mx : Int := s.fld (R.RFI_AGC_LIM a) F.RFI_AGC_LIM_MAX_STEP
  if full then -mx
  else
    let tgt := signed 8 (s.fld (R.RFI_AGC_TARGET a) F.RFI_AGC_TARGET_DBFS)
    clampInt (-mx) mx (roundQuot (tgt - p) (stepQuarters (s.fld (R.RFI_AGC_LIM a) F.RFI_AGC_LIM_STEP)))

/-- g after a FAST_FREEZE change, within GMIN-GMAX (R94). -/
def fastGain (s : State) (a : Nat) (d : Int) : Nat :=
  (clampInt (s.fld (R.RFI_AGC_LIM a) F.RFI_AGC_LIM_GMIN) (s.fld (R.RFI_AGC_LIM a) F.RFI_AGC_LIM_GMAX)
    ((s.fld (R.RFI_AGC_GAIN a) F.RFI_AGC_GAIN_G : Int) + d)).toNat

/-- g after a STEPPED change, within 0-63. -/
def steppedGain (s : State) (a : Nat) (d : Int) : Nat :=
  (clampInt 0 63 ((s.fld (R.RFI_AGC_GAIN a) F.RFI_AGC_GAIN_G : Int) + d)).toNat

/-- Apply a step, or keep it for the end of the capture on the ORX (R93). -/
def stepGain (a : Nat) (fast : Bool) (d : Int) (sidx : Nat) (s : State) : State :=
  if a = 4 && s.rfi.capRun then { s with rfi := { s.rfi with orxSteps := s.rfi.orxSteps ++ [d] } }
  else changeGain a (if fast then fastGain s a d else steppedGain s a d) sidx s

/-- A 0.5 µs grid point (R94, R96, R98). -/
def agcGridPoint (a : Nat) (p : Int) (full : Bool) (sidx : Nat) (s : State) : State :=
  if integrated s && fastFreeze s a then
    let x := s.agcOf a
    let n := x.grid + 1
    let s1 := s.setAgc a { x with grid := n }
    let frozen := s.flag (R.RFI_AGC_STAT a) F.RFI_AGC_STAT_FROZEN ||
      (freezeSrc s a 1 && s.fld (R.RFI_AGC_FRZ a) F.RFI_AGC_FRZ_FREEZE_DLY ≤ n)
    if frozen || (viaSpi s a && n % 4 != 0) then s1 else stepGain a true (fastDelta s a p full) sidx s1
  else s

def execAgcGridPoint (ch : Fin 5) (p : BitVec 16) (fullScale : Bool) (sidx : Word) (s : State) : Host.Outcome State Fault Refusal :=
  .next (agcGridPoint ch.val p.toInt fullScale sidx.toNat s)

/-- FREEZE_DLY × 0.5 µs after the marker (R95). -/
def execAgcFreezeDelay (ch : Fin 5) (s : State) : Host.Outcome State Fault Refusal :=
  .next (if integrated s && fastFreeze s ch.val && freezeSrc s ch.val 1 then
      s.setFlag (R.RFI_AGC_STAT ch.val) F.RFI_AGC_STAT_FROZEN true else s)

/-- The end of a STEPPED window (R97): one decibel down, up, or none. -/
def agcWindowEnd (a : Nat) (p : Int) (sidx : Nat) (s : State) : State :=
  if integrated s && s.fld (R.RFI_AGC_CTL a) F.RFI_AGC_CTL_MODE = 2 then
    let up := signed 8 (s.fld (R.RFI_AGC_STEPD a) F.RFI_AGC_STEPD_UP_THR)
    let dn := signed 8 (s.fld (R.RFI_AGC_STEPD a) F.RFI_AGC_STEPD_DN_THR)
    let db : Int := 4 / stepQuarters (s.fld (R.RFI_AGC_LIM a) F.RFI_AGC_LIM_STEP)
    if p > up then stepGain a false (-db) sidx s else if p < dn then stepGain a false db sidx s else s
  else s

def execAgcWindowEnd (ch : Fin 5) (p : BitVec 16) (sidx : Word) (s : State) : Host.Outcome State Fault Refusal :=
  .next (agcWindowEnd ch.val p.toInt sidx.toNat s)

/-- A write of RFI_AGCa_CTL (R97): STEPPED with UP_THR not above DN_THR is refused. -/
def writeAgcCtl (a : Agent) (ch : Nat) (v : Word) (s : State) : State :=
  let off := R.RFI_AGC_CTL ch
  let up := signed 8 (s.fld (R.RFI_AGC_STEPD ch) F.RFI_AGC_STEPD_UP_THR)
  let dn := signed 8 (s.fld (R.RFI_AGC_STEPD ch) F.RFI_AGC_STEPD_DN_THR)
  if reaches a off s && F.RFI_AGC_CTL_MODE.get v = 2 && decide (up ≤ dn) then
    (storeReg a off (F.RFI_AGC_CTL_MODE.put v (s.fld off F.RFI_AGC_CTL_MODE)) s).setFlag (R.RFI_AGC_STAT ch) F.RFI_AGC_STAT_CFG_ERR true
  else storeReg a off v s

def execAgcModeWrite (a : Agent) (ch : Fin 5) (v : Word) (s : State) : Host.Outcome State Fault Refusal :=
  .next (writeAgcCtl a ch.val v s)

/-- A write of RFI_AGCa_GAIN: in MANUAL mode the written value drives the converter (R94, R98); it is not logged (R85). -/
def writeAgcGain (a : Agent) (ch : Nat) (v : Word) (s : State) : State :=
  let s1 := storeReg a (R.RFI_AGC_GAIN ch) v s
  let g := s1.fld (R.RFI_AGC_GAIN ch) F.RFI_AGC_GAIN_G
  if reaches a (R.RFI_AGC_GAIN ch) s && s.fld (R.RFI_AGC_CTL ch) F.RFI_AGC_CTL_MODE = 0 then
    if viaSpi s ch then { s1 with rfi := { s1.rfi with cnv := queueCnv ch g s1.rfi.cnv } }
    else { s1 with rfi := { s1.rfi with pins := Tab.set (fun _ => 0) s1.rfi.pins ch g } }
  else s1

/-- The word of a CNV_SPI frame (R99). -/
def cnvWord (s : State) (a g : Nat) : Nat :=
  let addr := s.fld R.RFI_CNV_FMT F.RFI_CNV_FMT_ADDR
  if s.flag R.RFI_CNV_FMT F.RFI_CNV_FMT_W24 then addr * 65536 + a * 256 + g else (addr + a) % 256 * 256 + g

/-- The waiting frame that is due is sent; its change is logged with its sample index (R99, R100). -/
def cnvSpiFrame (sidx : Nat) (s : State) : State :=
  match s.rfi.cnv with
  | [] => s
  | (a, g) :: rest =>
    let s1 := { s with rfi := { s.rfi with cnv := rest } }.emit (.spi false a (cnvWord s a g))
    if s.fld (R.RFI_AGC_CTL a) F.RFI_AGC_CTL_MODE = 0 then s1 else logGain a g sidx s1

def execCnvSpiFrame (sidx : Word) (s : State) : Host.Outcome State Fault Refusal := .next (cnvSpiFrame sidx.toNat s)

/-! ### DPD (R86-R92) -/

/-- A term of a bank: k, m, l and whether it is valid for use (VALID). -/
structure DpdTerm where
  idx : Nat
  k : Nat
  m : Nat
  l : Int
  deriving DecidableEq, Repr

def termOf (s : State) (t b i : Nat) : Option DpdTerm :=
  let off := R.RFI_DPD_TERM t b i
  if s.flag off F.RFI_DPD_TERM_VALID then
    some { idx := i, k := s.fld off F.RFI_DPD_TERM_K, m := s.fld off F.RFI_DPD_TERM_M, l := signed 3 (s.fld off F.RFI_DPD_TERM_L) }
  else none

def bankTerms (s : State) (t b : Nat) : List DpdTerm := (List.range 128).filterMap (termOf s t b)

/-- A term within R86's limits that R87 does not call invalid on its own. -/
def termOk (x : DpdTerm) : Bool := 1 ≤ x.k && x.k ≤ 9 && decide (-2 ≤ x.l) && decide (x.l ≤ 2) && !(x.k == 1 && x.l != 0)

def noDup : List DpdTerm → Bool
  | [] => true
  | x :: xs => xs.all (fun y => !(y.k == x.k && y.m == x.m && y.l == x.l)) && noDup xs

/-- R87. -/
def bankOk (s : State) (t b : Nat) : Bool := let ts := bankTerms s t b; ts.all termOk && noDup ts

def activeBank (s : State) (t : Nat) : Nat := s.fld (R.RFI_DPD_CTL t) F.RFI_DPD_CTL_ACTIVE
def swapPending (s : State) (t : Nat) : Bool := s.flag (R.RFI_DPD_CTL t) F.RFI_DPD_CTL_SWAP

/-- A write of RFI_DPDt_CTL (R88): SWAP and a change of EN wait for the slot strobe. -/
def execDpdSwap (a : Agent) (t : Fin 4) (v : Word) (s : State) : Host.Outcome State Fault Refusal :=
  .next (storeReg a (R.RFI_DPD_CTL t.val) v s)

/-- The offset of a bank's word: 128 terms, then the 256 coefficient words. -/
def bankOff (t b w : Nat) : Nat := if w < 128 then R.RFI_DPD_TERM t b w else R.RFI_DPD_COEF t b (w - 128)

/-- A write to a bank (R89). -/
def writeBank (a : Agent) (t b w : Nat) (v : Word) (s : State) : State :=
  if !reaches a (bankOff t b w) s then s
  else if swapPending s t then s.setFlag (R.RFI_DPD_STAT t) F.RFI_DPD_STAT_PEND_WR true
  else if activeBank s t = b then s.setFlag (R.RFI_DPD_STAT t) F.RFI_DPD_STAT_ACT_WR true
  else storeReg a (bankOff t b w) v s

def execDpdBankWrite (a : Agent) (t : Fin 4) (bank : Fin 2) (word : Fin 384) (v : Word) (s : State) :
    Host.Outcome State Fault Refusal := .next (writeBank a t.val bank.val word.val v s)

/-- The slot strobe's part for one chain (R87, R88): EN, and the swap or its refusal. -/
def dpdStrobe (t : Nat) (s : State) : State :=
  let s1 := s.setTxChain t { s.txChain t with en := s.flag (R.RFI_DPD_CTL t) F.RFI_DPD_CTL_EN }
  if swapPending s t then
    let b := 1 - activeBank s t
    let s2 := s1.setFlag (R.RFI_DPD_CTL t) F.RFI_DPD_CTL_SWAP false
    if bankOk s t b then s2.setFld (R.RFI_DPD_CTL t) F.RFI_DPD_CTL_ACTIVE b
    else s2.setFlag (R.RFI_DPD_STAT t) F.RFI_DPD_STAT_TERM_ERR true
  else s1

/-- |x|^(k-1) in units of 2^-48; exactly 1 for k = 1. -/
def gmpPower (k : Nat) (x : IQ) : Int := if k = 1 then 2 ^ 48 else Config.gmpMag k (iqI x) (iqQ x)

/-- x at a position of the stream; before its start it is zero. -/
def sampleAt (xs : List IQ) (n : Int) : IQ := if n < 0 then ⟨0, 0⟩ else xs.getD n.toNat ⟨0, 0⟩

/-- The sum of R86 at position n, in units of 2^-66 (Q1.18 times 2^-48): real and imaginary parts. -/
def gmpSum (s : State) (t b : Nat) (terms : List DpdTerm) (xs : List IQ) (n : Nat) : Int × Int :=
  terms.foldl (fun acc x =>
    let u := sampleAt xs ((n : Int) - x.m)
    let p := gmpPower x.k (sampleAt xs ((n : Int) - x.m - x.l))
    let cr := signed 20 (s.fld (R.RFI_DPD_COEF t b (2 * x.idx)) F.RFI_DPD_COEF_V)
    let ci := signed 20 (s.fld (R.RFI_DPD_COEF t b (2 * x.idx + 1)) F.RFI_DPD_COEF_V)
    (acc.1 + (cr * iqI u - ci * iqQ u) * p, acc.2 + (cr * iqQ u + ci * iqI u) * p)) (0, 0)

/-- y(n), in units of 2^-66. -/
def dpdOut (s : State) (t : Nat) (xs : List IQ) (n : Nat) : Int × Int :=
  if (s.txChain t).en then gmpSum s t (activeBank s t) (bankTerms s t (activeBank s t)) xs n
  else (iqI (sampleAt xs n) * 2 ^ 66, iqQ (sampleAt xs n) * 2 ^ 66)

/-- The learned term c(n) (R91): interpolated by LT_DEC from the corrections, by filters whose coefficients are not given. -/
def learnedTerm (t : Nat) (s : State) : IQ × State :=
  if s.flag (R.RFI_DPD_CTL t) F.RFI_DPD_CTL_LT_EN then filterOut s else (mkIQ 0 0, s)

/-- y(n) + c(n), rounded half up and saturated (R90); the low 16 - N bits are sent as zero (R78). -/
def txOut (s : State) (y : Int × Int) (c : IQ) : IQ :=
  maskIQ (s.fld R.RFI_JTX_CFG F.RFI_JTX_CFG_N)
    (mkIQ (sat16 (roundQuot (y.1 + iqI c * 2 ^ 66) (2 ^ 66))) (sat16 (roundQuot (y.2 + iqQ c * 2 ^ 66) (2 ^ 66))))

/-- The outputs for positions from n on, `cnt` of them. -/
def txOuts (t : Nat) (xs : List IQ) : Nat → Nat → State → List IQ × State
  | _, 0, s => ([], s)
  | n, cnt + 1, s =>
    let (c, s1) := learnedTerm t s
    let y := txOut s (dpdOut s t xs n) c
    let (ys, s2) := txOuts t xs (n + 1) cnt s1
    (y :: ys, s2)

/-- LT_DEC: one correction for 4 or 8 link samples (R91). -/
def ltDec (s : State) (t : Nat) : Nat := if s.flag (R.RFI_DPD_CTL t) F.RFI_DPD_CTL_LT_DEC then 8 else 4

/-- The transmit links carry zero samples: an UNTESTED start without the override, or a SECONDARY (R524, R525). -/
def txMuted (s : State) : Bool := startBlocked s (rfiSg s) || twinSecondary s

/-- Cell-rate samples of a chain (R86): interpolated to the link rate, through the active bank, sent. Two samples wait for the
negative cross lag. -/
def transmitSamples (t : Nat) (x : List IQ) (s : State) : State :=
  if integrated s && s.rfi.txOn && s.flag (R.RFI_TXMAP t) F.RFI_TXMAP_EN then
    let f := decFactor (s.fld (R.RFI_TXMAP t) F.RFI_TXMAP_INT)
    let (new, s1) := if f = 1 then (x, s) else filterOuts (f * x.length) s
    let h := (s.txChain t).hist
    let xs := h ++ new
    let (ys, s2) := txOuts t xs (h.length - 2) (xs.length - 2 - (h.length - 2)) s1
    let used := if s.flag (R.RFI_DPD_CTL t) F.RFI_DPD_CTL_LT_EN then ys.length / ltDec s t else 0
    (s2.setTxChain t { s2.txChain t with hist := xs.drop (xs.length - 12), corr := (s2.txChain t).corr.drop used }).emit
      (.txSamples t (if txMuted s then ys.map fun _ => mkIQ 0 0 else ys))
  else s

def execTransmitSamples (t : Fin 4) (x : List IQ) (s : State) : Host.Outcome State Fault Refusal := .next (transmitSamples t.val x s)

/-- A correction sample arrives within its bound (R91). -/
def execLtCorrection (t : Fin 4) (c : IQ) (s : State) : Host.Outcome State Fault Refusal :=
  .next (if s.flag (R.RFI_DPD_CTL t.val) F.RFI_DPD_CTL_LT_EN then
      s.setTxChain t.val { s.txChain t.val with corr := (s.txChain t.val).corr ++ [c] } else s)

/-- A correction sample misses its bound: zero in its place, and counted (R91). -/
def execLtUnder (t : Fin 4) (s : State) : Host.Outcome State Fault Refusal :=
  .next (if s.flag (R.RFI_DPD_CTL t.val) F.RFI_DPD_CTL_LT_EN then
      (s.setTxChain t.val { s.txChain t.val with corr := (s.txChain t.val).corr ++ [mkIQ 0 0] }).addSat
        (R.RFI_DPD_LT_UNDER t.val) F.RFI_DPD_LT_UNDER_CNT 1 else s)

/-- A write of RFI_DPDt_CAP (R92): GO queues a capture unless one of the chain is queued or running. -/
def captureGo (a : Agent) (t : Nat) (v : Word) (s : State) : State :=
  let off := R.RFI_DPD_CAP t
  let s1 := storeReg a off v s
  if reaches a off s && expertOn s 1 && F.RFI_DPD_CAP_GO.get v = 1 && !s.rfi.caps.any (·.chain == t) then
    let c : Capture := { chain := t, sym := s1.fld off F.RFI_DPD_CAP_SYM, len := (s1.fld off F.RFI_DPD_CAP_LEN + 1) * 256,
                         addr := s.pair (R.RFI_DPD_CAP_ADDR_LO t) (R.RFI_DPD_CAP_ADDR_HI t) }
    { s1 with rfi := { s1.rfi with caps := s1.rfi.caps ++ [c], orxSel := if s1.rfi.caps.isEmpty then t else s1.rfi.orxSel } }
  else s1

def execDpdCaptureGo (a : Agent) (t : Fin 4) (v : Word) (s : State) : Host.Outcome State Fault Refusal := .next (captureGo a t.val v s)

/-- The first capture queued starts (R92). -/
def execDpdCaptureStart (s : State) : Host.Outcome State Fault Refusal :=
  .next (match s.rfi.caps with
    | [] => s
    | c :: _ => if s.rfi.capRun then s else { s with rfi := { s.rfi with capRun := true, orxSel := c.chain } })

def fitIQ (n : Nat) (x : List IQ) : List IQ := (x ++ List.replicate n (mkIQ 0 0)).take n

/-- The running capture completes (R92, R93): x then ORX, DONE, the next capture's ORX_SEL, the deferred ORX steps. -/
def captureDone (x orx : List IQ) (s : State) : State :=
  match s.rfi.caps with
  | [] => s
  | c :: rest =>
    if s.rfi.capRun then
      let bs := (fitIQ c.len x ++ fitIQ c.len orx).flatMap iqBytes
      let s1 := (deviceWrite 16 c.addr bs s).setFlag (R.RFI_DPD_CAP_STAT c.chain) F.RFI_DPD_CAP_STAT_DONE true
      let steps := s1.rfi.orxSteps
      let s2 := { s1 with rfi := { s1.rfi with caps := rest, capRun := false, orxSteps := [],
                                               orxSel := match rest with | [] => s1.rfi.orxSel | d :: _ => d.chain } }
      steps.foldl (fun t d => stepGain 4 (fastFreeze t 4) d 0 t) s2
    else s

def execDpdCaptureDone (x orx : List IQ) (s : State) : Host.Outcome State Fault Refusal := .next (captureDone x orx s)

/-! ### Preambles (R101-R106) -/

/-- R102: a format code that its LEN allows. -/
def formatOk (format len : Nat) : Bool := (format < 4 && len == 0) || (4 ≤ format && format < 13 && len == 1)

/-- A write of RFI_PRAc_CTL (R102). Enabling starts the cell's counts (R111). -/
def writePraCtl (a : Agent) (c : Nat) (v : Word) (s : State) : State :=
  let off := R.RFI_PRA_CTL c
  if reaches a off s && F.RFI_PRA_CTL_EN.get v = 1 then
    if formatOk (F.RFI_PRA_CTL_FORMAT.get v) (F.RFI_PRA_CTL_LEN.get v) then
      let s1 := storeReg a off v s
      if s.flag off F.RFI_PRA_CTL_EN then s1 else s1.setRadioCell c { s1.radioCell c with ndet := 0, nwr := 0 }
    else (storeReg a off (F.RFI_PRA_CTL_EN.put v 0) s).setFlag R.RFI_STAT F.RFI_STAT_CFG_ERR true
  else storeReg a off v s

def execPrachEnable (a : Agent) (c : Fin 4) (v : Word) (s : State) : Host.Outcome State Fault Refusal := .next (writePraCtl a c.val v s)

/-- The cell's comparator has fired with DEST including RF: an occasion starts (R101). -/
def prachOccasion (c : Nat) (s : State) : State :=
  let cmp := s.fld (R.RFI_PRA_OCC c) F.RFI_PRA_OCC_CMP
  if s.flag (R.RFI_PRA_CTL c) F.RFI_PRA_CTL_EN && integrated s && bitOf (s.fld (R.BEL_CMP_CTL cmp) F.BEL_CMP_CTL_DEST) 2 then
    s.setRadioCell c { s.radioCell c with occ := some (s.pair (R.BEL_CMP_FIRE_LO cmp) (R.BEL_CMP_FIRE_HI cmp)) }
  else s

def execPrachOccasion (c : Fin 4) (s : State) : Host.Outcome State Fault Refusal := .next (prachOccasion c.val s)

/-- A x 2^-k of R106, its rounding left open. -/
def avgPart (d : Int) (k : Nat) : Int := d / 2 ^ k + (if d % 2 ^ k = 0 then 0 else if Config.avgUp d k then 1 else 0)

/-- One measurement f in mHz (R106). -/
def avgUpdate (c : Nat) (f : Int) (s : State) : State :=
  let x := s.radioCell c
  s.setRadioCell c { x with avg := signed 32 (unsigned 32 (x.avg + avgPart (f - x.avg) (F.RFI_SYN_CTL_AVG_SHIFT.get s.rfi.synCtl))) }

/-- Detections come from this source: SRC 0, or POOLED mode (R106, R110). -/
def avgFromDetections (s : State) : Bool := s.rfi.mode == 2 || F.RFI_SYN_CTL_SRC.get s.rfi.synCtl == 0

/-- The detections of a list of peaks: at most one per preamble, ascending (R103). -/
def detected (thr : Nat) (peaks : List Peak) : List Peak :=
  (List.range 64).filterMap fun p => peaks.find? fun k => k.preamble.val == p && thr ≤ k.pnr.toNat

/-- Table RFI-1. -/
def detectionBytes (cell dnc : Nat) (p : Peak) : List Byte :=
  leBytes 1 cell ++ leBytes 1 p.preamble.val ++ leBytes 2 p.pnr.toNat ++ leBytes 4 p.ta.toNat ++ leBytes 2 p.fofs.toNat ++ [0, 0] ++
  leBytes 4 dnc

/-- One detection (R104, R106): its ring entry or its drop, and the offset average. -/
def putDetection (cell dnc : Nat) (p : Peak) (s : State) : State :=
  let used := idxSub (s.reg R.RFI_PDR_PIDX).toNat (s.reg R.RFI_PDR_CIDX).toNat
  let s1 :=
    if s.rfi.pdrOff || 1024 ≤ used then s.addSat R.RFI_PDR_DROP F.RFI_PDR_DROP_CNT 1
    else
      (deviceWrite 16 (s.pair R.RFI_PDR_BASE_LO R.RFI_PDR_BASE_HI + 16 * ((s.reg R.RFI_PDR_PIDX).toNat % 1024))
        (detectionBytes cell dnc p) s).addWrap R.RFI_PDR_PIDX F.RFI_PDR_PIDX_CNT 1
  let s2 := s1.setRadioCell cell { s1.radioCell cell with ndet := ((s1.radioCell cell).ndet + 1) % 2 ^ 32 }
  if avgFromDetections s2 then avgUpdate cell (1000 * signed 16 p.fofs.toNat) s2 else s2

/-- Freeze the masked channels whose FREEZE_SRC bit 0 is set (R95). -/
def freezeByDetection (c : Nat) (s : State) : State :=
  (List.range 4).foldl (fun t a =>
    if bitOf (t.fld (R.RFI_PRA_CTL c) F.RFI_PRA_CTL_MASK) a && fastFreeze t a && freezeSrc t a 0 then
      t.setFlag (R.RFI_AGC_STAT a) F.RFI_AGC_STAT_FROZEN true else t) s

/-- An occasion has ended (R103-R106). In POOLED mode firmware has detected (R110), unless the start blocks it (R524). -/
def preambleDetection (c : Nat) (peaks : List Peak) (s : State) : State :=
  if integrated s && decide (c < 4) then
    match (s.radioCell c).occ with
    | none => s
    | some dnc =>
      let ds := detected (s.fld (R.RFI_PRA_THR c) F.RFI_PRA_THR_THR) peaks
      let s1 := s.setRadioCell c { s.radioCell c with occ := none }
      let s2 := if ds.isEmpty then s1 else freezeByDetection c s1
      ds.foldl (fun t p => putDetection c dnc p t) s2
  else if s.rfi.mode = 2 && !startBlocked s (rfiSg s) then (detected 0 peaks).foldl (fun t p => putDetection c t.bel.dnc p t) s
  else s

def execPreambleDetection (c : Fin 16) (peaks : List Peak) (s : State) : Host.Outcome State Fault Refusal :=
  .next (preambleDetection c.val peaks s)

/-- A monitor measurement (R106): frequency in mHz, timing in ns. -/
def monitorMeasurement (ch : Nat) (f : Int) (terr : Word) (s : State) : State :=
  if integrated s && s.fld (R.RFI_AGC_CTL ch) F.RFI_AGC_CTL_MODE = 2 && s.flag (R.RFI_MON ch) F.RFI_MON_EN then
    let c := s.fld (R.RFI_MON ch) F.RFI_MON_CELL
    let s1 := s.setRadioCell c { s.radioCell c with terr := terr }
    if F.RFI_SYN_CTL_SRC.get s.rfi.synCtl = 1 then avgUpdate c f s1 else s1
  else s

def execMonitorMeasurement (ch : Fin 5) (fofs terr : Word) (s : State) : Host.Outcome State Fault Refusal :=
  .next (monitorMeasurement ch.val (signed 32 fofs.toNat) terr s)

/-! ### What a slot strobe does (R74, R88, R107, R108, R111) -/

def magnitude (i : Int) : Int := if i < 0 then -i else i

/-- The frame of a synthesiser word (R108). -/
def synFrame (s : State) (w : Nat) : Nat :=
  let addr := s.fld R.RFI_SYN_FMT F.RFI_SYN_FMT_ADDR
  if s.flag R.RFI_SYN_FMT F.RFI_SYN_FMT_W24 then addr * 2 ^ 24 + w % 2 ^ 24 else addr * 2 ^ 16 + w % 2 ^ 16

/-- One synthesiser correction (R107). -/
def synCorrection (s : State) : State :=
  let c := F.RFI_SYN_CTL_CELL.get s.rfi.synCtl
  let x := s.radioCell c
  let dead : Int := 1000 * s.fld R.RFI_SYN_LIM F.RFI_SYN_LIM_DEADBAND
  let mx : Int := 1000 * s.fld R.RFI_SYN_LIM F.RFI_SYN_LIM_MAX_STEP
  if F.RFI_SYN_CTL_EN.get s.rfi.synCtl = 1 && integrated s then
    if s.rfi.hold = 0 then
      if dead < magnitude x.avg then
        let step := clampInt (-mx) mx x.avg
        let res := Nat.max 1 (s.fld R.RFI_SYN_FMT F.RFI_SYN_FMT_RES)
        let w := clampInt (-8388608) 8388607 (signed 24 (s.fld R.RFI_SYN_WORD F.RFI_SYN_WORD_WORD) - roundQuot step res)
        let s1 := (s.setFld R.RFI_SYN_WORD F.RFI_SYN_WORD_WORD (unsigned 24 w)).setRadioCell c
          { x with avg := x.avg - step, nwr := (x.nwr + 1) % 2 ^ 32 }
        { s1 with rfi := { s1.rfi with hold := F.RFI_SYN_CTL_HOLD.get s.rfi.synCtl } }.emit (.spi true 0 (synFrame s1 (unsigned 24 w)))
      else s
    else { s with rfi := { s.rfi with hold := s.rfi.hold - 1 } }
  else s

/-- Table RFI-2. -/
def cellStatusBytes (s : State) (c : Nat) : List Byte :=
  let x := s.radioCell c
  leBytes 4 (unsigned 32 x.avg) ++ leBytes 4 x.terr.toNat ++ leBytes 4 x.ndet ++
  leBytes 4 (unsigned 32 (signed 24 (s.fld R.RFI_SYN_WORD F.RFI_SYN_WORD_WORD))) ++ leBytes 4 x.nwr ++ leBytes 8 s.bel.dnc ++
  List.replicate 36 0

/-- One entry for each live cell of the generator (R111). -/
def cellStatusWrite (g : Nat) (s : State) : State :=
  (List.range 16).foldl (fun t c =>
    if t.flag (R.FWL_CELL_CTL c) F.FWL_CELL_CTL_EN && t.fld (R.FWL_CELL_CTL c) F.FWL_CELL_CTL_SG == g && t.rfi.mode != 0 then
      deviceWrite 16 (t.pair R.RFI_CST_BASE_LO R.RFI_CST_BASE_HI + 64 * c) (cellStatusBytes t c) t
    else t) s

/-- The Radio Front at a slot strobe of generator g. -/
def radioStrobe (g : Nat) (s : State) : State :=
  let s1 :=
    if rfiSg s = g then
      let s2 := { s with rfi := { s.rfi with mode := s.fld R.RFI_CTL F.RFI_CTL_MODE, synCtl := s.reg R.RFI_SYN_CTL } }
      synCorrection ((List.range 4).foldl (fun t c => dpdStrobe c t) s2)
    else s
  cellStatusWrite g s1

/-- A write of RFI_PDR_BASE enables the detection ring again after a reset that disabled it (R113). -/
def writePdrBase (a : Agent) (off : Nat) (v : Word) (s : State) : State :=
  let s1 := storeReg a off v s
  if reaches a off s then { s1 with rfi := { s1.rfi with pdrOff := false } } else s1

end Sys2Proof.Machine
end

