-- ==== Sys2Proof/Machine/Fronthaul.lean ====
section
/-! DEFINITION. The Fronthaul Switch (11_fronthaul_switch): reception, learning, forwarding, eCPRI flows, the host port, scheduling, and
its command registers. -/

namespace Sys2Proof.Machine

def ctrUp (off : Nat) (s : State) : State := s.setReg off (s.reg off + 1)
/-- Add to a 64-bit counter in a LO and a HI register. -/
def pairUp (lo hi n : Nat) (s : State) : State := s.setPair lo hi ((s.pair lo hi + n) % 2 ^ 64)

/-! ### The MAC table (R356-R362) -/

def macEnt (s : State) (i : Nat) : Option MacEnt := Tab.get (fun _ => none) s.fhs.mac i
def setMac (i : Nat) (e : Option MacEnt) (s : State) : State :=
  { s with fhs := { s.fhs with mac := Tab.set (fun _ => none) s.fhs.mac i e } }

/-- The set of a key. -/
def macSet (vid mac : Nat) : Nat := crc32 (beOut 2 (vid % 4096) ++ beOut 6 mac) % 1024

def macMatch (vid mac : Nat) (e : Option MacEnt) : Bool :=
  match e with
  | some x => x.vid == vid && x.mac == mac
  | none => false

/-- The index and entry of a key. -/
def macFind (s : State) (vid mac : Nat) : Option (Nat × MacEnt) :=
  match ((List.range 4).map (4 * macSet vid mac + ·)).find? fun i => macMatch vid mac (macEnt s i) with
  | some i => (macEnt s i).map fun e => (i, e)
  | none => none

def macInfo (i port req : Nat) : Nat := i + 2 ^ 12 * port + 2 ^ 16 * req

/-- Dampening: FHS_DAMP milliseconds in DNC nanoseconds. -/
def damped (s : State) (e : MacEnt) : Bool := s.bel.dnc - e.change < 1000000 * s.fld R.FHS_DAMP F.FHS_DAMP_MS

/-- R360. -/
def applyLearn (r : LearnReq) (s : State) : State :=
  match macFind s r.vid r.mac with
  | none =>
    match ((List.range 4).map (4 * macSet r.vid r.mac + ·)).find? fun i => (macEnt s i).isNone with
    | some i => setMac i (some { vid := r.vid, mac := r.mac, static := false, port := r.port, func := 0, hit := true, change := s.bel.dnc }) s
    | none => ctrUp R.FHS_CNT_LEARN_FULL s
  | some (i, e) =>
    if e.port = r.port then setMac i (some { e with hit := true }) s
    else if e.static then s
    else if damped s e then
      let s1 := ctrUp R.FHS_CNT_FLAP (setMac i (some { e with flap := true }) s)
      if e.flap then s1 else event 0x0092 16 (macInfo i e.port r.port) s1
    else
      event 0x0091 16 (macInfo i r.port r.port) (ctrUp R.FHS_CNT_MOVE
        (setMac i (some { e with port := r.port, hit := true, change := s.bel.dnc, flap := false }) s))

/-- The arbiter processes its oldest request. -/
def macLearn (s : State) : State :=
  match s.fhs.learn with
  | [] => s
  | r :: rs => applyLearn r { s with fhs := { s.fhs with learn := rs } }

def execMacLearn (s : State) : Host.Outcome State Fault Refusal := .next (macLearn s)

/-- Change every entry of the table. -/
def mapMac (f : MacEnt → Option MacEnt) (s : State) : State :=
  s.fhs.mac.foldl (fun t x => setMac x.1 (x.2.bind f) t) s

/-- R362. -/
def macAgeing (s : State) : State :=
  if s.fld R.FHS_AGE F.FHS_AGE_S = 0 then s
  else mapMac (fun e => if e.static then some e else if e.hit then some { e with hit := false } else none) s

def execMacAgeing (s : State) : Host.Outcome State Fault Refusal := .next (macAgeing s)

/-- Drop the dynamic entries of a port. -/
def dropDynamic (p : Nat) (s : State) : State := mapMac (fun e => if !e.static && e.port == p then none else some e) s

def macRead (i : Nat) (s : State) : State :=
  match macEnt s i with
  | none => ((s.setReg R.FHS_MAC_D0 0).setReg R.FHS_MAC_D1 0).setReg R.FHS_MAC_D2 0
  | some e =>
    let d2 := e.vid + 2 ^ 12 * (e.port % 16) + 2 ^ 16 * (e.func % 32) + 2 ^ 24 + 2 ^ 25 * e.static.toNat + 2 ^ 26 * e.hit.toNat
    ((s.setReg R.FHS_MAC_D0 (BitVec.ofNat 32 e.mac)).setReg R.FHS_MAC_D1 (BitVec.ofNat 32 (e.mac / 2 ^ 32))).setReg R.FHS_MAC_D2
      (BitVec.ofNat 32 d2)

def macWrite (i : Nat) (s : State) : State :=
  let f (x : Fld) : Nat := s.fld R.FHS_MAC_D2 x
  if f F.FHS_MAC_D2_VALID = 0 then setMac i none s
  else
    setMac i (some { vid := f F.FHS_MAC_D2_VID, mac := (s.reg R.FHS_MAC_D0).toNat + 2 ^ 32 * s.fld R.FHS_MAC_D1 F.FHS_MAC_D1_MAC,
                     static := f F.FHS_MAC_D2_STATIC == 1, port := f F.FHS_MAC_D2_PORT, func := f F.FHS_MAC_D2_FUNC,
                     hit := false, change := s.bel.dnc }) s

/-- A write of FHS_MAC_CMD. A command comes after every request that waits (R358); it is done at once, so GO never reads 1. -/
def writeMacCmd (a : Agent) (v : Word) (s : State) : State :=
  let off := R.FHS_MAC_CMD
  let s1 := storeReg a off v s
  if reaches a off s && F.FHS_MAC_CMD_GO.get v == 1 then
    let s2 := s.fhs.learn.foldl (fun t _ => macLearn t) s1
    let i := s2.fld off F.FHS_MAC_CMD_INDEX
    let s3 := match s2.fld off F.FHS_MAC_CMD_OP with
      | 0 => macRead i s2
      | 1 => macWrite i s2
      | 2 => setMac i none s2
      | _ => dropDynamic (s2.fld off F.FHS_MAC_CMD_PORT) s2
    s3.setFlag off F.FHS_MAC_CMD_GO false
  else s1

def execMacRead (a : Agent) (v : Word) (s : State) : Host.Outcome State Fault Refusal := .next (writeMacCmd a v s)
def execMacWrite (a : Agent) (v : Word) (s : State) : Host.Outcome State Fault Refusal := .next (writeMacCmd a v s)
def execMacInvalidate (a : Agent) (v : Word) (s : State) : Host.Outcome State Fault Refusal := .next (writeMacCmd a v s)
def execFlushPort (a : Agent) (v : Word) (s : State) : Host.Outcome State Fault Refusal := .next (writeMacCmd a v s)

/-! ### Frames inside the switch -/

/-- A frame as it stands in the switch: its ingress port, its bytes as received without FCS, its VID and PCP (R354), its ingress time
when it entered through an external port. -/
structure FhIn where
  port  : Nat
  bytes : List Byte
  vid   : Nat
  pcp   : Nat
  time  : Option Tod
  deriving DecidableEq, Repr

/-- Table FHL-3. -/
def metaBytes (x : FhIn) : List Byte :=
  let t := x.time.getD {}
  let flags := x.time.isSome.toNat + 2 * (ptpEvent x.bytes).toNat + 4 * (frTagged x.bytes).toNat
  leBytes 2 x.bytes.length ++ leBytes 1 x.port ++ leBytes 1 flags ++ leBytes 2 (x.vid + 8192 * x.pcp) ++ [0, 0] ++ leBytes 6 t.sec ++
    [0, 0] ++ leBytes 4 t.ns ++ List.replicate 12 0

def intDrop (i : Nat) (s : State) : State := ctrUp (R.FHS_INT_DROP i) s

/-- A FRAME_TX ends with its frame. -/
def endTx (f : FhFrame) (status detail : Nat) (s : State) : State :=
  match f.item with
  | some id => finish id status detail s
  | none => s

/-- A frame that a port without link discards (R353, R375). -/
def linkDrop (p : Nat) (f : FhFrame) (s : State) : State :=
  tsNotSent p f (endTx f stLink (unitDetail kFh p 0) (ctrUp (R.FHS_P_LINK_DROP p) s))

/-- A frame comes to an egress queue (R353, R375, R378). -/
def enqueueFrame (p q : Nat) (f : FhFrame) (s : State) : State :=
  if !fhLink s p then linkDrop p f s
  else if admits s p q f then setFrames p q ((s.fq p q).frames ++ [f]) s
  else tsNotSent p f (endTx f stFlushed 0 (s.addSat (R.FHS_P_Q_DROP p q) F.FHS_P_Q_DROP_CNT 1))

/-- A frame for an internal port whose firmware takes frames: of those that wait, a number it chose has gone. -/
def internalPut (q : List (List Byte)) (room : Nat) (x : FhIn) (s : State) : Option (List (List Byte)) × State :=
  let (k, s1) := s.draw
  let left := q.drop (Config.framesTaken k)
  if left.length < room then (some (left ++ [metaBytes x ++ x.bytes]), s1) else (none, s1)

/-- The oldest posted receive buffer of a function. -/
def rxBuffer (s : State) (f : Nat) : Option RItem :=
  s.host.items.find? fun it => it.func == f && it.active && dOpcode it.desc == 5

/-- A frame to the host port for a function (R376). -/
def hostPut (f : Nat) (x : FhIn) (s : State) : State :=
  match rxBuffer s f with
  | none => intDrop 1 s
  | some it =>
    if rpLen it.desc < 32 + x.bytes.length then intDrop 1 s
    else
      match vaWrite f (rpAddr it.desc) (metaBytes x ++ x.bytes) (markStarted it.id s) with
      | (s1, some e) => failItem it e s1
      | (s1, none) =>
        finish it.id stDone 0 (updItem it.id (fun y => { y with bytes := 32 + x.bytes.length, detail := x.port % 8 }) s1)

/-- The number of a function in FHS_HOST_FLOOD and a MAC entry's FUNC: 0 PF, v + 1 VIv. -/
def fnOfIdx (i : Nat) : Nat := if i = 0 then 16 else (i - 1) % 16

/-- The lowest valid VLAN entry of a VID. -/
def vlanOf (s : State) (vid : Nat) : Option Nat :=
  (List.range 64).find? fun v => s.flag (R.FHS_VLAN v) F.FHS_VLAN_VALID && s.fld (R.FHS_VLAN v) F.FHS_VLAN_VID == vid
def vlanMember (s : State) (vid p : Nat) : Bool :=
  match vlanOf s vid with
  | some v => bitOf (s.fld (R.FHS_VLAN_MASK v) F.FHS_VLAN_MASK_MEMBER) p
  | none => false
def vlanUntag (s : State) (vid p : Nat) : Bool :=
  match vlanOf s vid with
  | some v => bitOf (s.fld (R.FHS_VLAN_MASK v) F.FHS_VLAN_MASK_UNTAG) p
  | none => false

/-- A copy of a frame goes to a port (R355, R363, R376, R377). -/
def deliver (d f : Nat) (x : FhIn) (s : State) : State :=
  if d < 8 then
    if fhThere s d then
      let dei := if frTagged x.bytes then frTci x.bytes / 4096 % 2 else 0
      let out := if vlanUntag s x.vid d then untag x.bytes else retag x.bytes (x.vid + 4096 * dei + 8192 * x.pcp)
      let q := s.fld (R.FHS_P_PCPMAP d) F.FHS_P_PCPMAP_MAP / 8 ^ (x.pcp % 8) % 8
      enqueueFrame d q { bytes := if out.length < 60 then fit 60 out else out } s
    else s
  else if d = 8 then
    match internalPut s.fhs.clo 64 x s with
    | (some q, s1) => { s1 with fhs := { s1.fhs with clo := q } }
    | (none, s1) => intDrop 0 s1
  else if d = 9 then hostPut f x s
  else if d = 10 then
    match internalPut s.fhs.chf 16 x s with
    | (some q, s1) => { s1 with fhs := { s1.fhs with chf := q } }
    | (none, s1) => intDrop 2 s1
  else s

/-- R363. -/
def forward (x : FhIn) (s : State) : State :=
  let dst := frDst x.bytes
  match (if isGroup dst then none else macFind s x.vid dst) with
  | some (_, e) => if e.port = x.port then s else deliver e.port (fnOfIdx e.func) x s
  | none =>
    let f := fnOfIdx (s.fld R.FHS_HOST_FLOOD F.FHS_HOST_FLOOD_FN)
    ((List.range 11).filter fun p => p != x.port && vlanMember s x.vid p).foldl (fun t p => deliver p f x t) s

/-- A frame enters with its tag read (R354): `none` when the VLAN check discards it. -/
def classify (port : Nat) (bytes : List Byte) (time : Option Tod) (s : State) : FhIn × Bool × State :=
  let tci := frTci bytes
  let own : (Nat × Nat) × State :=
    if port < 8 then ((s.fld (R.FHS_P_CTL port) F.FHS_P_CTL_PVID, s.fld (R.FHS_P_CTL port) F.FHS_P_CTL_DEF_PCP), s)
    else let (k, s1) := s.draw; let v := Config.intTag k; ((v.1.val, v.2.val), s1)
  let tagged := frTagged bytes
  let r := if tagged && tci % 4096 != 0 then ((tci % 4096, tci / 8192), s)
    else if tagged then ((own.1.1, tci / 8192), own.2) else own
  let x : FhIn := { port := port, bytes := bytes, vid := r.1.1, pcp := r.1.2, time := time }
  (x, vlanMember r.2 x.vid port, r.2)

/-! ### Uplink sections (R365-R370) -/

def flowMatch (s : State) (i kind pc port : Nat) : Bool :=
  let r := R.FHS_FLOW i
  s.flag r F.FHS_FLOW_VALID && s.fld r F.FHS_FLOW_KIND == kind && s.fld r F.FHS_FLOW_PC_ID == pc &&
  (2 ≤ kind || s.fld (R.FHS_FLOW_ATTR i) F.FHS_FLOW_ATTR_PORT == port)

def flowFind (s : State) (kinds : List Nat) (pc port : Nat) : Option Nat :=
  (List.range 256).find? fun i => kinds.any fun k => flowMatch s i k pc port

def slotBufBase (s : State) (c : Nat) : Nat := s.pair (R.FHS_CELL_SBUF_LO c) (R.FHS_CELL_SBUF_HI c)
def slotBufNant (s : State) (c : Nat) : Nat := s.fld (R.FHS_CELL_CFG c) F.FHS_CELL_CFG_NANT
def slotBufData (s : State) (c p sym ant prb : Nat) : Nat :=
  slotBufBase s c + (((p * 14 + sym) * slotBufNant s c + ant) * 273 + prb) * 48
def slotBufHead (s : State) (c p : Nat) : Nat := slotBufBase s c + 4 * 14 * slotBufNant s c * 273 * 48 + 32 * p

/-- What a section writes: cell, antenna, slot index, symbol, first PRB, step, its samples by PRB. -/
structure Section where
  cell : Nat
  ant  : Nat
  slot : Nat
  sym  : Nat
  prb  : Nat
  step : Nat
  data : List (List Byte)
  deriving DecidableEq, Repr

/-- Take over the position for a new slot (R367). -/
def openPosition (x : Section) (s : State) : State :=
  let a := slotBufHead s x.cell (x.slot % 4)
  match vaRead 16 a 4 s with
  | (s1, .error e) => noteErr 16 (Config.agentCode 0 0) e s1
  | (s1, .ok bs) => if leNat bs = x.slot then s1 else deviceWrite 16 a (leBytes 4 x.slot ++ List.replicate 28 0) s1

/-- The PRBs of a section, one after the other. -/
def storePrbs (x : Section) : Nat → List (List Byte) → State → State × Option AccErr
  | _, [], s => (s, none)
  | prb, d :: ds, s =>
    match vaWrite 16 (slotBufData s x.cell (x.slot % 4) x.sym x.ant prb) d s with
    | (s1, some e) => (s1, some e)
    | (s1, none) => storePrbs x (prb + x.step) ds s1

/-- Write a section, then its presence bit (R366, R367). -/
def storeSection (x : Section) (s : State) : State :=
  match storePrbs x x.prb x.data (openPosition x s) with
  | (s1, some e) => noteErr 16 (Config.agentCode 0 0) e s1
  | (s1, none) =>
    let b := x.sym * 16 + x.ant
    let a := slotBufHead s1 x.cell (x.slot % 4) + 4 + b / 8
    let s2 := ctrUp (R.FHS_CELL_SECT x.cell) s1
    match vaRead 16 a 1 s2 with
    | (s3, .error e) => noteErr 16 (Config.agentCode 0 0) e s3
    | (s3, .ok bs) => deviceWrite 16 a (leBytes 1 (Nat.lor (leNat bs) (2 ^ (b % 8)))) s3

/-- The cell's slot buffer takes sections. -/
def slotBufOpen (s : State) (c : Nat) : Bool :=
  s.flag (R.FHS_CELL_CFG c) F.FHS_CELL_CFG_EN && !structUpper s (slotBufBase s c) (4 * 14 * slotBufNant s c * 273 * 48 + 128)

def sectErr (s : State) : State := ctrUp R.FHS_CNT_SECT_ERR s

def chunks (n : Nat) : Nat → List Byte → List (List Byte)
  | 0, _ => []
  | k + 1, bs => bs.take n :: chunks n k (bs.drop n)

/-- The sections of a U-plane message one after the other (R366-R370). -/
def takeSections (i slot : Nat) : Nat → Nat → List Byte → State → State
  | 0, _, _, s => s
  | fuel + 1, sym0, x, s =>
    let attr := R.FHS_FLOW_ATTR i
    let dyn := s.flag attr F.FHS_FLOW_ATTR_HDR
    let hl := if dyn then 6 else 4
    if x.isEmpty then s
    else if x.length < hl then sectErr s
    else
      match (if dyn then dynWidth (beField x 4 1) else some (compOf (s.fld attr F.FHS_FLOW_ATTR_COMP))) with
      | none => sectErr s
      | some w =>
        let h := secHdr x
        let n := secPrbs h
        let sym := sym0 + h.inc.toNat
        let body := x.drop hl
        if body.length < n * prbBytes w then sectErr s
        else
          let c := s.fld (R.FHS_FLOW i) F.FHS_FLOW_CELL
          let ant := s.fld (R.FHS_FLOW i) F.FHS_FLOW_ANT
          let bad := slotBufNant s c ≤ ant || 272 < h.start + secStep h * (n - 1) || 14 ≤ sym || !slotBufOpen s c
          let s1 := if bad then sectErr s else
            storeSection { cell := c, ant := ant, slot := slot, sym := sym, prb := h.start, step := secStep h,
                           data := (chunks (prbBytes w) n body).map (prbDecode w) } s
          takeSections i slot fuel sym (body.drop (n * prbBytes w)) s1

/-- An uplink U-plane frame of a flow is consumed (R365, R367). -/
def takeUplink (i : Nat) (f : List Byte) (s : State) : State :=
  let b := frBody f
  if !ecSizeOk f b || ecSize b < 8 then sectErr s
  else
    let h := upHdr b
    let mu := s.fld (R.FHS_CELL_CFG (s.fld (R.FHS_FLOW i) F.FHS_FLOW_CELL)) F.FHS_CELL_CFG_MU
    takeSections i (h.frame * 10 * 2 ^ mu + h.sub * 2 ^ mu + h.slot) b.length h.sym ((b.take (ecSize b + 4)).drop 12) s

/-- A flow frame (R365): external, eCPRI, to a static entry that names the Cloister port. -/
def isFlowFrame (s : State) (x : FhIn) : Bool :=
  x.port < 8 && frType x.bytes == 0xAEFE &&
  (match macFind s x.vid (frDst x.bytes) with
   | some (_, e) => e.static && e.port == 8
   | none => false)

def takeFlow (x : FhIn) (s : State) : State :=
  let b := frBody x.bytes
  match (if ecType b = 0 then flowFind s [0, 1] (ecPcId b) x.port else none) with
  | none => ctrUp R.FHS_CNT_FLOW_MISS s
  | some i => if s.fld (R.FHS_FLOW i) F.FHS_FLOW_KIND = 0 then takeUplink i x.bytes s else deliver 8 0 x s

/-! ### Reception (R352-R357, R66) -/

/-- The learn request of an admitted frame (R357, R358). -/
def askLearn (x : FhIn) (s : State) : State :=
  if s.flag (R.FHS_P_CTL x.port) F.FHS_P_CTL_LEARN && !isGroup (frSrc x.bytes) then
    if s.fhs.learn.length < 16 then
      { s with fhs := { s.fhs with learn := s.fhs.learn ++ [⟨x.port, x.vid, frSrc x.bytes⟩] } }
    else ctrUp R.FHS_CNT_LEARN_DROP s
  else s

/-- The ingress time of the last Pdelay_Req of a port is kept for R67. -/
def notePdelay (p : Nat) (f : List Byte) (t : Tod) (s : State) : State :=
  match ptpAt f with
  | some (m, _) => if ptpType f m = 2 then s.setFp p { s.fp p with pdelay := t } else s
  | none => s

/-- A frame with its FCS arrives on an external port. -/
def frameReceive (p : Nat) (bytes : List Byte) (s : State) : State :=
  if !(s.flag R.FHS_CTL F.FHS_CTL_EN && fhEnabled s p && fhLink s p) then s
  else if bytes.length < 64 || 9220 < bytes.length || !fcsOk bytes then ctrUp (R.FHS_P_RX_ERR p) s
  else
    let f := bytes.take (bytes.length - 4)
    let s1 := pairUp (R.FHS_P_RX_BYTES_LO p) (R.FHS_P_RX_BYTES_HI p) bytes.length (ctrUp (R.FHS_P_RX_FRAMES p) s)
    if frType f = 0x8808 then ctrUp (R.FHS_P_PAUSE_DROP p) s1
    else
      let t := s.bel.tod.add (signed 16 (s.fld (R.BEL_TSR_CORR p) F.BEL_TSR_CORR_INGRESS))
      match classify p f (some t) s1 with
      | (_, false, s2) => ctrUp (R.FHS_P_VLAN_DROP p) s2
      | (x, true, s2) =>
        let s3 := askLearn x (notePdelay p f t s2)
        if isFlowFrame s3 x && ecHandled (frBody f) then takeFlow x s3 else forward x s3

def execFrameReceive (p : Fin 8) (bytes : List Byte) (s : State) : Host.Outcome State Fault Refusal := .next (frameReceive p.val bytes s)

/-- A frame enters from an internal port and is forwarded (R354, R363). -/
def internalFrame (port : Nat) (bytes : List Byte) (s : State) : State :=
  match classify port bytes none s with
  | (_, false, s1) => s1
  | (x, true, s1) => forward x s1

/-! ### The Cloister port (R371, R372) -/

/-- Egress of the Cloister port: the twin's SECONDARY sends none (R447). -/
def cloisterPortFrame (bytes : List Byte) (s : State) : State :=
  if !s.flag R.FHS_CTL F.FHS_CTL_EN || twinSecondary s then s
  else
    let b := frBody bytes
    let kind := if ecType b = 0 then 2 else 3
    let isEc := frType bytes == 0xAEFE && ecHandled b
    match (if isEc then flowFind s [kind] (ecPcId b) 0 else none) with
    | none => internalFrame 8 bytes s
    | some i =>
      let attr := R.FHS_FLOW_ATTR i
      let comp := s.fld attr F.FHS_FLOW_ATTR_COMP
      let f := if kind = 2 ∧ comp ≠ 0 then compressFrame (compOf comp) (s.flag attr F.FHS_FLOW_ATTR_HDR) bytes else bytes
      let p := s.fld attr F.FHS_FLOW_ATTR_PORT
      if fhThere s p then enqueueFrame p (s.fld attr F.FHS_FLOW_ATTR_QUEUE) { bytes := if f.length < 60 then fit 60 f else f } s else s

def execCloisterPortFrame (bytes : List Byte) (s : State) : Host.Outcome State Fault Refusal := .next (cloisterPortFrame bytes s)

/-! ### The host port (R374-R376) -/

def hostFnOk (s : State) (f : Nat) : Bool := bitOf (s.fld R.FHS_HOST_FN F.FHS_HOST_FN_FN) (if f = 16 then 0 else f + 1)

/-- R374 and R325. -/
def frameTxBad (s : State) (it : RItem) : Bool :=
  let d := it.desc
  !hostFnOk s it.func || ftLen d < 60 || 9216 < ftLen d ||
  (if ftSwitched d then ftTs d || ftOneStep d else !fhEnabled s (ftPort d))

def frameTxSubmit (it : RItem) (s : State) : State :=
  let d := it.desc
  if frameTxBad s it then finish it.id stRejected 0 s
  else
    match vaRead it.func (ftAddr d) (ftLen d) s with
    | (s1, .error e) => failItem it e s1
    | (s1, .ok bs) =>
      if ftSwitched d then
        finish it.id stDone 0 (if s1.flag R.FHS_CTL F.FHS_CTL_EN then internalFrame 9 bs s1 else s1)
      else
        enqueueFrame (ftPort d) (ftQueue d) { bytes := bs, item := some it.id, ts := if ftTs d then some (ftTsId d) else none,
                                              oneStep := ftOneStep d } s1

def execFrameTx (f : Fin 17) (q : Fin 8) (s : State) : Host.Outcome State Fault Refusal := .next (onItem f.val q.val 4 s frameTxSubmit)

/-- A posted buffer stays until a frame fills it. -/
def rxPostSubmit (it : RItem) (s : State) : State :=
  let d := it.desc
  if !hostFnOk s it.func || rpLen d < 2048 || 16384 < rpLen d || rpAddr d % 64 != 0 then finish it.id stRejected 0 s else s

def execRxPost (f : Fin 17) (q : Fin 8) (s : State) : Host.Outcome State Fault Refusal := .next (onItem f.val q.val 5 s rxPostSubmit)

/-! ### Scheduling (R380-R383) -/

/-- The queue that sends next: 7, 6, then the smallest tag of 0-5 as signed differences from V. -/
def pickQueue (s : State) (p : Nat) : Option Nat :=
  let act (q : Nat) : Bool := (s.fq p q).active
  let rel (q : Nat) : Int := signed 48 ((s.fq p q).tag.getD 0 + 2 ^ 48 - (s.fp p).v)
  if act 7 then some 7
  else if act 6 then some 6
  else
    ((List.range 6).filter act).foldl (fun b q => match b with
      | none => some q
      | some r => if rel q < rel r then some q else b) none

/-- The scheduler takes the next frame of a free port. -/
def egressSelect (p : Nat) (s : State) : State :=
  if !(s.flag R.FHS_CTL F.FHS_CTL_EN && fhLink s p) || (s.fp p).tx.isSome then s
  else
    match pickQueue s p with
    | none => s
    | some q =>
      let x := s.fq p q
      match x.frames with
      | [] => s
      | f :: fs =>
        let t := s.bel.tod.add (signed 16 (s.fld (R.BEL_TSR_CORR p) F.BEL_TSR_CORR_EGRESS))
        let v := if q < 6 then x.tag.getD (s.fp p).v else (s.fp p).v
        let s1 := s.setFp p { s.fp p with tx := some ⟨f, t⟩, v := v }
        let y := { x with frames := fs, tokens := if x.shaped then x.tokens - 256 * f.len else x.tokens, tag := none }
        let z := if q < 6 && y.active then { y with tag := finishTag s1 p q v y } else y
        let s2 := showQueue p q (s1.setFq p q z)
        match f.item with
        | some id => markStarted id s2
        | none => s2

def execEgressSelect (p : Fin 8) (s : State) : Host.Outcome State Fault Refusal := .next (egressSelect p.val s)

/-- The last byte of the frame in transmission has passed to the PCS (R67, R68, R375). -/
def frameTxEnd (p : Nat) (s : State) : State :=
  match (s.fp p).tx with
  | none => s
  | some x =>
    let f := x.frame
    let bs := if f.oneStep then oneStep f.bytes x.time (s.fp p).pdelay else f.bytes
    let s1 := (s.setFp p { s.fp p with tx := none }).emit (.fhFrame p (bs ++ fcs bs))
    let s2 := pairUp (R.FHS_P_TX_BYTES_LO p) (R.FHS_P_TX_BYTES_HI p) (bs.length + 4) (ctrUp (R.FHS_P_TX_FRAMES p) s1)
    let s3 := match f.ts with
      | some id => tsEntry p id (some x.time) s2
      | none => s2
    endTx f stDone 0 s3

def execFrameTxEnd (p : Fin 8) (s : State) : Host.Outcome State Fault Refusal := .next (frameTxEnd p.val s)

/-- One queue at a refill: staged settings apply, then tokens are added (R382, R383). -/
def refillQueue (p q : Nat) (s : State) : State :=
  let x := s.fq p q
  let burst : Int := 256 * (s.fld (R.FHS_P_Q_BURST p q) F.FHS_P_Q_BURST_BURST : Int)
  let y :=
    if s.flag (R.FHS_P_Q_SHAPE p q) F.FHS_P_Q_SHAPE_EN then
      if x.shaped then
        let t := x.tokens + (s.reg (R.FHS_P_Q_RATE p q)).toNat
        { x with tokens := if burst < t then burst else t }
      else { x with shaped := true, tokens := burst }
    else { x with shaped := false }
  if y = x then s else showQueue p q (wakeQueue p q (s.setFq p q y))

def shaperRefill (s : State) : State := (List.range 64).foldl (fun t k => refillQueue (k / 8) (k % 8) t) s

def execShaperRefill (s : State) : Host.Outcome State Fault Refusal := .next (shaperRefill s)

/-! ### Link (R353, R373) -/

/-- A pooled cell whose uplink comes through a port has its slot items marked (R373). -/
def markLost (p : Nat) (s : State) : State :=
  let uses (c : Nat) : Bool := (List.range 256).any fun i => s.flag (R.FHS_FLOW i) F.FHS_FLOW_VALID &&
    s.fld (R.FHS_FLOW i) F.FHS_FLOW_KIND == 0 && s.fld (R.FHS_FLOW i) F.FHS_FLOW_CELL == c &&
    s.fld (R.FHS_FLOW_ATTR i) F.FHS_FLOW_ATTR_PORT == p
  if s.rfi.mode = 2 then
    ((List.range 16).filter uses).foldl (fun t c =>
      let x := t.cell c
      let mark (it : FwItem) : FwItem := if fwLive it && it.lost.isNone then { it with lost := some p } else it
      t.setCell c { x with slots := x.slots.map (fun y => { y with items := y.items.map mark }) }) s
  else s

/-- Every frame of a port goes: those queued, and the one in transmission. -/
def dropFrames (p : Nat) (s : State) : State :=
  let tx := match (s.fp p).tx with
    | some x => [x.frame]
    | none => []
  let all := tx ++ (List.range 8).flatMap fun q => (s.fq p q).frames
  let s1 := (List.range 8).foldl (fun t q => setFrames p q [] t) (s.setFp p { s.fp p with tx := none })
  all.foldl (fun t f => linkDrop p f t) s1

def fhLinkLost (p : Nat) (s : State) : State :=
  if !fhLink s p then s
  else
    let st := R.FHS_P_STAT p
    let s1 := (((s.setFlag st F.FHS_P_STAT_LINK false).setFlag st F.FHS_P_STAT_BLOCK_LOCK false).setFlag st
      F.FHS_P_STAT_FEC_ALIGN false).setFlag st F.FHS_P_STAT_LINK_DOWN_SEEN true
    event 0x0090 16 p (markLost p (dropDynamic p (dropFrames p s1)))

def execFhLinkLost (p : Fin 8) (s : State) : Host.Outcome State Fault Refusal := .next (fhLinkLost p.val s)

def fhLinkUp (p : Nat) (s : State) : State :=
  if s.flag R.FHS_CTL F.FHS_CTL_EN && fhEnabled s p && (s.unit kFh p).eff == 0 then
    let st := R.FHS_P_STAT p
    let fec := s.fld (R.FHS_P_CTL p) F.FHS_P_CTL_FEC != 0 || s.flag (R.FHS_QUAD_CFG (p / 4)) F.FHS_QUAD_CFG_MODE
    ((s.setFlag st F.FHS_P_STAT_LINK true).setFlag st F.FHS_P_STAT_BLOCK_LOCK true).setFlag st F.FHS_P_STAT_FEC_ALIGN fec
  else s

def execFhLinkUp (p : Fin 8) (s : State) : Host.Outcome State Fault Refusal := .next (fhLinkUp p.val s)

/-! ### Registers -/

/-- A write of FHS_CTL: a switch that is disabled has no link. -/
def writeFhsCtl (a : Agent) (v : Word) (s : State) : State :=
  let s1 := storeReg a R.FHS_CTL v s
  if s1.flag R.FHS_CTL F.FHS_CTL_EN then s1 else (List.range 8).foldl (fun t p => fhLinkLost p t) s1

/-- A write of FHS_Pp_CTL. A port that does not exist is not enabled, and its FEC field keeps its value (R350). -/
def writeFhPortCtl (a : Agent) (p : Nat) (v : Word) (s : State) : State :=
  let off := R.FHS_P_CTL p
  let w := if fhThere s p then v else
    F.FHS_P_CTL_EN.put (F.FHS_P_CTL_FEC.put v (s.fld off F.FHS_P_CTL_FEC)) (s.fld off F.FHS_P_CTL_EN)
  let s1 := storeReg a off w s
  if s1.flag off F.FHS_P_CTL_EN then s1 else fhLinkLost p s1

/-- R350. -/
def writeQuadCfg (a : Agent) (quad : Nat) (v : Word) (s : State) : State :=
  let off := R.FHS_QUAD_CFG quad
  if reaches a off s && (List.range 4).any (fun k => s.flag (R.FHS_P_CTL (4 * quad + k)) F.FHS_P_CTL_EN) then
    s.setFlag R.FHS_ERR F.FHS_ERR_CFG_ERR true
  else storeReg a off v s

def execQuadConfigWrite (a : Agent) (quad : Fin 2) (v : Word) (s : State) : Host.Outcome State Fault Refusal :=
  .next (writeQuadCfg a quad.val v s)

/-- R379. -/
def writeQueueBuf (a : Agent) (p q : Nat) (v : Word) (s : State) : State :=
  let off := R.FHS_P_Q_BUF p q
  if reaches a off s && expertOn s 8 &&
      12288 < resvSum s - s.fld off F.FHS_P_Q_BUF_RESV + F.FHS_P_Q_BUF_RESV.get v then
    s.setFlag R.FHS_ERR F.FHS_ERR_BUF_CFG true
  else storeReg a off v s

def execQueueBufWrite (a : Agent) (p : Fin 8) (q : Fin 8) (v : Word) (s : State) : Host.Outcome State Fault Refusal :=
  .next (writeQueueBuf a p.val q.val v s)

/-- A write of FHS_Pp_Qq_PEAK: the present depth counts at once. -/
def writePeak (a : Agent) (p q : Nat) (v : Word) (s : State) : State := showQueue p q (storeReg a (R.FHS_P_Q_PEAK p q) v s)

end Sys2Proof.Machine
end

