-- ==== Sys2Proof/Machine/Memory.lean ====
section
/-! DEFINITION. Device memory, the Transept cache and translation as commands (08_memory_translation): errors and poison, refresh,
cache lines and misses, the spill reservation, walks, invalidation, host reads, self-refresh. -/

namespace Sys2Proof.Machine

/-- An active channel's stream item ends by an error an access of it met. -/
def chanError (c status detail : Nat) (s : State) : State :=
  if (s.chan c).phase = .idle then s else chanEnd c status detail s

/-! ### Errors of device memory (R252-R256, R557) -/

/-- An uncorrectable read or merge read: the block is poisoned, counted and reported (R254). -/
def uncorrectable (block : Nat) (s : State) : State :=
  let st := stackOf (32 * block)
  let s1 := setPoison block true (s.addSat (R.MEM_HBM_UE st) F.MEM_HBM_UE_CNT 1)
  let hi := R.MEM_HBM_UE_ADDR_HI st
  let s2 := if s1.flag hi F.MEM_HBM_UE_ADDR_HI_VALID then s1
    else (s1.setReg (R.MEM_HBM_UE_ADDR_LO st) (BitVec.ofNat 32 (32 * block))).setReg hi
      (BitVec.ofNat 32 (2 ^ 31 + 32 * block / 2 ^ 32))
  event 0x0070 16 st s2

/-- A corrected read (R253, R255). -/
def corrected (block : Nat) (s : State) : State :=
  let st := stackOf (32 * block)
  let s1 := s.addSat (R.MEM_HBM_CE st) F.MEM_HBM_CE_CNT 1
  let n := (s1.reg (R.MEM_HBM_CE st)).toNat
  let thr := (s1.reg R.MEM_CE_THR).toNat
  let s2 := { s1 with mem := { s1.mem with corrected := if block ∈ s1.mem.corrected then s1.mem.corrected else block :: s1.mem.corrected } }
  if thr ≠ 0 ∧ n % thr = 0 ∧ s1.reg (R.MEM_HBM_CE st) ≠ s.reg (R.MEM_HBM_CE st) then event 0x0071 16 st s2 else s2

/-- A block is read with `symbols` symbols in error. Whether an error of three or more is detected is not defined (R252). -/
def hbmRead (block symbols ch : Nat) (s : State) : State :=
  match physCheck s (32 * block) 32 with
  | some e => chanError ch e.status 0 s
  | none =>
    if isPoisoned s block then chanError ch stMem (unitDetail kChan ch 0) s
    else if symbols = 0 then s
    else if symbols = 1 then corrected block s
    else if symbols = 2 then chanError ch stMem (unitDetail kChan ch 0) (uncorrectable block s)
    else
      let d := s.draw
      if Config.tripleSeen d.1 then chanError ch stMem (unitDetail kChan ch 0) (uncorrectable block d.2) else d.2

def execHbmRead (block : BitVec 32) (symbols : Fin 65) (agent : Fin 192) (s : State) : Host.Outcome State Fault Refusal :=
  .next (hbmRead block.toNat symbols.val agent.val s)

/-- A write within one block; a part of a block needs a merge read, which may find an uncorrectable error (R557). -/
def hbmWrite (pa : Nat) (data : List Byte) (badMerge : Bool) (ch : Nat) (s : State) : State :=
  let bs := data.take (32 - pa % 32)
  match physCheck s pa bs.length with
  | some e => chanError ch e.status 0 s
  | none =>
    let part := bs.length != 32
    if part && !isPoisoned s (pa / 32) && badMerge then
      chanError ch stMem (unitDetail kChan ch 0) (uncorrectable (pa / 32) s)
    else
      match blockWrite pa bs s with
      | .error e => chanError ch e.status (unitDetail kChan ch 0) s
      | .ok s1 => s1

def execHbmWrite (addr : BitVec 37) (data : List Byte) (badMerge : Bool) (agent : Fin 192) (s : State) :
    Host.Outcome State Fault Refusal :=
  .next (hbmWrite addr.toNat data badMerge agent.val s)

/-- The refresh of a block's bank writes its corrected data back (R253). -/
def execHbmRefresh (block : BitVec 32) (s : State) : Host.Outcome State Fault Refusal :=
  .next { s with mem := { s.mem with corrected := s.mem.corrected.filter (· != block.toNat) } }

/-- A stack's temperature; HOT is set above 85 °C and cleared below 80 °C (R256). -/
def hbmHotChange (st temp : Nat) (s : State) : State :=
  let s1 := s.setFld (R.MEM_HBM_TEMP st) F.MEM_HBM_TEMP_TEMP temp
  let hot := s1.fld R.MEM_STAT F.MEM_STAT_HOT
  let bitv := 2 ^ st
  if 85 < temp then s1.setFld R.MEM_STAT F.MEM_STAT_HOT (Nat.lor hot bitv)
  else if temp < 80 then s1.setFld R.MEM_STAT F.MEM_STAT_HOT (hot - Nat.land hot bitv)
  else s1

def execHbmHotChange (stack : Fin 8) (temp : BitVec 8) (s : State) : Host.Outcome State Fault Refusal :=
  .next (hbmHotChange stack.val temp.toNat s)

/-! ### The Transept cache (R258-R264) -/

def sliceOf (line : Nat) : Nat := line % 24
def setOf (line : Nat) : Nat := line / 24 % 2048

def State.line (s : State) (l : Nat) : Option CacheLine := Tab.find s.mem.lines l

/-- The ways a space may allocate: its mask, less the spill ways (R261, R279). -/
def allowedWays (s : State) (space : Nat) : List Nat :=
  let mask := if expertOn s 6 then
      (if space = 16 then s.fld R.MMU_PF_WAYMASK F.MMU_PF_WAYMASK_WAYS else s.fld (R.MMU_VI_WAYMASK space) F.MMU_VI_WAYMASK_WAYS)
    else 0xFFFF
  (List.range (16 - s.fld R.MEM_CTL F.MEM_CTL_SPILL_WAYS)).filter (bitOf mask)

/-- The lines of a line's set. -/
def setLines (s : State) (l : Nat) : List (Nat × CacheLine) :=
  s.mem.lines.filter fun e => sliceOf e.1 == sliceOf l && setOf e.1 == setOf l

def leastUsed : List (Nat × CacheLine) → Option (Nat × CacheLine)
  | [] => none
  | e :: es =>
    match leastUsed es with
    | none => some e
    | some b => if e.2.used ≤ b.2.used then some e else some b

def setLine (l : Nat) (x : CacheLine) (s : State) : State := { s with mem := { s.mem with lines := Tab.insert l x s.mem.lines } }
def dropLine (l : Nat) (s : State) : State := { s with mem := { s.mem with lines := Tab.erase l s.mem.lines } }

/-- The next count of uses. -/
def useClock (s : State) : Nat × State := (s.mem.clock, { s with mem := { s.mem with clock := s.mem.clock + 1 } })

def countTc (off : Nat → Nat) (l : Nat) (s : State) : State := s.setReg (off (sliceOf l)) (s.reg (off (sliceOf l)) + 1)

/-- Allocate a line for a space: an invalid way, else the least recently used line, evicted (R261). -/
def allocLine (l space : Nat) (dirty : Bool) (s : State) : State :=
  let ways := allowedWays s space
  let here := setLines s l
  let put (w : Nat) (s : State) : State :=
    let c := useClock s
    setLine l { way := w, space := space, dirty := dirty, used := c.1, hit := false } c.2
  match ways.find? fun w => !here.any (·.2.way == w) with
  | some w => put w s
  | none =>
    match leastUsed (here.filter fun e => ways.contains e.2.way) with
    | none => s
    | some v => put v.2.way (dropLine v.1 (if v.2.hit then s else countTc R.MEM_TC_DEAD v.1 s))

/-- A request that misses: it attaches to its line's miss, opens one, or waits for room (R262). A full-line write that allocates
needs no fill (R260). -/
def cacheMiss (l : Nat) (q : CacheReq) (full : Bool) (s : State) : State :=
  let alloc := q.alloc && !(allowedWays s q.space).isEmpty
  match s.mem.misses.find? (·.1 == l) with
  | some m =>
    if m.2.length < 32 then
      countTc R.MEM_TC_MERGE l { s with mem := { s.mem with misses := s.mem.misses.map fun e => if e.1 = l then (l, e.2 ++ [q]) else e } }
    else { s with mem := { s.mem with waiting := s.mem.waiting ++ [(l, q)] } }
  | none =>
    if q.write && full && alloc then allocLine l q.space true (countTc R.MEM_TC_MISS l s)
    else if q.write && !alloc then countTc R.MEM_TC_MISS l s
    else if (s.mem.misses.filter fun e => sliceOf e.1 == sliceOf l).length < 128 then
      countTc R.MEM_TC_MISS l { s with mem := { s.mem with misses := s.mem.misses ++ [(l, [{ q with alloc := alloc }])] } }
    else { s with mem := { s.mem with waiting := s.mem.waiting ++ [(l, q)] } }

/-- An access reaches its slice. `badWord`: the line's data holds an uncorrectable error where the access needs it (R263). -/
def cacheAccess (pa : Nat) (q : CacheReq) (full badWord : Bool) (s : State) : State :=
  let l := pa / 128
  match physCheck s pa 1 with
  | some _ => s
  | none =>
    match s.line l with
    | none => cacheMiss l q full s
    | some x =>
      if badWord && !(q.write && full) then
        let s1 := s.addSat (R.MEM_TC_UE (sliceOf l)) F.MEM_TC_UE_CNT 1
        if x.dirty then event 0x0070 16 (0x10 + sliceOf l) (setPoison (pa / 32) true s1)
        else cacheMiss l { q with alloc := true } false (dropLine l s1)
      else
        let c := useClock s
        countTc R.MEM_TC_HIT l (setLine l { x with used := c.1, hit := true, dirty := x.dirty || q.write } c.2)

def execCacheAccess (addr : BitVec 37) (space : Fin 17) (write full : Bool) (attr : CacheAttr) (badWord : Bool) (s : State) :
    Host.Outcome State Fault Refusal :=
  .next (cacheAccess addr.toNat { space := space.val, write := write, alloc := attr = .alloc } full badWord s)

/-- Requests that waited at a slice are served in arrival order; one that still finds no room waits on. -/
def serveWaiting (slice : Nat) (s : State) : State :=
  let ws := s.mem.waiting
  let s1 := { s with mem := { s.mem with waiting := ws.filter fun e => sliceOf e.1 != slice } }
  (ws.filter fun e => sliceOf e.1 == slice).foldl (fun s e => cacheAccess (128 * e.1) e.2 false false s) s1

/-- A fill returns: every attached request is answered, the line is allocated if one of them allocates (R260, R262). -/
def cacheFill (l : Nat) (s : State) : State :=
  match s.mem.misses.find? (·.1 == l) with
  | none => s
  | some m =>
    let s1 := { s with mem := { s.mem with misses := s.mem.misses.filter (·.1 != l) } }
    let s2 := match m.2.find? (·.alloc) with
      | none => s1
      | some q => allocLine l q.space (m.2.any (·.write)) s1
    serveWaiting (sliceOf l) s2

def execCacheFill (line : BitVec 30) (s : State) : Host.Outcome State Fault Refusal := .next (cacheFill line.toNat s)

/-! ### The spill reservation (R265-R267) -/

/-- ⌊W × 49,152 ÷ 16,896⌋. -/
def spillSlots (ways : Nat) : Nat := ways * 49152 / 16896

/-- Tiles that GLB_NAV_PRE offers: enabled and not in the reserve. -/
def preOffered (s : State) : List Nat :=
  (List.range 32).filter fun t => bitOf (s.reg R.GLB_NAV_PRE).toNat t && !rtTile s t && tileFused s t

/-- Form the effective pre-emptible mask (R266). -/
def formPre (s : State) : State :=
  let n := spillSlots (s.fld R.MEM_CTL F.MEM_CTL_SPILL_WAYS)
  let ts := preOffered s
  let s1 := s.setReg R.MEM_STAT_PRE_EFF (BitVec.ofNat 32 ((ts.take n).foldl (fun m t => m + 2 ^ t) 0))
  let s2 := s1.setFld R.MEM_STAT F.MEM_STAT_SLOTS n
  if n < ts.length then s2.setFlag R.MEM_STAT F.MEM_STAT_SPILL_SHORT true else s2

def writeSpillWays (a : Agent) (v : Word) (s : State) : State :=
  let off := R.MEM_CTL
  let s1 := storeReg a off v s
  if reaches a off s then
    formPre (if 11 < F.MEM_CTL_SPILL_WAYS.get v then s1.setFlag R.MEM_STAT F.MEM_STAT_SPILL_CLAMP true else s1)
  else s1

def execSpillWaysWrite (a : Agent) (v : Word) (s : State) : Host.Outcome State Fault Refusal := .next (writeSpillWays a v s)

def writeRoleMask (a : Agent) (pre : Bool) (v : Word) (s : State) : State :=
  let off := if pre then R.GLB_NAV_PRE else R.GLB_NAV_RT
  let s1 := storeReg a off v s
  if reaches a off s then formPre s1 else s1

def execNavRoleMaskWrite (a : Agent) (pre : Bool) (v : Word) (s : State) : Host.Outcome State Fault Refusal :=
  .next (writeRoleMask a pre v s)

/-! ### Translation (R269-R277) -/

/-- A walk on behalf of an agent; a failed check is recorded and reported. -/
def translationWalk (space va : Nat) (write : Bool) (agent : Byte) (s : State) : State :=
  match translate space va 1 write s with
  | (s1, .ok _) => s1
  | (s1, .error e) => noteErr space agent e s1

def execTranslationWalk (space : Fin 17) (va : DWord) (write : Bool) (agent : Byte) (s : State) : Host.Outcome State Fault Refusal :=
  .next (translationWalk space.val va.toNat write agent s)

/-- A write to MMU_INV (R276). -/
def writeMmuInv (a : Agent) (v : Word) (s : State) : State :=
  let off := R.MMU_INV
  if reaches a off s && F.MMU_INV_GO.get v == 1 then
    if s.flag off F.MMU_INV_GO then s.setFlag R.MMU_ERR F.MMU_ERR_INV_BUSY true
    else
      let all := F.MMU_INV_ALL.get v == 1
      let pages := s.fld R.MMU_INV_SIZE F.MMU_INV_SIZE_PAGES
      if 17 ≤ F.MMU_INV_SPACE.get v || (!all && pages == 0) then s.setFlag R.MMU_ERR F.MMU_ERR_INV_ARG true
      else
        let s1 := storeReg a off v s
        { s1 with mem := { s1.mem with inval := some (F.MMU_INV_SPACE.get v, all, s1.pair R.MMU_INV_VA_LO R.MMU_INV_VA_HI, pages) } }
  else storeReg a off v s

def execMmuInvGo (a : Agent) (v : Word) (s : State) : Host.Outcome State Fault Refusal := .next (writeMmuInv a v s)

/-- The invalidation in progress completes: overlapping entries go, GO clears. -/
def mmuInvDone (s : State) : State :=
  match s.mem.inval with
  | none => s
  | some (space, all, va, pages) =>
    let keep (e : TlbEnt) : Bool := !all && (va + 65536 * pages ≤ e.va || e.va + 2 ^ e.bits ≤ va)
    let s1 := (s.setTlb space ((s.tlbOf space).filter keep)).setFlag R.MMU_INV F.MMU_INV_GO false
    { s1 with mem := { s1.mem with inval := none } }

def execMmuInvDone (s : State) : Host.Outcome State Fault Refusal := .next (mmuInvDone s)

/-! ### Host reads (R274) -/

/-- A completion of a host read arrives: the host shows these bytes, or the channel's item completes MEM_UNCORRECTABLE with reason
HOST. -/
def hostReadCompletion (addr : Nat) (r : HostRead) (ch : Nat) (s : State) : State :=
  match r with
  | .data bs => { s with hostMem := s.hostMem.write addr bs }
  | _ => chanError ch stMem (unitDetail kChan ch 1) s

def execHostReadCompletion (addr : DWord) (r : HostRead) (ch : Fin 192) (s : State) : Host.Outcome State Fault Refusal :=
  .next (hostReadCompletion addr.toNat r ch.val s)

def execHostReadTimeout (ch : Fin 192) (s : State) : Host.Outcome State Fault Refusal :=
  .next (chanError ch.val stMem (unitDetail kChan ch.val 1) s)

/-! ### Self-refresh (R251) -/

/-- Stacks 4-7 enter self-refresh: the upper half's cache lines are written back and invalidated. -/
def selfRefreshEntry (s : State) : State :=
  if s.mem.upperDenied ∧ s.fld R.MEM_STAT F.MEM_STAT_SELFREF = 0 then
    let s1 := { s with mem := { s.mem with lines := Tab.keep (fun l => 128 * l < hbmSize / 2) s.mem.lines } }
    s1.setFld R.MEM_STAT F.MEM_STAT_SELFREF 0xF
  else s

def execSelfRefreshEntry (s : State) : Host.Outcome State Fault Refusal := .next (selfRefreshEntry s)

/-- Stacks 4-7 have left self-refresh. -/
def selfRefreshExit (s : State) : State :=
  if s.mem.upperDenied = false then s.setFld R.MEM_STAT F.MEM_STAT_SELFREF 0 else s

def execSelfRefreshExit (s : State) : Host.Outcome State Fault Refusal := .next (selfRefreshExit s)

end Sys2Proof.Machine
end

