-- ==== Sys2Proof/Machine/SpokeLink.lean ====
section
/-! DEFINITION. Spoke links (12_spoke_fabric): frames, acknowledgement and retry, credits, the choice of the next flit
(R392-R397, R413). -/

namespace Sys2Proof.Machine

/-! ### Frames -/

/-- One step of the CRC-24: a bit shifted in at the low end. -/
def crcBit (poly c : Nat) (b : Bool) : Nat :=
  let top := bitOf c 23
  let c1 := 2 * c % 2 ^ 24
  if top != b then Nat.xor c1 poly else c1

def crcByte (poly c : Nat) (b : Byte) : Nat := ((List.range 8).reverse.map fun i => bitOf b.toNat i).foldl (crcBit poly) c

/-- CRC-24 of R392: polynomial 0x86_4CFB, initial value 0xB7_04CE. -/
def crc24 (bs : List Byte) : Nat := bs.foldl (crcByte 0x864CFB) 0xB704CE

/-- SLOTS of Table SPK-1, and a number packed four bits to a slot. -/
def slotsField : List SpkFlit → Nat
  | [] => 0
  | f :: fs => f.kind % 4 + 4 * (f.cls % 4) + 16 * slotsField fs

/-- The 4,112 bytes of a frame (Table SPK-1): number, acknowledgement with NAK, class and count of returned credits, flits. -/
def frameBytes (seq ack : Nat) (nak : Bool) (cls credits : Nat) (flits : List SpkFlit) : List Byte :=
  let h (crc : Nat) : List Byte := leBytes 2 (seq % 4096) ++ leBytes 2 (ack % 4096 + (if nak then 2 ^ 15 else 0)) ++
    leBytes 8 (slotsField flits) ++ leBytes 1 (cls % 4 + 4 * credits) ++ leBytes 3 crc
  let body := fit 4096 (flits.flatMap fun f => fit 256 f.bytes)
  h (crc24 (h 0 ++ body)) ++ body

/-- A received frame of the right length and CRC (R394). -/
def frameCrcOk (bs : List Byte) : Bool :=
  bs.length == 4112 && fieldAt bs 13 3 == crc24 (bs.take 13 ++ [0, 0, 0] ++ bs.drop 16)

def frSeq (bs : List Byte) : Nat := fieldAt bs 0 2 % 4096
def frAck (bs : List Byte) : Nat := fieldAt bs 2 2 % 4096
def frNak (bs : List Byte) : Bool := bitOf (fieldAt bs 2 2) 15
def frKinds (bs : List Byte) : List Nat := (List.range 16).map fun k => bitsOf (fieldAt bs 4 8) (4 * k + 1) (4 * k)
def frCreditClass (bs : List Byte) : Nat := fieldAt bs 12 1 % 4
def frCredits (bs : List Byte) : Nat := fieldAt bs 12 1 / 4

/-! ### Credits -/

/-- The credits held for a class: TC2 and TC3 share theirs (R397). -/
def creditOf (x : SpkPort) (cls : Nat) : Nat :=
  match cls with
  | 0 => x.credits.1
  | 1 => x.credits.2.1
  | _ => x.credits.2.2

def spendCredit (x : SpkPort) (cls : Nat) : SpkPort :=
  let c := x.credits
  { x with credits := match cls with
      | 0 => (c.1 - 1, c.2)
      | 1 => (c.1, c.2.1 - 1, c.2.2)
      | _ => (c.1, c.2.1, c.2.2 - 1) }

def addCredit (x : SpkPort) (cls n : Nat) : SpkPort :=
  let c := x.credits
  { x with credits := match cls with
      | 0 => (Nat.min 8 (c.1 + n), c.2)
      | 1 => (c.1, Nat.min 16 (c.2.1 + n), c.2.2)
      | _ => (c.1, c.2.1, Nat.min 240 (c.2.2 + n)) }

def oweCredit (cls n : Nat) (x : SpkPort) : SpkPort :=
  { x with owed := Tab.set (fun _ => 0) x.owed cls (Tab.get (fun _ => 0) x.owed cls + n) }

/-- What the CREDIT field of the next frame returns: the lowest class with buffers drained, at most 63. -/
def creditReturn (x : SpkPort) : Nat × Nat :=
  match x.owed with
  | [] => (0, 0)
  | (c, n) :: _ => (c, Nat.min 63 n)

def payCredit (x : SpkPort) : SpkPort :=
  let r := creditReturn x
  { x with owed := Tab.set (fun _ => 0) x.owed r.1 (Tab.get (fun _ => 0) x.owed r.1 - r.2) }

/-! ### The next flit (R413) -/

def takeClass (x : SpkPort) (cls : Nat) : Option SpkTx := x.queue.find? (·.cls == cls)

/-- Take the oldest message of a class out of the queue. -/
def dropFirst (cls : Nat) : List SpkTx → List SpkTx
  | [] => []
  | m :: ms => if m.cls = cls then ms else m :: dropFirst cls ms

def deficit (x : SpkPort) (cls : Nat) : Nat := if cls = 2 then x.deficit2 else x.deficit3
def setDeficit (cls n : Nat) (x : SpkPort) : SpkPort := if cls = 2 then { x with deficit2 := n } else { x with deficit3 := n }

/-- The other class has its visit. -/
def turnOver (x : SpkPort) : SpkPort := { x with turn := 5 - x.turn, visited := false }

/-- Deficit round robin: find the next whole message of TC2 or TC3. -/
def drrNext (q2 q3 : Nat) : Nat → SpkPort → SpkPort
  | 0, x => x
  | fuel + 1, x =>
    if (takeClass x 2).isNone && (takeClass x 3).isNone then { x with deficit2 := 0, deficit3 := 0 }
    else
      match takeClass x x.turn with
      | none => drrNext q2 q3 fuel (turnOver (setDeficit x.turn 0 x))
      | some m =>
        let y := if x.visited then x else { setDeficit x.turn (deficit x x.turn + (if x.turn = 2 then q2 else q3)) x with visited := true }
        if 256 * m.flits.length ≤ deficit y y.turn then
          let z := setDeficit y.turn (deficit y y.turn - 256 * m.flits.length) { y with cur23 := some m, queue := dropFirst y.turn y.queue }
          if (takeClass z z.turn).isNone then setDeficit z.turn 0 z else z
        else drrNext q2 q3 fuel (turnOver y)

/-- Send the next flit of a message begun. -/
def cutFlit (m : SpkTx) : Option (SpkFlit × Option SpkTx) :=
  match m.flits with
  | [] => none
  | f :: fs => some (f, if fs.isEmpty then none else some { m with flits := fs })

/-- The next flit a port may send, whose it is, and the port after it. `tc0` holds the port to TC0 (Table SPK-3, MISCABLED). -/
def pickFlit (q2 q3 : Nat) (tc0 : Bool) (x : SpkPort) : Option (SpkFlit × (Nat × Nat) × SpkPort) :=
  let from1 : Option (SpkFlit × (Nat × Nat) × SpkPort) :=
    if creditOf x 1 = 0 then none
    else
      let m := x.cur1.or (takeClass x 1)
      let q := if x.cur1.isSome then x.queue else dropFirst 1 x.queue
      m.bind fun m => (cutFlit m).map fun r => (r.1, m.owner, spendCredit { x with cur1 := r.2, queue := q } 1)
  let from23 : Option (SpkFlit × (Nat × Nat) × SpkPort) :=
    if creditOf x 2 = 0 then none
    else
      let y := if x.cur23.isSome then x else drrNext q2 q3 1100 x
      y.cur23.bind fun m => (cutFlit m).map fun r => (r.1, m.owner, spendCredit { y with cur23 := r.2 } 2)
  match takeClass x 0, creditOf x 0 with
  | some m, c + 1 => (cutFlit m).map fun r => (r.1, m.owner, spendCredit { x with queue := dropFirst 0 x.queue, credits := (c + 1, x.credits.2) } 0)
  | _, _ => if tc0 then none else from1.or from23

/-- Up to n flits of a frame. -/
def fillFrame (q2 q3 : Nat) (tc0 : Bool) : Nat → SpkPort → List SpkFlit × List (Nat × Nat) × SpkPort
  | 0, x => ([], [], x)
  | n + 1, x =>
    match pickFlit q2 q3 tc0 x with
    | none => ([], [], x)
    | some (f, o, y) =>
      let (fs, os, z) := fillFrame q2 q3 tc0 n y
      (f :: fs, o :: os, z)

/-- Give a port's frame to its lanes, with the acknowledgement and credits of the moment. -/
def emitFrame (p : Nat) (fr : SpkFrame) (s : State) : State :=
  let x := s.port p
  let r := creditReturn x
  (s.setPort p { payCredit x with nak := false }).emit (.spkFrame p (frameBytes fr.seq x.rxAcc x.nak r.1 r.2 fr.flits))

/-- A port's next frame: a resend, or a new one while fewer than 4 wait for acknowledgement (R394). -/
def sendFrame (p : Nat) (s : State) : State :=
  let x := s.port p
  match x.resend with
  | fr :: rest => emitFrame p fr (s.setPort p { x with resend := rest })
  | [] =>
    if 4 ≤ x.unacked.length then s
    else
      let (fs, os, y) := fillFrame (s.fld R.SPK_TC2_QUANTUM F.SPK_TC2_QUANTUM_BYTES) (s.fld R.SPK_TC3_QUANTUM F.SPK_TC3_QUANTUM_BYTES)
        (linkState s p == lMiscabled) 16 x
      let fr : SpkFrame := { seq := x.txSeq, flits := fs, owners := os }
      let s1 := s.setPort p { y with txSeq := (x.txSeq + 1) % 4096, unacked := x.unacked ++ [fr] }
      emitFrame p fr (s1.addWrap (R.SPK_P_TX_FLITS p) F.SPK_P_TX_FLITS_CNT fs.length)

/-- Take an accepted frame's header: acknowledged frames go, a NAK resends the rest, credits come back. -/
def takeHeader (p : Nat) (bs : List Byte) (s : State) : State :=
  let x := s.port p
  let d := (frAck bs + 4096 - (x.unacked.head?.map (·.seq)).getD (frAck bs)) % 4096
  let kept := if d < 4 then x.unacked.drop (d + 1) else x.unacked
  let y := addCredit { x with unacked := kept, resend := if frNak bs then kept else x.resend.filter kept.contains,
                              naks := if frNak bs then x.naks + 1 else 0 } (frCreditClass bs) (frCredits bs)
  let s1 := s.setPort p (oweCredit 0 ((frKinds bs).filter (· == 3)).length { y with rxAcc := frSeq bs })
  let s2 := s1.addWrap (R.SPK_P_RX_FLITS p) F.SPK_P_RX_FLITS_CNT ((frKinds bs).filter (· != 0)).length
  if frNak bs then s2.addSat (R.SPK_P_RETRY p) F.SPK_P_RETRY_CNT 1 else s2

/-- A frame arrives (R394): accepted in sequence with its codewords and CRC right, otherwise discarded with a NAK to send. -/
def takeFrame (p : Nat) (fecOk : Bool) (bs : List Byte) (s : State) : State :=
  let x := s.port p
  let s1 := if fecOk then s else s.addSat (R.SPK_P_FEC_UNCORR p) F.SPK_P_FEC_UNCORR_CNT 1
  if fecOk && frameCrcOk bs && frSeq bs == (x.rxAcc + 1) % 4096 then takeHeader p bs s1
  else s1.setPort p { x with nak := true }

end Sys2Proof.Machine
end

