-- ==== Sys2Proof/Machine/Coll.lean ====
section
/-! DEFINITION. Collectives and reduction plans (12_spoke_fabric): routing, the arithmetic of R419, the steps of a plan, COLL stream
steps (R400, R415-R423). -/

namespace Sys2Proof.Machine

/-! ### Reduction plans (Table SPK-6) -/

def cvVersion (p : List Byte) : Nat := fieldAt p 0 2
def cvKind (p : List Byte) : Nat := fieldAt p 2 1
def cvDtype (p : List Byte) : Nat := fieldAt p 3 1
def cvOp (p : List Byte) : Nat := fieldAt p 4 1
def cvClass (p : List Byte) : Nat := fieldAt p 5 1
def cvRoot (p : List Byte) : Nat := fieldAt p 6 1
def cvCollId (p : List Byte) : Nat := fieldAt p 8 4
def bits16 (m : Nat) : List Nat := (List.range 16).filter (bitOf m)
/-- S and V of R418. -/
def cvSeats (p : List Byte) : List Nat := bits16 (fieldAt p 16 2)
def cvWheels (p : List Byte) : List Nat := bits16 (fieldAt p 18 2)

def elSize (dtype : Nat) : Nat := if dtype = 0 then 2 else 4

/-- Every field of a plan in range (R416). -/
def planOk (p : List Byte) : Bool :=
  cvVersion p == 1 && cvKind p < 4 && cvDtype p < 3 && cvOp p < 3 && (cvClass p == 2 || cvClass p == 3)

/-- PLAN_CHECK (R421). -/
def planCheck (p : List Byte) (len : Nat) : Nat := leNat ((sha256 (p.take 20 ++ leBytes 8 len)).take 8)

def cvMembers (p : List Byte) : List Nat := (cvWheels p).flatMap fun w => (cvSeats p).map fun s => 16 * w + s

/-! ### Arithmetic (R419) -/

def flZero : Fl → Bool
  | .fin _ m _ => m == 0
  | _ => false

/-- MAX or MIN of two values of a format; a NaN dominates. Which of two zeros of unlike sign results is open (log entry 45). -/
def flPick (big : Bool) (f : FlFmt) (a b : Nat) : Nat :=
  let x := f.decode a
  let y := f.decode b
  let le : Bool := match x, y with
    | .inf n, _ => n
    | _, .inf n => !n
    | _, _ => flLe x y
  if x = .nan ∨ y = .nan then f.nan
  else if flZero x ∧ flZero y then (if Config.zeroSecond a b then b else a)
  else if le = big then b else a

/-- One element: OP 0 SUM, 1 MAX, 2 MIN. -/
def combineEl (dtype op a b : Nat) : Nat :=
  if dtype = 2 then
    let x := signed 32 a
    let y := signed 32 b
    unsigned 32 (if op = 0 then clampInt (-2147483648) 2147483647 (x + y) else if op = 1 then max x y else min x y)
  else
    let f := if dtype = 0 then bf16 else fp32
    if op = 0 then f.encode (flAdd (f.decode a) (f.decode b)) else flPick (op == 1) f a b

/-- Combine two buffers element by element, `a` on the left. -/
def combine (dtype op : Nat) : Nat → List Byte → List Byte → List Byte
  | 0, _, _ => []
  | n + 1, a, b =>
    let w := elSize dtype
    leBytes w (combineEl dtype op (leNat (a.take w)) (leNat (b.take w))) ++ combine dtype op n (a.drop w) (b.drop w)

/-- Fold buffers of n bytes in order (R419). -/
def combineAll (dtype op n : Nat) : List (List Byte) → List Byte
  | [] => []
  | x :: xs => xs.foldl (fun a b => combine dtype op (n / elSize dtype) a b) x

/-! ### Shards (R418) -/

def partLen (n k j : Nat) : Nat := n / k + (if j < n % k then 1 else 0)
def partOfs (n k j : Nat) : Nat := j * (n / k) + Nat.min j (n % k)

/-- Shard j of the buffer, in bytes: offset and length. -/
def shardOf (r : CollRun) (j : Nat) : Nat × Nat :=
  let w := elSize (cvDtype r.plan)
  let e := r.len / w
  let k := (cvSeats r.plan).length
  (w * partOfs e k j, w * partLen e k j)

/-- Sub-shard i of shard j. -/
def subOf (r : CollRun) (j i : Nat) : Nat × Nat :=
  let w := elSize (cvDtype r.plan)
  let n := (shardOf r j).2 / w
  let k := (cvWheels r.plan).length
  ((shardOf r j).1 + w * partOfs n k i, w * partLen n k i)

/-! ### Runs -/

def setRuns (l : List CollRun) (s : State) : State := { s with spk := { s.spk with runs := l } }
def runOf (s : State) (item : Nat) : Option CollRun := s.spk.runs.find? (·.item == item)
def putRun (r : CollRun) (s : State) : State := setRuns (s.spk.runs.map fun x => if x.item = r.item then r else x) s
def dropRun (item : Nat) (s : State) : State := setRuns (s.spk.runs.filter (·.item != item)) s

/-- A collective ends with a status and its port form of DETAIL (R423). -/
def endRun (item status port reason : Nat) (s : State) : State :=
  finish item status (unitDetail kSpoke port reason) (dropRun item s)

/-- A collective ends by an access of its own. -/
def failRun (r : CollRun) (e : AccErr) (s : State) : State :=
  match itemOf s r.item with
  | none => dropRun r.item s
  | some it => failItem it e (dropRun r.item s)

/-! ### Routing (R400, R418) -/

def wheelOf (n : Nat) : Nat := n / 16
def seatOf (n : Nat) : Nat := n % 16

/-- The port towards a node: the W-port of its seat, or an uplink, alternating, or the other when that is not ACTIVE. -/
def portTo (s : State) (dst plane : Nat) : Option Nat :=
  if wheelOf dst = wheelOf (ownNode s) then
    (activeW s).find? fun p => s.fld (R.SPK_P_STAT p) F.SPK_P_STAT_PARTNER == seatOf dst && !s.flag (R.SPK_P_STAT p) F.SPK_P_STAT_PARTNER_HUB
  else
    let first := if plane = 1 then 15 else if plane = 2 then 16 else if s.spk.alt then 16 else 15
    if isActive s first then some first else if isActive s (31 - first) then some (31 - first) else none

def planeOf (p : Nat) : Nat := if p = 15 then 1 else if p = 16 then 2 else 0

/-- Queue one message to a node; `none` when no port leads there. -/
def sendMsg (owner : Nat × Nat) (dst cls plane collId tag ofs check : Nat) (data : List Byte) (s : State) : Option State :=
  (portTo s dst plane).map fun p =>
    let head := headFlit dst (ownNode s) cls (planeOf p) collId tag data.length ofs check
    let s1 := if 15 ≤ p then { s with spk := { s.spk with alt := !s.spk.alt } } else s
    spkEnqueue p { cls := cls, owner := owner, flits := head :: dataFlits cls (flitCount data.length) data } s1

/-- Queue data to a node in messages of at most 65,536 bytes (R393). -/
def sendData (owner : Nat × Nat) (dst cls plane collId tag check : Nat) : Nat → Nat → List Byte → State → Option State
  | 0, _, _, s => some s
  | fuel + 1, ofs, bs, s =>
    if bs.isEmpty then some s
    else
      match sendMsg owner dst cls plane collId tag ofs check (bs.take 65536) s with
      | none => none
      | some s1 => sendData owner dst cls plane collId tag check fuel (ofs + 65536) (bs.drop 65536) s1

/-- A message of the owner still waits on a port, or has begun. -/
def ownerQueued (owner : Nat × Nat) (x : SpkPort) : Bool :=
  x.queue.any (·.owner == owner) || (x.cur23.any (·.owner == owner))

def anyQueued (s : State) (owner : Nat × Nat) : Bool := (List.range 17).any fun p => ownerQueued owner (s.port p)

/-- ABORT to members, routed (Table SPK-4). -/
def sendAbort (members : List Nat) (collId reason : Nat) (s : State) : State :=
  members.foldl (fun s n =>
    if n = ownNode s then s
    else
      match portTo s n 0 with
      | none => s
      | some p => sendControl p 7 [n, collId, reason] s) s

def abortMembers (r : CollRun) (reason : Nat) (s : State) : State := sendAbort (cvMembers r.plan) (cvCollId r.plan) reason s

/-! ### A plan's progress (R418) -/

/-- The data received from a node under a tag, once it is whole. -/
def gathered (r : CollRun) (tag src n : Nat) : Option (List Byte) :=
  let es := r.got.filter fun e => e.1 == tag && e.2.1 == src
  let total := (es.map fun e => e.2.2.2.length).foldl (· + ·) 0
  if n ≤ total then
    some (es.foldl (fun acc e => fit n (acc.take e.2.2.1 ++ e.2.2.2 ++ acc.drop (e.2.2.1 + e.2.2.2.length))) (List.replicate n 0))
  else none

def tagOf (phase : Nat) : Nat := (Config.planTag phase).toNat

/-- Send a part of a plan to a node; without a way there the collective ends LINK_LOST. -/
def runSend (r : CollRun) (dst phase : Nat) (bs : List Byte) (s : State) : State :=
  match sendData (1, r.item) dst (cvClass r.plan) 0 (cvCollId r.plan) (tagOf phase) (planCheck r.plan r.len) (bs.length / 65536 + 1) 0 bs s with
  | none => endRun r.item stLink 0xFF 3 s
  | some s1 => s1

/-- Write a part of BUF, counted in BYTES (R423). -/
def runWrite (r : CollRun) (ofs : Nat) (bs : List Byte) (s : State) : State :=
  match vaWrite r.func (r.buf + ofs) bs s with
  | (s1, some e) => failRun r e s1
  | (s1, none) =>
    updItem r.item (fun it => { it with bytes := it.bytes + bs.length, part := it.part || !bs.isEmpty,
                                        outs := if twinRunning s1 then it.outs ++ bs else it.outs }) s1

/-- Send to several nodes, as long as the collective stands. -/
def runSendAll (item phase : Nat) (f : Nat → List Byte) (dsts : List Nat) (s : State) : State :=
  dsts.foldl (fun s n =>
    match runOf s item with
    | none => s
    | some r => runSend r n phase (f n) s) s

/-- The place of this device among the seats and wheels of a plan. -/
def ownSeatIdx (s : State) (r : CollRun) : Nat := (cvSeats r.plan).findIdx (· == seatOf (ownNode s))
def ownWheelIdx (s : State) (r : CollRun) : Nat := (cvWheels r.plan).findIdx (· == wheelOf (ownNode s))

def otherSeats (s : State) (r : CollRun) : List Nat := (cvSeats r.plan).filter (· != seatOf (ownNode s))
def otherWheels (s : State) (r : CollRun) : List Nat := (cvWheels r.plan).filter (· != wheelOf (ownNode s))
def sameWheel (s : State) (seat : Nat) : Nat := 16 * wheelOf (ownNode s) + seat
def sameSeat (s : State) (wheel : Nat) : Nat := 16 * wheel + seatOf (ownNode s)

/-- Read a part of BUF. -/
def runRead (r : CollRun) (ofs n : Nat) (s : State) (k : List Byte → State → State) : State :=
  match vaRead r.func (r.buf + ofs) n s with
  | (s1, .error e) => failRun r e s1
  | (s1, .ok bs) => k bs s1

/-- Phase 1 is whole: the wheel's partial sum of the own shard, in ascending seat order; its sub-shards leave (phase 2). -/
def runReduce (r : CollRun) (s : State) : State :=
  let j := ownSeatIdx s r
  let sh := shardOf r j
  match (otherSeats s r).mapM fun x => gathered r (tagOf 1) (sameWheel s x) sh.2 with
  | none => s
  | some _ =>
    runRead r sh.1 sh.2 s fun mine s =>
      let xs := (cvSeats r.plan).map fun x => if x = seatOf (ownNode s) then mine else (gathered r (tagOf 1) (sameWheel s x) sh.2).getD []
      let p := combineAll (cvDtype r.plan) (cvOp r.plan) sh.2 xs
      let cut (n : Nat) : List Byte :=
        let sub := subOf r j ((cvWheels r.plan).findIdx (· == wheelOf n))
        (p.drop (sub.1 - sh.1)).take sub.2
      runSendAll r.item 2 cut ((otherWheels s r).map (sameSeat s)) (putRun { r with part := some p } s)

/-- Phase 2 is whole: the own sub-shard, reduced across wheels in ascending order, goes into BUF and, in an ALL_REDUCE, to the other
wheels (phase 3). -/
def runOwn (r : CollRun) (p : List Byte) (s : State) : State :=
  let j := ownSeatIdx s r
  let i := ownWheelIdx s r
  let sub := subOf r j i
  match (otherWheels s r).mapM fun w => gathered r (tagOf 2) (sameSeat s w) sub.2 with
  | none => s
  | some _ =>
    let mine := (p.drop (sub.1 - (shardOf r j).1)).take sub.2
    let xs := (cvWheels r.plan).map fun w => if w = wheelOf (ownNode s) then mine else (gathered r (tagOf 2) (sameSeat s w) sub.2).getD []
    let v := combineAll (cvDtype r.plan) (cvOp r.plan) sub.2 xs
    let s1 := runWrite r sub.1 v (putRun { r with own := some v, subs := [i] } s)
    if cvKind r.plan = 0 then runSendAll r.item 3 (fun _ => v) ((otherWheels s r).map (sameSeat s)) s1 else s1

/-- The next sub-shard of the own shard that has come whole. -/
def runSubs (r : CollRun) (s : State) : State :=
  let j := ownSeatIdx s r
  let next := (List.range (cvWheels r.plan).length).findSome? fun i =>
    if r.subs.contains i then none
    else (gathered r (tagOf 3) (sameSeat s ((cvWheels r.plan).getD i 0)) (subOf r j i).2).map fun bs => (i, bs)
  match next with
  | none => s
  | some (i, bs) => runWrite r (subOf r j i).1 bs (putRun { r with subs := r.subs ++ [i] } s)

/-- The whole own shard is in BUF: it goes to the other seats (phase 4). -/
def runSpread (r : CollRun) (s : State) : State :=
  let j := ownSeatIdx s r
  let sh := shardOf r j
  runRead r sh.1 sh.2 s fun bs s =>
    runSendAll r.item 4 (fun _ => bs) ((otherSeats s r).map (sameWheel s)) (putRun { r with spread := true, shards := r.shards ++ [j] } s)

/-- The next shard of another seat that has come whole. -/
def runShards (r : CollRun) (s : State) : State :=
  let next := (List.range (cvSeats r.plan).length).findSome? fun j =>
    if r.shards.contains j || j == ownSeatIdx s r then none
    else (gathered r (tagOf 4) (sameWheel s ((cvSeats r.plan).getD j 0)) (shardOf r j).2).map fun bs => (j, bs)
  match next with
  | none => s
  | some (j, bs) => runWrite r (shardOf r j).1 bs (putRun { r with shards := r.shards ++ [j] } s)

/-- Where a BROADCAST's data comes from: its sender and phase; none on ROOT. -/
def castFrom (s : State) (r : CollRun) : Option (Nat × Nat) :=
  let me := ownNode s
  let root := cvRoot r.plan
  if me = root then none
  else if seatOf me = seatOf root then some (root, 3)
  else some (sameWheel s (seatOf root), 4)

/-- A BROADCAST's data is here: it goes down the tree, from ROOT to its seat in the other wheels, from there to the other seats. -/
def runCast (r : CollRun) (bs : List Byte) (s : State) : State :=
  let me := ownNode s
  let s1 := if me = cvRoot r.plan then runSendAll r.item 3 (fun _ => bs) ((otherWheels s r).map (sameSeat s)) s else s
  if seatOf me = seatOf (cvRoot r.plan) then runSendAll r.item 4 (fun _ => bs) ((otherSeats s r).map (sameWheel s)) s1 else s1

/-- One step of a collective's progress. -/
def runStep (r : CollRun) (s : State) : State :=
  if cvKind r.plan = 3 then
    if r.spread then s
    else
      match castFrom s r with
      | none => runRead r 0 r.len s fun bs s => runCast r bs (putRun { r with spread := true } s)
      | some (src, ph) =>
        match gathered r (tagOf ph) src r.len with
        | none => s
        | some bs => runCast r bs (runWrite r 0 bs (putRun { r with spread := true } s))
  else if cvKind r.plan < 2 ∧ r.part.isNone then runReduce r s
  else if cvKind r.plan < 2 ∧ r.own.isNone then runOwn r (r.part.getD []) s
  else if cvKind r.plan = 1 then s
  else if r.subs.length < (cvWheels r.plan).length then runSubs r s
  else if !r.spread then runSpread r s
  else runShards r s

/-- Everything of the plan that this node does has been done, but for messages still queued. -/
def runOver (r : CollRun) : Bool :=
  match cvKind r.plan with
  | 1 => r.own.isSome
  | 3 => r.spread
  | _ => r.spread && r.shards.length == (cvSeats r.plan).length

/-- REDUCE_SCATTER leaves the bytes of BUF outside the own sub-shard undefined (R418). -/
def runScatterRest (r : CollRun) (s : State) : State :=
  if cvKind r.plan = 1 then
    let sub := subOf r (ownSeatIdx s r) (ownWheelIdx s r)
    let (k, s1) := s.draw
    let free := fit r.len (Config.freeBytes k)
    let s2 := (vaWrite r.func r.buf (free.take sub.1) s1).1
    (vaWrite r.func (r.buf + sub.1 + sub.2) (free.drop (sub.1 + sub.2)) s2).1
  else s

/-- Complete a collective whose work is over and whose messages have left. -/
def runSettle (item : Nat) (s : State) : State :=
  match runOf s item with
  | none => s
  | some r => if runOver r && !anyQueued s (1, item) then finish item stDone 0 (dropRun item (runScatterRest r s)) else s

/-- Progress as far as what has arrived allows. -/
def runAdvance : Nat → Nat → State → State
  | 0, _, s => s
  | fuel + 1, item, s =>
    match runOf s item with
    | none => s
    | some r =>
      let s1 := runStep r s
      if runOf s1 item = some r then s1 else runAdvance fuel item s1

/-- Enough steps for any plan: 16 sub-shards, 16 shards and the phases. -/
def runFuel : Nat := 40

def runGo (item : Nat) (s : State) : State := runSettle item (runAdvance runFuel item s)

/-! ### COLL stream steps (R422, Table SPK-7) -/

def clStep (d : List Byte) : Nat := fieldAt d 6 1
def clDtype (d : List Byte) : Nat := bitsOf (fieldAt d 7 1) 1 0
def clOp (d : List Byte) : Nat := bitsOf (fieldAt d 7 1) 3 2
def clClass (d : List Byte) : Nat := 2 + bitsOf (fieldAt d 7 1) 5 4
def clPlane (d : List Byte) : Nat := bitsOf (fieldAt d 7 1) 7 6
def clLen (d : List Byte) : Nat := fieldAt d 8 4
def clPeer (d : List Byte) : Nat := fieldAt d 12 1
def clCollId (d : List Byte) : Nat := fieldAt d 16 4
def clMsg (d : List Byte) : Nat := fieldAt d 20 4
def clSrc (d : List Byte) : Nat := fieldAt d 32 8
def clDst (d : List Byte) : Nat := fieldAt d 40 8

/-- Fields in range. -/
def collOk (d : List Byte) : Bool :=
  clStep d < 3 && clDtype d < 3 && clOp d < 3 && clClass d < 4 && clPlane d < 3 && 1 ≤ clLen d && clLen d ≤ 2 ^ 24 &&
  clLen d % elSize (clDtype d) == 0 && (clStep d == 1 || clSrc d < 2 ^ 48) && (clStep d == 0 || clDst d < 2 ^ 48)

/-- May a function use collectives (R415)? Bit 0 is the PF, bit v + 1 VIv. -/
def collFn (s : State) (f : Nat) : Bool := bitOf (s.reg R.SPK_COLL_FN).toNat (if f = 16 then 0 else f + 1)

/-- Discovery is over, or cannot come: a collective need not wait (R410). -/
def discSettled (s : State) : Bool := discState s == dDone || discState s == dAlone || discState s == dExcluded

/-- A member exists in the current discovery (R409, R417). -/
def nodeThere (s : State) (n : Nat) : Bool :=
  if discState s = dAlone then n == 0
  else if discState s ≠ dDone then false
  else if wheelOf n = wheelOf (ownNode s) then seatOf n < s.fld R.SPK_STAT F.SPK_STAT_WHEEL_SIZE
  else s.flag R.SPK_STAT F.SPK_STAT_GLOBAL && wheelOf n < s.fld R.SPK_STAT F.SPK_STAT_NWHEELS &&
    Config.nodeExists (s.reg R.SPK_GEN).toNat n

def setSteps (l : List CollStep) (s : State) : State := { s with spk := { s.spk with steps := l } }
def dropStep (c : Nat) (s : State) : State := setSteps (s.spk.steps.filter (·.chan != c)) s

/-- A COLL step is over; a channel whose messages still wait stays with it (R414). -/
def collDone (c : Nat) (s : State) : State := descBegun c ((s.chan c).cur + 64) true none none [] (dropStep c s)

/-- A COLL step ends its stream item. -/
def collFail (c status detail : Nat) (s : State) : State := chanEnd c status detail (dropStep c s)

/-- The data of a step once it is whole. -/
def stepWhole (x : CollStep) (n : Nat) : Option (List Byte) :=
  let total := (x.got.map fun e => e.2.length).foldl (· + ·) 0
  if n ≤ total then
    some (x.got.foldl (fun acc e => fit n (acc.take e.1 ++ e.2 ++ acc.drop (e.1 + e.2.length))) (List.replicate n 0))
  else none

/-- Put a step's data in place: RECV writes it, RECV_SUM combines SRC, on the left, with it (R422). -/
def collFinish (c : Nat) (bs : List Byte) (s : State) : State :=
  let d := (s.chan c).desc
  let sp := chanOwner s c
  let put (v : List Byte) (s : State) : State :=
    match vaWrite sp (clDst d) v s with
    | (s1, some e) => chanFail c e (dropStep c s1)
    | (s1, none) =>
      let s2 := match (s1.chan c).item with
        | some id => if twinRunning s1 then updItem id (fun it => { it with outs := it.outs ++ v }) s1 else s1
        | none => s1
      collDone c s2
  if clStep d = 1 then put bs s
  else
    match vaRead sp (clSrc d) (clLen d) s with
    | (s1, .error e) => chanFail c e (dropStep c s1)
    | (s1, .ok src) => put (combine (clDtype d) (clOp d) (clLen d / elSize (clDtype d)) src bs) s1

/-- Do the message and the step name each other? -/
def stepMatch (s : State) (m : SpkMsg) (x : CollStep) : Bool :=
  let d := (s.chan x.chan).desc
  clStep d != 0 && clPeer d == m.src.toNat && clCollId d == m.collId.toNat && clMsg d == m.msg.toNat

/-- A receive buffer drains: its credits return (R397). -/
def drainMsg (p : Nat) (m : SpkMsg) (s : State) : State :=
  s.setPort p (oweCredit m.cls.val (1 + flitCount m.data.length) (s.port p))

/-- Give a message to the collective or step it belongs to; `none` while neither is posted. -/
def deliverMsg (p : Nat) (m : SpkMsg) (s : State) : Option State :=
  match s.spk.runs.find? fun r => r.started && cvCollId r.plan == m.collId.toNat && m.check != 0 with
  | some r =>
    let s1 := drainMsg p m s
    if m.check.toNat ≠ planCheck r.plan r.len then some (endRun r.item stAborted p 7 (abortMembers r 7 s1))
    else some (runGo r.item (putRun { r with got := r.got ++ [(m.msg.toNat, m.src.toNat, m.offset.toNat, m.data)] } s1))
  | none =>
    match s.spk.steps.find? (stepMatch s m) with
    | none => none
    | some x =>
      let y := { x with got := x.got ++ [(m.offset.toNat, m.data)] }
      let s1 := setSteps (s.spk.steps.map fun z => if z.chan = x.chan then y else z) (drainMsg p m s)
      match stepWhole y (clLen (s.chan x.chan).desc) with
      | none => some s1
      | some bs => some (collFinish x.chan bs s1)

/-- Messages that came early find what has been posted since (R422). -/
def retryEarly : List (Nat × SpkMsg) → State → State
  | [], s => s
  | (p, m) :: rest, s =>
    match deliverMsg p m { s with spk := { s.spk with early := s.spk.early.erase (p, m) } } with
    | some s1 => retryEarly rest s1
    | none => retryEarly rest s

/-- Start a COLL step of a channel. -/
def collStart (c : Nat) (s : State) : State :=
  let d := (s.chan c).desc
  if s.spk.off then collFail c stPower 0 s
  else if !discSettled s then s
  else if !nodeThere s (clPeer d) || (portTo s (clPeer d) (clPlane d)).isNone then collFail c stLink (unitDetail kSpoke 0xFF 3) s
  else if clStep d = 0 then
    match vaRead (chanOwner s c) (clSrc d) (clLen d) s with
    | (s1, .error e) => chanFail c e s1
    | (s1, .ok bs) =>
      match sendData (2, c) (clPeer d) (clClass d) (clPlane d) (clCollId d) (clMsg d) 0 (clLen d / 65536 + 1) 0 bs s1 with
      | none => collFail c stLink (unitDetail kSpoke 0xFF 3) s1
      | some s2 => s2.setChan c { s2.chan c with phase := .coll }
  else
    let s1 := setSteps (s.spk.steps ++ [{ chan := c }]) (s.setChan c { s.chan c with phase := .coll })
    retryEarly s1.spk.early s1

/-- A COLL descriptor of one kind of step: checked, then started. Without the expert level or the function's bit it is REJECTED
(R415, R427). -/
def collDesc (c step : Nat) (s : State) : State :=
  onDesc c (· == 7) (fun s =>
    let d := (s.chan c).desc
    if !collOk d || !expertOn s 9 || !collFn s (chanOwner s c) then chanEnd c stRejected 0 s
    else if clStep d = step then collStart c s else s) s

def execCollSend (ch : Fin 192) (s : State) : Host.Outcome State Fault Refusal := .next (collDesc ch.val 0 s)
def execCollRecv (ch : Fin 192) (s : State) : Host.Outcome State Fault Refusal := .next (collDesc ch.val 1 s)
def execCollRecvSum (ch : Fin 192) (s : State) : Host.Outcome State Fault Refusal := .next (collDesc ch.val 2 s)

/-- SEND steps whose messages have all left are over (R414). -/
def sendsSettle (s : State) : State :=
  (List.range 192).foldl (fun s c =>
    if (s.chan c).phase = .coll ∧ clStep (s.chan c).desc = 0 ∧ !anyQueued s (2, c) then collDone c s else s) s

/-! ### COLLECTIVE (R415-R417) -/

/-- A collective starts: its members are checked, then its first messages leave. -/
def runStart (item : Nat) (s : State) : State :=
  match runOf s item with
  | none => s
  | some r =>
    let me := ownNode s
    let ms := cvMembers r.plan
    if discState s ≠ dExcluded ∧ (!ms.contains me || (cvKind r.plan == 3 && !ms.contains (cvRoot r.plan))) then
      finish item stRejected 0 (dropRun item s)
    else if !ms.all (nodeThere s) then endRun item stLink 0xFF 3 s
    else
      let r1 := { r with started := true }
      let s1 := putRun r1 (markStarted item s)
      let j := ownSeatIdx s r
      let i := ownWheelIdx s r
      let s2 :=
        if cvKind r.plan < 2 then
          runRead r1 0 r.len s1 fun bs s =>
            let cut (n : Nat) : List Byte :=
              let sh := shardOf r ((cvSeats r.plan).findIdx (· == seatOf n))
              (bs.drop sh.1).take sh.2
            runSendAll item 1 cut ((otherSeats s r).map (sameWheel s)) s
        else if cvKind r.plan = 2 then
          let sub := subOf r j i
          runRead r1 sub.1 sub.2 s1 fun bs s =>
            runSendAll item 3 (fun _ => bs) ((otherWheels s r).map (sameSeat s)) (putRun { r1 with subs := [i] } s)
        else s1
      retryEarly (runGo item s2).spk.early (runGo item s2)

/-- Take up a COLLECTIVE descriptor. -/
def collSubmit (it : RItem) (s : State) : State :=
  let d := it.desc
  let quota := s.fld (R.VIS_QUOTA (visPage it.func)) F.VIS_QUOTA_CHANNELS
  if !collFn s it.func || quota < ownedChans s it.func || collPlan d % 64 != 0 then finish it.id stRejected 0 s
  else if s.spk.off then finish it.id stPower 0 s
  else
    match vaRead it.func (collPlan d) 64 s with
    | (s1, .error e) => failItem it e s1
    | (s1, .ok p) =>
      if !planOk p || collLen d % elSize (cvDtype p) != 0 then finish it.id stRejected 0 s1
      else
        let r : CollRun := { item := it.id, func := it.func, plan := p, buf := collBuf d, len := collLen d }
        let s2 := setRuns (s1.spk.runs ++ [r]) s1
        if discSettled s2 then runStart it.id s2 else s2

def execCollective (f : Fin 17) (q : Fin 8) (s : State) : Host.Outcome State Fault Refusal := .next (onItem f.val q.val 3 s collSubmit)

/-- Collectives that waited for DONE start (R410). -/
def startWaiting (s : State) : State :=
  (s.spk.runs.filter fun r => !r.started).foldl (fun s r => runStart r.item s) s

/-- A collective still waiting for DONE after 50 ms (R410). -/
def discoveryWaitTimeout (item : Nat) (s : State) : State :=
  match runOf s item with
  | none => s
  | some r => if r.started then s else endRun item stLink 0xFF 4 s

def execDiscoveryWaitTimeout (item : BitVec 32) (s : State) : Host.Outcome State Fault Refusal := .next (discoveryWaitTimeout item.toNat s)

/-- R421. -/
def collTimeout (item : Nat) (s : State) : State :=
  match runOf s item with
  | none => s
  | some r => if r.started then endRun item stAborted 0xFF 5 s else s

def execCollTimeout (item : BitVec 32) (s : State) : Host.Outcome State Fault Refusal := .next (collTimeout item.toNat s)

/-- A member receives ABORT (R421). -/
def abortReceive (collId : Nat) (s : State) : State :=
  (s.spk.runs.filter fun r => cvCollId r.plan == collId).foldl (fun s r => endRun r.item stAborted 0xFF 6 s) s

def execAbortReceive (collId : Word) (_reason : Byte) (s : State) : Host.Outcome State Fault Refusal := .next (abortReceive collId.toNat s)

end Sys2Proof.Machine
end

