-- ==== Sys2Proof/Machine/Spoke.lean ====
section
/-! DEFINITION. Spoke discovery and link events (12_spoke_fabric): ports coming up and going down, HELLO, ADJ, pruning, SEAT, the HUB
phase, messages arriving (R388-R411, R426). -/

namespace Sys2Proof.Machine

/-! ### Restarting discovery (R410) -/

def bumpGen (s : State) : State := s.addWrap R.SPK_GEN F.SPK_GEN_GEN 1

/-- Every COLL step in progress ends its stream item. -/
def endSteps (status detail : Nat) (s : State) : State :=
  (List.range 192).foldl (fun s c => if (s.chan c).phase = .coll then collFail c status detail s else s) s

/-- Collectives in progress complete LINK_LOST, REDISCOVERY, and their members hear ABORT. -/
def loseRuns (s : State) : State :=
  let s1 := (s.spk.runs.filter (·.started)).foldl (fun s r => endRun r.item stLink 0xFF 4 (abortMembers r 4 s)) s
  endSteps stLink (unitDetail kSpoke 0xFF 4) s1

/-- Receive buffers held by early messages drain. -/
def dropEarly (s : State) : State :=
  { s.spk.early.foldl (fun s e => drainMsg e.1 e.2 s) s with spk := { (s.spk.early.foldl (fun s e => drainMsg e.1 e.2 s) s).spk with early := [] } }

/-- Discovery starts again from HELLO; `own` when the own neighbours have changed. -/
def restart (own : Bool) (s : State) : State :=
  let s1 := if own then { s with spk := { s.spk with gen := s.spk.gen + 1 } } else s
  if discState s = dOff then s1
  else
    let s2 := dropEarly (loseRuns s1)
    setDisc dHello (bumpGen { s2 with spk := { s2.spk with view := [], wheel := [], seats := [], nums := [], num := none, count := 1 } })

/-! ### Ports leaving ACTIVE (R398) -/

/-- Does the port hold anything of an owner, queued or in flight? -/
def holdsOwner (owner : Nat × Nat) (x : SpkPort) : Bool := ownerQueued owner x || x.unacked.any fun f => f.owners.contains owner

/-- A port's only way: an uplink while the other is not ACTIVE. -/
def soleUplink (s : State) (p : Nat) : Bool := 15 ≤ p && !isActive s (31 - p)

/-- A collective has a message queued, in flight or expected on a port. -/
def runUses (s : State) (p : Nat) (r : CollRun) : Bool :=
  holdsOwner (1, r.item) (s.port p) ||
  (r.started && (if p < 15 then (otherSeats s r).contains (s.fld (R.SPK_P_STAT p) F.SPK_P_STAT_PARTNER)
                 else soleUplink s p && !(otherWheels s r).isEmpty))

/-- A COLL step has. -/
def stepUses (s : State) (p c : Nat) : Bool :=
  let peer := clPeer (s.chan c).desc
  holdsOwner (2, c) (s.port p) ||
  ((s.chan c).phase == .coll && clStep (s.chan c).desc != 0 &&
   (if wheelOf peer = wheelOf (ownNode s) then p < 15 && s.fld (R.SPK_P_STAT p) F.SPK_P_STAT_PARTNER == seatOf peer else soleUplink s p))

/-- What used the port completes LINK_LOST, naming it. -/
def lostOn (p reason : Nat) (s : State) : State :=
  let s1 := (s.spk.runs.filter (runUses s p)).foldl (fun s r => endRun r.item stLink p reason s) s
  (List.range 192).foldl (fun s c => if (s.chan c).phase = .coll ∧ stepUses s p c then collFail c stLink (unitDetail kSpoke p reason) s else s) s1

/-- Send REPORT on the active uplinks (R407). -/
def sendReport (s : State) : State :=
  let w := s.spk.wheel
  sendAll (activeU s) 4 [(ownUid s).toNat, ((w.head?).getD 0).toNat, w.length, w.findIdx (· == ownUid s)] s

/-- An uplink that enters or leaves ACTIVE: REPORT again (R411). -/
def uplinkChange (s : State) : State := if discState s = dHub ∨ discState s = dDone then sendReport s else s

/-- Forget what a port holds; a port that goes DOWN forgets its numbering and credits too. -/
def clearPort (p : Nat) (down : Bool) (s : State) : State :=
  if down then s.setPort p {}
  else s.setPort p { s.port p with queue := [], cur1 := none, cur23 := none, unacked := [], resend := [] }

/-- A port goes to a link state other than ACTIVE. -/
def leavePort (p st reason : Nat) (s : State) : State :=
  if isActive s p then
    let s1 := breakPair p (clearPort p (st == lDown) (setLink p st (lostOn p reason s)))
    if p < 15 then restart true s1 else uplinkChange s1
  else clearPort p (st == lDown) (setLink p st s)

def spkLinkEvent (p : Nat) (s : State) : State := event 0x00A0 16 (p + 256 * linkState s p) s

/-- Lock lost, or no HELLO for 100 µs: UP, ACTIVE and MISCABLED go DOWN (Table SPK-3). -/
def portDown (p : Nat) (s : State) : State := if linkOpen s p then spkLinkEvent p (leavePort p lDown 1 s) else s

def execSpkLockLost (p : Fin 17) (s : State) : Host.Outcome State Fault Refusal := .next (portDown p.val s)
def execHelloTimeout (p : Fin 17) (s : State) : Host.Outcome State Fault Refusal := .next (portDown p.val s)

/-! ### Ports coming up -/

/-- The fabric runs: enabled and powered. -/
def spkOn (s : State) : Bool := s.flag R.SPK_CTL F.SPK_CTL_EN && !s.spk.off
def portOn (s : State) (p : Nat) : Bool := s.flag (R.SPK_P_CTL p) F.SPK_P_CTL_EN && (s.unit kSpoke p).eff == 0

def execSpkSignalPresent (p : Fin 17) (s : State) : Host.Outcome State Fault Refusal :=
  .next (if spkOn s && portOn s p.val && linkState s p.val == lDown && (s.unit kSpoke p.val).eff == 0 then setLink p.val lTraining s else s)

/-- Frames are aligned both ways: UP, with the round trip measured (R396). -/
def linkTrained (p rtt : Nat) (s : State) : State :=
  if linkState s p = lTraining then
    let s1 := (setLink p lUp (s.setPort p {})).setReg (R.SPK_P_RTT p) (BitVec.ofNat 32 rtt)
    let s2 := s1.setFlag (R.SPK_P_STAT p) F.SPK_P_STAT_SLOW (decide (327 < rtt))
    { s2 with spk := { s2.spk with upAt := s2.bel.dnc } }
  else s

def execLinkTrained (p : Fin 17) (rtt : BitVec 16) (s : State) : Host.Outcome State Fault Refusal := .next (linkTrained p.val rtt.toNat s)

/-- All ports go down and discovery is OFF (Table SPK-5). -/
def spokeStop (s : State) : State :=
  let s1 := (List.range 17).foldl (fun s p => if isActive s p then lostOn p 1 s else s) s
  let s2 := endSteps stLink (unitDetail kSpoke 0xFF 1) (setDisc dOff s1)
  (List.range 17).foldl (fun s p => leavePort p lDown 1 s) s2

/-- A write of SPK_CTL. -/
def writeSpkCtl (a : Agent) (v : Word) (s : State) : State :=
  let s1 := storeReg a R.SPK_CTL v s
  if spkOn s1 then (if discState s1 = dOff then setDisc dHello s1 else s1)
  else if discState s1 = dOff then s1 else spokeStop s1

def execSpkEnable (a : Agent) (v : Word) (s : State) : Host.Outcome State Fault Refusal := .next (writeSpkCtl a v s)

/-- The SP island goes off: collectives complete POWER_DENIED, the ports go down (R390, R511). -/
def spokePowerOff (s : State) : State :=
  if s.spk.off then s
  else
    let s1 := s.spk.runs.foldl (fun s r => finish r.item stPower 0 (dropRun r.item s)) s
    let s2 := spokeStop (endSteps stPower 0 s1)
    { s2 with spk := { s2.spk with off := true } }

/-- The SP island is powered: with SPK_CTL.EN = 1 discovery starts from HELLO. -/
def spokePowerOn (s : State) : State :=
  if s.spk.off then
    let s1 := { s with spk := { s.spk with off := false } }
    if spkOn s1 then setDisc dHello s1 else s1
  else s

/-- A write of SPK_Pn_CTL. A disabled port is DOWN; a FAILED one stays so until it is enabled again (Table SPK-3). -/
def writePortCtl (a : Agent) (p : Nat) (v : Word) (s : State) : State :=
  let was := portOn s p
  let s1 := storeReg a (R.SPK_P_CTL p) v s
  if was && !portOn s1 p then (if linkState s1 p = lFailed then s1 else leavePort p lDown 1 s1)
  else if !was && portOn s1 p && linkState s1 p == lFailed then leavePort p lDown 1 s1
  else s1

def execSpkPortCtlWrite (a : Agent) (p : Fin 17) (v : Word) (s : State) : Host.Outcome State Fault Refusal := .next (writePortCtl a p.val v s)

/-! ### Frames -/

/-- A frame time of a port: its next frame leaves; what waited for its messages to leave goes on. -/
def spkFrameSend (p : Nat) (s : State) : State :=
  if linkOpen s p then
    let s1 := sendsSettle (sendFrame p s)
    s1.spk.runs.foldl (fun s r => runSettle r.item s) s1
  else s

def execSpkFrameSend (p : Fin 17) (s : State) : Host.Outcome State Fault Refusal := .next (spkFrameSend p.val s)

/-- A frame arrives; the eighth NAK in a row fails the link (R395). -/
def spkFrameReceive (p : Nat) (fecOk : Bool) (bs : List Byte) (s : State) : State :=
  if linkOpen s p then
    let s1 := takeFrame p fecOk bs s
    if 8 ≤ (s1.port p).naks then spkLinkEvent p (leavePort p lFailed 2 s1) else s1
  else s

def execSpkFrameReceive (p : Fin 17) (fecOk : Bool) (bytes : List Byte) (s : State) : Host.Outcome State Fault Refusal :=
  .next (spkFrameReceive p.val fecOk bytes s)

/-! ### HELLO (R402, R403) -/

def execHelloSend (s : State) : Host.Outcome State Fault Refusal :=
  .next (((List.range 17).filter (linkOpen s)).foldl (fun s p =>
    sendControl p 1 [(ownUid s).toNat, 0, p, linkState s p, discState s] s) s)

/-- A port has heard this UID. -/
def heard (s : State) (uid : DWord) (q : Nat) : Bool :=
  (linkState s q == lUp || linkState s q == lActive) && decide (0 < (s.port q).hellos) && (s.port q).uid == uid

/-- Ports of the same kind that reach the same partner. -/
def rivals (s : State) (p : Nat) (uid : DWord) : List Nat :=
  ((if p < 15 then List.range 15 else [15, 16]).filter fun q => q != p && heard s uid q)

/-- The HELLO fails a check for this port. -/
def helloBad (s : State) (p : Nat) (uid : DWord) (hub : Bool) : Bool :=
  (decide (p < 15) && hub) || (decide (15 ≤ p) && !hub) || uid == ownUid s || (rivals s p uid).any (· < p)

/-- A port is marked MISCABLED. -/
def miscable (p : Nat) (s : State) : State :=
  leavePort p lMiscabled 1 (s.setFlag R.SPK_DISC_ERR F.SPK_DISC_ERR_MISCABLED true)

/-- A port becomes ACTIVE: a W-port restarts discovery (R410), an uplink reports (R411). -/
def becomeActive (p : Nat) (s : State) : State :=
  let s1 := setLink p lActive s
  if p < 15 then restart true s1 else uplinkChange s1

/-- What a HELLO says of the partner. -/
def showPartner (p : Nat) (uid : DWord) (hub : Bool) (pport : Nat) (s : State) : State :=
  let st := R.SPK_P_STAT p
  let s1 := (s.setPair (R.SPK_P_PUID_LO p) (R.SPK_P_PUID_HI p) uid.toNat).setFlag st F.SPK_P_STAT_PARTNER_HUB hub
  if hub then s1.setFld st F.SPK_P_STAT_PARTNER pport else s1

def helloReceive (p : Nat) (uid : DWord) (hub : Bool) (pport : Nat) (s : State) : State :=
  if !linkOpen s p then s
  else
    let x := s.port p
    let n := if x.uid = uid ∧ 0 < x.hellos then x.hellos + 1 else 1
    let moved := isActive s p && x.uid != uid
    let s1 := showPartner p uid hub pport (if moved then leavePort p lUp 1 s else s)
    let s2 := s1.setPort p { s1.port p with uid := uid, hellos := n }
    if linkState s2 p = lMiscabled then s2
    else if helloBad s2 p uid hub then miscable p s2
    else
      let s3 := ((rivals s2 p uid).filter (p < ·)).foldl (fun s q => miscable q s) s2
      if linkState s3 p = lUp ∧ 2 ≤ n then becomeActive p s3 else s3

def execHelloReceive (p : Fin 17) (uid : DWord) (hub : Bool) (partnerPort : Byte) (s : State) : Host.Outcome State Fault Refusal :=
  .next (helloReceive p.val uid hub partnerPort.toNat s)

/-! ### ADJ and the view (R404) -/

def ownRecord (s : State) : AdjRec := { uid := ownUid s, gen := BitVec.ofNat 32 s.spk.gen, neigh := (activeW s).map (puid s) }

def adjVals (r : AdjRec) : List Nat := r.uid.toNat :: r.gen.toNat :: r.neigh.map (·.toNat)

def execAdjSend (s : State) : Host.Outcome State Fault Refusal :=
  .next (if discState s = dOff then s else sendAll (activeW s) 2 (adjVals (ownRecord s)) s)

def addView (r : AdjRec) (s : State) : State :=
  { s with spk := { s.spk with view := r :: s.spk.view.filter (·.uid != r.uid) } }

/-- A record of another device: new, it is kept and relayed; newer than the one in the view, discovery restarts with it (R410). -/
def adjReceive (p : Nat) (r : AdjRec) (s : State) : State :=
  let relay (s : State) : State := sendAll ((activeW s).filter (· != p)) 2 (adjVals r) s
  if !(decide (p < 15) && isActive s p) || r.uid == ownUid s || discState s == dOff then s
  else
    match s.spk.view.find? (·.uid == r.uid) with
    | none => relay (addView r s)
    | some old => if old.gen < r.gen then relay (addView r (restart false s)) else s

def execAdjReceive (p : Fin 17) (r : AdjRec) (s : State) : Host.Outcome State Fault Refusal := .next (adjReceive p.val r s)

/-! ### Pruning (R405) -/

def recOf (recs : List AdjRec) (u : DWord) : List DWord := ((recs.find? (·.uid == u)).map (·.neigh)).getD []

/-- A link both ends report. -/
def joined (recs : List AdjRec) (a b : DWord) : Bool := (recOf recs a).contains b && (recOf recs b).contains a

/-- The devices reached from a set through reported links. -/
def reachUids (recs : List AdjRec) : Nat → List DWord → List DWord
  | 0, us => us
  | n + 1, us =>
    let more := (recs.map (·.uid)).filter fun u => !us.contains u && us.any fun x => (recOf recs x).contains u
    if more.isEmpty then us else reachUids recs n (us ++ more)

/-- Links a member misses within a set. -/
def missing (recs : List AdjRec) (set : List DWord) (u : DWord) : Nat := (set.filter fun x => x != u && !joined recs u x).length

/-- The member with the most missing links, the highest UID among equals. -/
def worst (recs : List AdjRec) (set : List DWord) : List DWord → Option DWord
  | [] => none
  | u :: us =>
    match worst recs set us with
    | none => some u
    | some b =>
      let mu := missing recs set u
      let mb := missing recs set b
      if mb < mu ∨ (mb = mu ∧ b < u) then some u else some b

/-- Remove members until the rest is a full mesh: the rest, and the removed. -/
def pruneOnce (recs : List AdjRec) : Nat → List DWord → List DWord × List DWord
  | 0, set => (set, [])
  | n + 1, set =>
    match worst recs set set with
    | none => (set, [])
    | some u =>
      if missing recs set u = 0 then (set, [])
      else
        let r := pruneOnce recs n (set.filter (· != u))
        (r.1, u :: r.2)

/-- The wheels of a view. -/
def wheelsOf (recs : List AdjRec) : Nat → List DWord → List (List DWord)
  | 0, _ => []
  | n + 1, set =>
    if set.isEmpty then []
    else
      let r := pruneOnce recs set.length set
      if r.1.length < 2 then wheelsOf recs n r.2 else r.1 :: wheelsOf recs n r.2

/-- UIDs in ascending order. -/
def insUid (u : DWord) : List DWord → List DWord
  | [] => [u]
  | x :: xs => if u ≤ x then u :: x :: xs else x :: insUid u xs
def sortUids : List DWord → List DWord
  | [] => []
  | x :: xs => insUid x (sortUids xs)

/-! ### SEAT (R406) -/

def ownSeat (s : State) : Nat := s.spk.wheel.findIdx (· == ownUid s)
def leaderUid (s : State) : DWord := s.spk.wheel.head?.getD 0

/-- A SEAT message that agrees with the own view of the wheel. -/
def seatAgrees (s : State) (m : DWord × DWord × Nat × Nat) : Bool :=
  m.2.1 == leaderUid s && m.2.2.1 == s.spk.wheel.length && m.2.2.2 == s.spk.wheel.findIdx (· == m.1)

/-! ### HUB and DONE (R407, R408) -/

/-- Record the W-port map: PARTNER of every active W-port is its partner's seat. -/
def showPartners (s : State) : State :=
  (activeW s).foldl (fun s p => s.setFld (R.SPK_P_STAT p) F.SPK_P_STAT_PARTNER (s.spk.wheel.findIdx (· == puid s p))) s

/-- Discovery is done with a wheel number. -/
def enterDone (num : Nat) (glob : Bool) (s : State) : State :=
  let st := R.SPK_STAT
  let node := 16 * num + ownSeat s
  let s1 := (((s.setFld st F.SPK_STAT_DSTATE dDone).setFld st F.SPK_STAT_NODE node).setFld st F.SPK_STAT_WHEEL_SIZE s.spk.wheel.length).setFlag
    st F.SPK_STAT_GLOBAL glob
  let s2 := s1.setFld st F.SPK_STAT_NWHEELS (if glob then s.spk.count else 1)
  let s3 := (showPartners s2).setReg R.SPK_DISC_TIME (BitVec.ofNat 32 ((s.bel.dnc - s.spk.upAt) / 1000))
  startWaiting (event 0x00A1 16 (dDone + 256 * node) { s3 with spk := { s3.spk with num := some num } })

/-- The number a member reports in WHEEL_NUM: its own, 0xFF without an uplink and without a number. -/
def ownReport (s : State) : Option Nat :=
  match s.spk.num with
  | some n => some n
  | none => if (activeU s).isEmpty then some 0xFF else none

def reports (s : State) : List (Option Nat) :=
  s.spk.wheel.map fun u => if u = ownUid s then ownReport s else (s.spk.nums.find? (·.1 == u)).map (·.2)

def sendNum (n : Nat) (s : State) : State := sendAll (activeW s) 6 [n] s

/-- The HUB phase ends when every member reports the same; no number at all is wheel 0, GLOBAL = 0. -/
def evalHub (s : State) : State :=
  if discState s ≠ dHub then s
  else
    match reports s with
    | some n :: rest => if rest.all (· == some n) then (if n = 0xFF then enterDone 0 false s else enterDone n true s) else s
    | _ => s

/-- A member without an uplink passes on the number it hears. -/
def adoptNum (s : State) : State :=
  if discState s = dHub ∧ (activeU s).isEmpty ∧ s.spk.num.isNone then
    match s.spk.nums.find? (·.2 != 0xFF) with
    | none => s
    | some x => sendNum x.2 { s with spk := { s.spk with num := some x.2 } }
  else s

/-- The HUB phase starts. -/
def enterHub (s : State) : State :=
  let s1 := setDisc dHub s
  if (activeU s1).isEmpty then evalHub (adoptNum (sendNum 0xFF s1)) else evalHub (sendReport s1)

/-- Compare the SEAT messages: all agree, or any disagrees. -/
def evalSeat (s : State) : State :=
  if discState s ≠ dSeat then s
  else
    let others := s.spk.wheel.filter (· != ownUid s)
    let msgs := others.map fun u => s.spk.seats.find? (·.1 == u)
    if msgs.any (fun m => match m with
      | some x => !seatAgrees s x
      | none => false) then setDisc dWheel { s with spk := { s.spk with seats := [] } }
    else if msgs.all (·.isSome) then enterHub s
    else s

def seatReceive (uid leader : DWord) (count seat : Nat) (s : State) : State :=
  evalSeat { s with spk := { s.spk with seats := (uid, leader, count, seat) :: s.spk.seats.filter (·.1 != uid) } }

def execSeatReceive (uid leader : DWord) (count seat : Byte) (s : State) : Host.Outcome State Fault Refusal :=
  .next (if discState s = dOff then s else seatReceive uid leader count.toNat seat.toNat s)

/-- A wheel has been found: the SEAT phase. -/
def enterSeat (w : List DWord) (s : State) : State :=
  let s1 := setDisc dSeat { s with spk := { s.spk with wheel := w } }
  let s2 := s1.setPair R.SPK_LEADER_LO R.SPK_LEADER_HI (leaderUid s1).toNat
  evalSeat (sendAll (activeW s2) 3 [(ownUid s2).toNat, (leaderUid s2).toNat, w.length, ownSeat s2] s2)

/-- SETTLE passes in WHEEL: the view is pruned into wheels. -/
def wheelEnd (s : State) : State :=
  let recs := ownRecord s :: s.spk.view
  let set := reachUids recs recs.length [ownUid s]
  let ws := wheelsOf recs set.length set
  let s1 := if (ws.map (·.length)).foldl (· + ·) 0 < set.length then s.setFlag R.SPK_DISC_ERR F.SPK_DISC_ERR_PRUNED true else s
  match ws.find? (·.contains (ownUid s)) with
  | none => setDisc dExcluded s1
  | some w => enterSeat (sortUids w) s1

/-- SETTLE passes without a change (Table SPK-5). -/
def settleExpiry (s : State) : State :=
  if discState s = dHello then
    if !(activeW s).isEmpty then
      let s1 := setDisc dWheel s
      sendAll (activeW s1) 2 (adjVals (ownRecord s1)) s1
    else if !(activeU s).isEmpty then startWaiting (setDisc dExcluded s)
    else startWaiting (setDisc dAlone (s.setFld R.SPK_STAT F.SPK_STAT_NODE 0))
  else if discState s = dWheel then
    let s1 := wheelEnd s
    if discState s1 = dExcluded then startWaiting s1 else s1
  else s

def execSettleExpiry (s : State) : Host.Outcome State Fault Refusal := .next (settleExpiry s)

def execReportSend (s : State) : Host.Outcome State Fault Refusal := .next (uplinkChange s)

/-- A different wheel number restarts the HUB phase (R411). -/
def hubAgain (num : Nat) (s : State) : State :=
  let s1 := setDisc dHub (bumpGen (dropEarly (loseRuns s)))
  evalHub (sendNum num { s1 with spk := { s1.spk with num := some num } })

/-- ASSIGN from a hub, for the own leader. -/
def assignReceive (p : Nat) (leader : DWord) (wheel count : Nat) (s : State) : State :=
  if !(decide (15 ≤ p) && isActive s p) || leader != leaderUid s then s
  else
    let s1 := { s with spk := { s.spk with count := count } }
    if discState s = dHub then evalHub (sendNum wheel { s1 with spk := { s1.spk with num := some wheel } })
    else if discState s = dDone then
      if some wheel = s.spk.num then
        (if s.flag R.SPK_STAT F.SPK_STAT_GLOBAL then s1.setFld R.SPK_STAT F.SPK_STAT_NWHEELS count else s1)
      else hubAgain wheel s1
    else s1

def execAssignReceive (p : Fin 17) (leader : DWord) (wheel count : Byte) (s : State) : Host.Outcome State Fault Refusal :=
  .next (assignReceive p.val leader wheel.toNat count.toNat s)

/-- WHEEL_NUM from a member. -/
def wheelNumReceive (uid : DWord) (wheel : Nat) (s : State) : State :=
  if s.spk.wheel.contains uid && uid != ownUid s then
    let s1 := { s with spk := { s.spk with nums := (uid, wheel) :: s.spk.nums.filter (·.1 != uid) } }
    if discState s = dDone ∧ (activeU s).isEmpty ∧ wheel ≠ 0xFF ∧ s.flag R.SPK_STAT F.SPK_STAT_GLOBAL ∧ some wheel ≠ s.spk.num then
      hubAgain wheel s1
    else evalHub (adoptNum s1)
  else s

def execWheelNumReceive (uid : DWord) (wheel : Byte) (s : State) : Host.Outcome State Fault Refusal := .next (wheelNumReceive uid wheel.toNat s)

/-- Two numbers have been received. -/
def numConflict (s : State) : Bool :=
  let ns := ((s.spk.num.toList ++ s.spk.nums.map (·.2)).filter (· != 0xFF))
  ns.any fun n => ns.any (· != n)

def hubTimeout (s : State) : State :=
  if discState s = dHub then
    enterDone 0 false (s.setFlag R.SPK_DISC_ERR (if numConflict s then F.SPK_DISC_ERR_HUB_CONFLICT else F.SPK_DISC_ERR_HUB_TIMEOUT) true)
  else s

def execHubTimeout (s : State) : Host.Outcome State Fault Refusal := .next (hubTimeout s)

/-! ### Messages (R400, R412, R422) -/

/-- A message arrives on a port: another node's is discarded and counted; a twin's samples go to the Radio Front; the rest goes to its
collective or step, or waits for it. -/
def messageReceive (p : Nat) (m : SpkMsg) (s : State) : State :=
  if !isActive s p then s
  else if m.dst.toNat ≠ ownNode s then drainMsg p m (s.addSat R.SPK_MISROUTE F.SPK_MISROUTE_CNT 1)
  else if m.cls.val < 2 then
    let s1 := drainMsg p m s
    if m.cls.val = 1 ∧ twinSecondary s ∧ s.cry.port = some p then mirrorSamples m.data s1 else s1
  else
    match deliverMsg p m s with
    | some s1 => s1
    | none => { s with spk := { s.spk with early := s.spk.early ++ [(p, m)] } }

def execSpkMessageReceive (p : Fin 17) (m : SpkMsg) (s : State) : Host.Outcome State Fault Refusal := .next (messageReceive p.val m s)

end Sys2Proof.Machine
end

