-- ==== Sys2Proof/Machine/Resets.lean ====
section
/-! DEFINITION. Resets (R463-R475, R347, R348, R532-R537): the fence of a function, the resets of the PCI Express class, warm and cold
reset, thermal trip. -/

namespace Sys2Proof.Machine

def setChm (c : ChmSt) (s : State) : State := { s with chm := c }

/-! ### What a fence stops -/

/-- A function's items of one SQ, in SQ order. -/
def itemsBySq (s : State) (f : Nat) : List RItem :=
  (List.range 8).flatMap fun q => s.host.items.filter fun it => it.func == f && it.sq == q

/-- A FRAME_TX in transmission finishes on the wire (R474). -/
def onWire (it : RItem) : Bool := dOpcode it.desc == 4 && it.started

/-- Units a stopped task used are cleared before another function's task is placed on them (R473). -/
def markZeroing (it : RItem) (s : State) : State :=
  let s1 := (it.tiles.getD []).foldl (fun s t => s.setTile t { s.tile t with zeroing := true }) s
  (it.cores.getD []).foldl (fun s c =>
    if (s.core c).item = none ∨ (s.core c).item = some it.id then s.setCore c { s.core c with zeroing := true } else s) s1

/-- The core commands of an item's cores are discarded (R245). -/
def dropCsl (it : RItem) (s : State) : State :=
  (it.cores.getD []).foldl (fun s c =>
    if (s.core c).item = some it.id then dropWaiter (0xC0 + c) (setCsl c [] s) else s) s

/-- Work that is not units: a step reports its entries, a collective tells its members (R306, R475). -/
def stopWork (it : RItem) (s : State) : State :=
  let s1 := if dOpcode it.desc = 2 ∧ it.active then stopStep it s else s
  match runOf s1 it.id with
  | none => s1
  | some r => dropRun it.id (if r.started then abortMembers r 6 s1 else s1)

/-- One item of a fenced function ends with a status (R469, R462). -/
def fenceItem (cause status : Nat) (it : RItem) (s : State) : State :=
  let it1 := withChanBytes s it
  let s1 := markZeroing it1 (stopUnits it1 (dropCsl it1 (stopWork it1 s)))
  formItem { it1 with outcomes := it1.outcomes ++ [(status, if status = stAborted then resetDetail cause else 0)] } s1

/-- ABORTED items first, then FLUSHED ones, each by SQ and index (R470). -/
def fenceItems (f cause : Nat) (s : State) : State :=
  let l := (itemsBySq s f).filter fun it => !onWire it
  let s1 := (l.filter (·.started)).foldl (fun s it => fenceItem cause stAborted it s) s
  (l.filter fun it => !it.started).foldl (fun s it => fenceItem cause stFlushed it s) s1

/-- A channel of the PF that no ring item uses serves a slot plan or pre-emption (R247). -/
def planChan (s : State) (c : Nat) : Bool := chanOwner s c == 16 && (s.chan c).item.isNone

/-- Channels a function owns stop; those that serve slot plans go on. -/
def fenceChans (f : Nat) (s : State) : State :=
  (List.range 192).foldl (fun s c =>
    if chanOwner s c == f && (s.chan c).phase != .idle && !planChan s c then stopChan c (if (s.chan c).begun then stAborted else stFlushed) s
    else s) s

/-- A pair that a reserve core or a channel of a slot plan uses. -/
def planPair (s : State) (p : Nat) : Bool :=
  [semProd s p, semCons s p].any fun a =>
    (a < 192 && planChan s a && (s.chan a).phase != .idle) || (0xC0 ≤ a && a < 0xD0 && rtCore s (a - 0xC0))

/-- A function's pairs return to the unconfigured state (R245). -/
def fencePairs (f : Nat) (s : State) : State :=
  (List.range 256).foldl (fun s p =>
    if s.flag (R.SE_SEM_OWN p) F.SE_SEM_OWN_EN && ownerOf (s.reg (R.SE_SEM_OWN p)) == f && !(f == 16 && planPair s p) then
      s.setSem p {} else s) s

/-- Completions of a function's items already formed keep their status and go to the RR (R470). -/
def fenceFormed (f : Nat) (s : State) : State :=
  setFormed (s.host.formed.map fun c => if c.func = f ∧ c.slot.isNone then { c with reset := true, held := false } else c) s

def setFences (l : List (Nat × Nat × Nat)) (s : State) : State := { s with host := { s.host with fences := l } }

/-- The fence of function f begins (R469). A fence in progress takes the cause of the more extensive reset (R467). -/
def fenceStart (f cause : Nat) (s : State) : State :=
  if fenced s f then setFences (s.host.fences.map fun x => if x.1 = f then (f, cause, x.2.2) else x) s
  else
    let s1 := setFences (s.host.fences ++ [(f, cause, 0)]) s
    let s2 := s1.setReg R.SE_FENCE_STAT (setBit (s1.reg R.SE_FENCE_STAT) f)
    purgeFrames (fencePairs f (fenceChans f (fenceItems f cause (fenceFormed f s2))))

/-! ### The end of a fence (R246, R472) -/

/-- A register's value when its page is cleared but for the PF fields. -/
def keepPf (off : Nat) (w : Word) : Word :=
  match regRow off with
  | none => w
  | some r => r.fields.foldl (fun acc d => if d.pf then d.fld.put acc (d.fld.get w) else acc) (resetVal off)

/-- Clear a VIS page except its PF fields (R347). -/
def clearPage (f : Nat) (s : State) : State :=
  ((s.regs.map (·.1)).filter fun k => visPage f ≤ k && k < visPage f + 0x10000).foldl (fun s k => s.setReg k (keepPf k (s.reg k))) s

/-- A function's rings are disabled. -/
def ringsOff (f : Nat) (s : State) : State :=
  (List.range (if f = 16 then 18 else 17)).foldl (fun s k => ringOff f k s) s

/-- Every report of the fence has been written, and no item is left. -/
def fenceQuiet (s : State) (f : Nat) : Bool :=
  !(s.host.items.any (·.func == f)) && !(s.host.formed.any fun c => c.func == f && c.reset)

/-- The fence of a function completes; VI_RESET_DONE follows that of a VI reset. -/
def fenceComplete (f took : Nat) (s : State) : State :=
  match s.host.fences.find? (·.1 == f) with
  | none => s
  | some (_, cause, n) =>
    if !fenceQuiet s f then s
    else
      let s1 := setFences (s.host.fences.filter (·.1 != f)) s
      let s2 := s1.setReg R.SE_FENCE_STAT (clearBit (s1.reg R.SE_FENCE_STAT) f)
      let s3 := s2.setFld R.SE_FENCE_MAX F.SE_FENCE_MAX_NS (Nat.max (s2.fld R.SE_FENCE_MAX F.SE_FENCE_MAX_NS) took)
      let s4 := s3.setReg R.GLB_VIRST_STAT (clearBit (s3.reg R.GLB_VIRST_STAT) f)
      if cause ≤ 2 then event 0x00C1 f (f + 65536 * Nat.min 65535 n) (clearTlb f (clearPage f (ringsOff f s4))) else s4

def execFenceComplete (f : Fin 17) (took : BitVec 16) (s : State) : Host.Outcome State Fault Refusal :=
  .next (fenceComplete f.val took.toNat s)

/-! ### Virtual-instance reset (R467, R469) -/

def setCause (f : Fld) (s : State) : State := s.setFlag R.GLB_RST_CAUSE f true

def viFence (v cause : Nat) (s : State) : State :=
  if fenced s v then s else fenceStart v cause (s.setReg R.GLB_VIRST_STAT (setBit (s.reg R.GLB_VIRST_STAT) v))

/-- A write of GLB_VIRST: with GO, the VI it names is reset. -/
def writeVirst (a : Agent) (v : Word) (s : State) : State :=
  let s1 := storeReg a R.GLB_VIRST v s
  if reaches a R.GLB_VIRST s && !isVf a && F.GLB_VIRST_GO.get v == 1 then viFence (s1.fld R.GLB_VIRST F.GLB_VIRST_VI) 1 s1 else s1

def execViReset (a : Agent) (v : Word) (s : State) : Host.Outcome State Fault Refusal := .next (writeVirst a v s)

/-- A function-level reset of VF vi + 1. -/
def vfFlr (vi : Nat) (s : State) : State :=
  if s.host.link then viFence vi 2 (setCause F.GLB_RST_CAUSE_VF_FLR s) else s

def execVfFlr (vi : Fin 16) (s : State) : Host.Outcome State Fault Refusal := .next (vfFlr vi.val s)

/-! ### PERST_N and the resets of R464 -/

/-- A register of the host interface chapter that these resets clear: SEALED, the error and disc records, every VIS page, the MSI-X
tables (R347). -/
def hostReg (k : Nat) : Bool :=
  k == R.GLB_ERR || k == R.GLB_DISC || k == R.GLB_POLL_LATE || (0x10000 ≤ k && k < 0x20000) || (0xE0000 ≤ k && k < 0xF0000) || 0x1000000 ≤ k

/-- Entries of the VIS_RR_BKLOG area move to the hold area (R468); what does not fit is lost (R335). -/
def saveBacklog (l : List Cpl) (s : State) : State :=
  l.foldl (fun s c =>
    if s.host.hold.length < s.fld R.GLB_HOLD_SIZE F.GLB_HOLD_SIZE_ENTRIES then
      showHold { s with host := { s.host with hold := s.host.hold ++ [c] } }
    else loseReport s) s

def RItem.unresv (it : RItem) : RItem := { it with resv := 0 }
def Cpl.unresv (c : Cpl) : Cpl := { c with resv := 0 }

/-- The host interface is cleared. -/
def clearHost (s : State) : State :=
  let old := s.host.backlog
  let s1 := { s with regs := Tab.keep (fun k => !hostReg k) s.regs,
                     host := { s.host with rings := [], polls := [], dropped := [], backlog := [],
                                           items := s.host.items.map RItem.unresv,
                                           formed := s.host.formed.map Cpl.unresv } }
  saveBacklog old (s1.setFlag R.GLB_STATUS F.GLB_STATUS_SEALED false)

/-- What a reset cancels of the Belfry's pending operations (Table BEL-5). -/
def cancelTime (s : State) : State :=
  let c := R.BEL_SET_CTL
  { ((s.setFlag c F.BEL_SET_CTL_GO false).setFlag c F.BEL_SET_CTL_OFS_GO false).setFlag c F.BEL_SET_CTL_CANCEL false with
    bel := { s.bel with setPend := none, ofsPend := none } }

/-- A register of the timestamp rings, without their corrections. -/
def tsrReg (k : Nat) : Bool := 0x0200900 ≤ k && k < 0x0200A00 && k % 0x20 != 0x1C

/-- Cores outside GLB_CLO_RT stop (R147). -/
def stopTaskCores (s : State) : State :=
  (List.range 16).foldl (fun s c => if rtCore s c then s else stopCoreUnit c s) s

/-- The effects PERST_N has in every chapter (R463, R464). -/
def perstClass (cause : Nat) (bit : Fld) (s : State) : State :=
  let s1 := setCause bit s
  let s2 := (List.range 17).foldl (fun s f => fenceStart f cause s) s1
  let s3 := stopTaskCores (clearHost s2)
  let s4 := if s3.flag R.BEL_CTL F.BEL_CTL_OWNER then s3 else cancelTime s3
  let s5 := { s4 with regs := Tab.keep (fun k => !tsrReg k) s4.regs, rfi := { s4.rfi with pdrOff := true } }
  (List.range 16).foldl (fun s v => clearTlb v s) s5

def setLinkUp (b : Bool) (s : State) : State := { s with host := { s.host with link := b } }

def alive (s : State) : Bool := !s.chm.held && !s.chm.trip

def execPerstN (s : State) : Host.Outcome State Fault Refusal :=
  .next (if s.chm.held || s.chm.perst then s
    else
      let s1 := { s with chm := { s.chm with perst := true } }
      if s.chm.trip then s1 else setLinkUp false (perstClass 3 F.GLB_RST_CAUSE_PERST (setLinkUp false s1)))

def execPerstNRelease (s : State) : Host.Outcome State Fault Refusal := .next { s with chm := { s.chm with perst := false } }

/-- A PF function-level reset leaves the link up. -/
def execPfFlr (s : State) : Host.Outcome State Fault Refusal :=
  .next (if alive s && s.host.link then perstClass 4 F.GLB_RST_CAUSE_PF_FLR s else s)

/-- Hot reset and loss of link, while the link is up. -/
def linkReset (s : State) : State :=
  if alive s && s.host.link then perstClass 5 F.GLB_RST_CAUSE_LINK_DOWN (setLinkUp false s) else s

def execHotReset (s : State) : Host.Outcome State Fault Refusal := .next (linkReset s)
def execPcieLinkDown (s : State) : Host.Outcome State Fault Refusal := .next (linkReset s)

/-- Training needs PORST_N and PERST_N released (R537). -/
def execPcieLinkUp (s : State) : Host.Outcome State Fault Refusal :=
  .next (if alive s && !s.chm.perst then setLinkUp true s else s)

/-! ### Warm and cold reset -/

/-- Undefined contents of the tiles after a reset (R213): each tile draws its own. -/
def coldTiles : Nat → State → State
  | 0, s => s
  | n + 1, s =>
    let (k, s1) := s.draw
    let t : Tile := { sram := (Config.coldTile k).foldl (fun m e => m.setByte e.1 e.2) [],
                      acc := (Config.coldAcc k).foldl (fun m e => Tab.set (fun _ => 0) m e.1 e.2) [] }
    coldTiles n (s1.setTile n t)

/-- Registers a warm reset keeps: AO state and what only PORST_N resets (R347, R426, R445, R518, R555, Table FLT-4). -/
def warmReg (k : Nat) : Bool :=
  k == R.GLB_TILEMAP || k == R.GLB_CAPS || k == R.GLB_ID || k == R.GLB_RST_CAUSE || k == R.GLB_PMB_CFG || k == R.GLB_ELE_STAT ||
  (0x0100000 ≤ k && k < 0x0200000 && k != R.CHM_OVR) || (0x0200000 ≤ k && k < 0x0300000 && !(0x0200900 ≤ k && k < 0x0200A00)) ||
  k == R.SPK_UID_LO || k == R.SPK_UID_HI

/-- The Belfry after a warm reset (Table BEL-5): generators off, comparators disarmed, expert fields at their reset values (R348). -/
def warmBelfry (s : State) : State :=
  let s1 := cancelTime s
  let s2 := (List.range 4).foldl (fun s g =>
    { (s.setFlag (R.BEL_SG_CTL g) F.BEL_SG_CTL_EN false).setFld (R.BEL_SG_STAT g) F.BEL_SG_STAT_STATE 0 with
      bel := { s.bel with gens := [] } }) s1
  let s3 := (List.range 16).foldl (fun s c =>
    { (s.setFlag (R.BEL_CMP_CTL c) F.BEL_CMP_CTL_ARM false).setFld (R.BEL_CMP_CTL c) F.BEL_CMP_CTL_MODE 2 with
      bel := { s.bel with cmps := Tab.set (fun _ => {}) s.bel.cmps c { s.cmp c with queue := [], slotHit := false } } }) s2
  let s4 := ((s3.setFlag R.BEL_CTL F.BEL_CTL_OWNER false).setFlag R.BEL_SET_CTL F.BEL_SET_CTL_AT_DNC false).setFld R.BEL_RCLK_CTL
    F.BEL_RCLK_CTL_FREQ 0
  { s4 with regs := Tab.keep (fun k => !(k == R.BEL_SET_DNC_LO || k == R.BEL_SET_DNC_HI || k == R.BEL_OFS_LO || k == R.BEL_OFS_HI)) s4.regs }

/-- A mailbox command or session in progress ends with BAD_CMD (R518). -/
def dropSession (s : State) : State :=
  let busy := s.chm.cmd.isSome || s.chm.session != 0
  let s1 := { s with chm := { s.chm with cmd := none, session := 0, totals := [], pldm := 0, comp := 0, ovr := 0 } }
  let s2 := (s1.setFlag R.CHM_STAT F.CHM_STAT_BUSY false).setFlag R.CHM_STAT F.CHM_STAT_SESSION false
  if busy then s2.setFld R.CHM_STAT F.CHM_STAT_RESULT 2 else s2

/-- The state a warm reset keeps: AO state, time, HBM with its poison marks; the upper half stays in self-refresh under Site. -/
def warmKeep (s : State) : State :=
  let strap := s.flag R.CRY_TWIN_STAT F.CRY_TWIN_STAT_STRAP
  let k : State :=
    { regs := Tab.keep warmReg s.regs, bel := s.bel,
      mem := { poison := s.mem.poison, corrected := s.mem.corrected, upperDenied := s.mem.upperDenied }, rfi := { devclk := s.rfi.devclk },
      units := s.units, spk := { off := s.spk.off }, host := { link := s.host.link }, hbm := s.hbm, hostMem := s.hostMem, out := s.out,
      free := s.free, pending := s.pending, chm := s.chm }
  let k1 := k.setFlag R.CRY_TWIN_STAT F.CRY_TWIN_STAT_STRAP strap
  if s.fld R.MEM_STAT F.MEM_STAT_SELFREF = 0 then k1 else k1.setFld R.MEM_STAT F.MEM_STAT_SELFREF (s.fld R.MEM_STAT F.MEM_STAT_SELFREF)

/-- SYSRST_N: the start is decided again. -/
def warmReset (s : State) : State :=
  setCause F.GLB_RST_CAUSE_SYSRST (dropSession (warmBelfry (coldTiles 32 (warmKeep s))))

def execSysrstN (s : State) : Host.Outcome State Fault Refusal := .next (if alive s then warmReset s else s)

/-- The cold reset (R457, R463, R532): everything goes but what is not the device's own: flash, fuses, host memory, what it has sent. -/
def coldReset (held : Bool) (s : State) : State :=
  let isl (x : IslandSt) (p : Nat) : IslandSt := { clk := p, volt := p, shown := p, nonlin := x.nonlin }
  let chm : ChmSt := { held := held, perst := s.chm.perst, flash := s.chm.flash, keys := s.chm.keys, nv := isl s.chm.nv 3,
                       cl := isl s.chm.cl 2 }
  let s0 : State := { hostMem := s.hostMem, out := s.out, free := s.free, pending := s.pending, rfi := { devclk := s.rfi.devclk },
                      chm := chm }
  let fused (k : Nat) : Bool := k == R.GLB_TILEMAP || k == R.GLB_CAPS || k == R.SPK_UID_LO || k == R.SPK_UID_HI
  let s1 := { s0 with regs := Tab.keep fused s.regs }
  let s2 := s1.setFld R.CHM_BOOT_STAT F.CHM_BOOT_STAT_REVOKED (s.fld R.CHM_BOOT_STAT F.CHM_BOOT_STAT_REVOKED)
  let (k, s3) := s2.draw
  coldTiles 32 { s3 with hbm := (Config.coldHbm k).foldl (fun m e => m.setByte e.1 e.2) [] }

def execPorstNAssert (s : State) : Host.Outcome State Fault Refusal := .next (coldReset true s)

/-- A power-good input falls: as PORST_N, and PORST is set in GLB_RST_CAUSE, as its reset value has it. -/
def execPgFall (_pg : Fin 4) (s : State) : Host.Outcome State Fault Refusal :=
  .next (setCause F.GLB_RST_CAUSE_PORST (coldReset true s))

/-! ### Thermal trip (R517) -/

/-- The clocks of every island but AO stop. What those islands held is lost to PORST_N, which alone ends the trip. -/
def thermtrip (s : State) : State :=
  if alive s then
    let k := warmKeep s
    { k with regs := Tab.keep (fun r => warmReg r || r < 0x10000 || r == R.CHM_OVR || (0x0200900 ≤ r && r < 0x0200A00) ||
                                        (0x0E00000 ≤ r && r < 0x0F00000)) s.regs,
             chm := { s.chm with trip := true }, host := {} }
  else s

def execThermtripN (_sensor : Fin 24) (s : State) : Host.Outcome State Fault Refusal := .next (thermtrip s)

end Sys2Proof.Machine
end

