-- ==== Sys2Proof/Machine/Faults.lean ====
section
/-! DEFINITION. Units under management (R473, R476-R479, R508): their data state, the sweep of a reconciliation, clearing a fault, zeroing
after a VI reset. -/

namespace Sys2Proof.Machine

def dIdle : Nat := 0
def dBusy : Nat := 1
def dFaulted : Nat := 2
def dDown : Nat := 3

/-- Unit kinds with management states, and how many of each (R476). -/
def unitKinds : List (Nat × Nat) := [(kTile, 32), (kCore, 16), (kSpoke, 17), (kFh, 8), (kEngine, 24), (kStack, 8)]

/-- Is this a unit? A tile that is fused off is not. -/
def unitThere (s : State) (k i : Nat) : Bool :=
  unitKinds.any (fun p => p.1 == k && i < p.2) && !(k == kTile && !tileFused s i) && !(k == kFh && !fhThere s i)

/-- The data path's view of a unit (R476). During its clear a unit reads BUSY (R473). -/
def unitData (s : State) (k i : Nat) : Nat :=
  if (s.unit k i).down then dDown
  else if k = kTile then
    if tileState s i = nvFaulted then dFaulted else if tileIdle s i then dIdle else dBusy
  else if k = kCore then
    if coreState s i = cFaulted then dFaulted else if coreIdle s i then dIdle else dBusy
  else if k = kSpoke then
    let x := s.port i
    if linkState s i = lFailed then dFaulted
    else if x.queue.isEmpty && x.unacked.isEmpty && x.cur1.isNone && x.cur23.isNone then dIdle else dBusy
  else if k = kFh then
    if (s.fp i).tx.isNone && (List.range 8).all (fun q => (s.fq i q).frames.isEmpty) then dIdle else dBusy
  else if k = kEngine then
    if (List.range 8).all (fun c => (s.chan (8 * i + c)).phase == .idle) then dIdle else dBusy
  else dIdle

/-- The state a profile gives a unit (R507): tiles it does not power, and every spoke port under Site, are OFF. -/
def profileState (s : State) (k i : Nat) : Nat :=
  if k = kTile ∧ !bitOf (s.reg R.CHM_TILE_PWR).toNat i then 2
  else if k = kSpoke ∧ s.spk.off then 2
  else 0

/-- The more restrictive of management's state and the profile's (R508). -/
def effective (s : State) (k i : Nat) : Nat := Nat.max (s.unit k i).mgmt (profileState s k i)

/-- Does a unit's pair of views skew (Table FLT-5)? -/
def skews (m d : Nat) : Bool := if m = 0 then d == dFaulted || d == dDown else d == dBusy

/-- A unit is disabled or powered off: a port's link is lost. -/
def unitOff (k i : Nat) (s : State) : State :=
  if k = kSpoke then portDown i s else if k = kFh then fhLinkLost i s else s

/-- One unit's reconciliation, with the data state sampled at its start (R477, R479). -/
def reconcileUnit (k i d : Nat) (s : State) : State :=
  let u := s.unit k i
  let m := effective s k i
  let skew := skews m d
  let eff := if m != 0 && d == dBusy then u.eff else m
  let s1 := s.setUnit k i { u with eff := eff, draining := m != 0 && d == dBusy, skew := skew }
  let s2 := if u.eff = 0 ∧ eff ≠ 0 then unitOff k i s1 else s1
  if skew && !u.skew then
    event 0x00C0 16 (k + 256 * i + 65536 * m + 2 ^ 20 * d) (s2.addSat R.GLB_SKEW_CNT F.GLB_SKEW_CNT_CNT 1)
  else s2

/-- Every unit, by kind and index. -/
def allUnits : List (Nat × Nat) := unitKinds.flatMap fun p => (List.range p.2).map fun i => (p.1, i)

/-- The sweep of a reconciliation: every data state is sampled first. -/
def sweep (s : State) : State :=
  ((allUnits.filter fun u => unitThere s u.1 u.2).map fun u => (u.1, u.2, unitData s u.1 u.2)).foldl
    (fun s u => reconcileUnit u.1 u.2.1 u.2.2 s) s

/-- Every unit has reached its effective state. -/
def unitsSettled (s : State) : Bool :=
  allUnits.all fun u => !unitThere s u.1 u.2 || (s.unit u.1 u.2).eff == effective s u.1 u.2

/-- Effective states without waiting for a reconciliation, at the start (R509). -/
def applyUnits (s : State) : State :=
  allUnits.foldl (fun s u => s.setUnit u.1 u.2 { s.unit u.1 u.2 with eff := effective s u.1 u.2 }) s

/-! ### Clearing a fault (R478) -/

/-- An explicit clear; a unit that is not FAULTED is left as it is. -/
def unitClear (k i : Nat) (s : State) : State :=
  let s1 := if (s.unit k i).down then s.setUnit k i { s.unit k i with down := false } else s
  if k = kTile then navClear i s1
  else if k = kCore then coreClear i s1
  else if k = kSpoke ∧ linkState s1 i = lFailed then leavePort i lDown 1 s1
  else s1

def unitSel (s : State) : Nat × Nat := (s.fld R.GLB_UNIT_SEL F.GLB_UNIT_SEL_KIND, s.fld R.GLB_UNIT_SEL F.GLB_UNIT_SEL_INDEX)

def writeUnitClr (a : Agent) (v : Word) (s : State) : State :=
  let s1 := storeReg a R.GLB_UNIT_CLR v s
  if reaches a R.GLB_UNIT_CLR s && F.GLB_UNIT_CLR_GO.get v == 1 && unitThere s (unitSel s).1 (unitSel s).2 then
    unitClear (unitSel s).1 (unitSel s).2 s1
  else s1

def execGlbUnitClr (a : Agent) (v : Word) (s : State) : Host.Outcome State Fault Refusal := .next (writeUnitClr a v s)

/-! ### Zeroing (R473) -/

/-- The clear runs after the fence; a tile that slot work holds is cleared after its lending. -/
def zeroingDone (k i : Nat) (s : State) : State :=
  if !s.host.fences.isEmpty then s
  else if k = kTile then
    if (s.tile i).zeroing && tileState s i != nvLent && (s.tile i).slot.isNone then
      s.setTile i { s.tile i with sram := [], acc := [], zeroing := false }
    else s
  else if k = kCore then
    if (s.core i).zeroing then s.setCore i { s.core i with dmem := [], bad := [], zeroing := false } else s
  else s

def execUnitZeroingDone (u : UnitRef) (s : State) : Host.Outcome State Fault Refusal := .next (zeroingDone u.kind.val u.index.val s)

end Sys2Proof.Machine
end

