-- ==== Sys2Proof/Machine/Power.lean ====
section
/-! DEFINITION. Profiles, operating points, throttling and reconciliation (R477, R507-R517, R543, R544), and the override (R492). -/

namespace Sys2Proof.Machine

def curProfile (s : State) : Nat := s.fld R.CHM_PROF_STAT F.CHM_PROF_STAT_CUR

/-! ### Caps and effective points (R507, R512, R513) -/

/-- The profile whose limit and caps bind: a lowering change binds at its boundary, a raising one once the units are applied (R511). -/
def boundProfile (s : State) : Nat :=
  match s.chm.change with
  | none => curProfile s
  | some p => if curProfile s < p || s.chm.swept then p else curProfile s

/-- Package limit in mW (Table MGT-4). -/
def limitMw (p : Nat) : Nat := if p = 0 then 400000 else if p = 1 then 220000 else 75000

def nvCap (p : Nat) : Nat := Nat.min p 2
def clCap (_p : Nat) : Nat := 0

def State.isl (s : State) (cl : Bool) : IslandSt := if cl then s.chm.cl else s.chm.nv
def State.setIsl (s : State) (cl : Bool) (x : IslandSt) : State :=
  { s with chm := if cl then { s.chm with cl := x } else { s.chm with nv := x } }

/-- The slowest point of an island. -/
def slowest (cl : Bool) : Nat := if cl then 2 else 3

/-- The slower of the profile cap and the expert request. -/
def basePoint (s : State) (cl : Bool) : Nat :=
  if cl then Nat.max (clCap (boundProfile s)) s.chm.clReq else Nat.max (nvCap (boundProfile s)) s.chm.nvReq

def thrPoint (s : State) (cl : Bool) : Nat := if s.chm.thr.phase = 0 then 0 else if cl then s.chm.thr.cl else s.chm.thr.nv

/-- The effective point (R513); an island whose regulator is not linear stays at its slowest (R543). -/
def targetPoint (s : State) (cl : Bool) : Nat :=
  if (s.isl cl).nonlin then slowest cl else Nat.max (basePoint s cl) (thrPoint s cl)

/-! ### Steps (R514, R543, R544) -/

/-- Rail voltage in mV and clock in MHz of a point (Table MGT-5). -/
def pointMv (cl : Bool) (p : Nat) : Nat := if cl then [850, 770, 700].getD p 700 else [800, 740, 690, 650].getD p 650
def pointMhz (cl : Bool) (p : Nat) : Nat := if cl then [1200, 800, 400].getD p 400 else [1500, 1200, 900, 600].getD p 600

def pmbAddr (s : State) (cl : Bool) : Nat :=
  if cl then s.fld R.GLB_PMB_CFG F.GLB_PMB_CFG_CLO_ADDR else s.fld R.GLB_PMB_CFG F.GLB_PMB_CFG_NAVE_ADDR

/-- A step has ended: GLB_ISL_STAT shows the clock, unless a profile change is in progress (R35). -/
def showIsl (cl : Bool) (s : State) : State :=
  if s.chm.change.isSome then s else s.setIsl cl { s.isl cl with shown := (s.isl cl).clk }

/-- A VOUT_COMMAND for a point has been sent: acknowledged, it sets the rail, and a raise waits for the slew time; unacknowledged three
times, the step fails. -/
def voutResult (cl : Bool) (p tries : Nat) (ack : Bool) (s : State) : State :=
  let x := s.isl cl
  let s1 := s.emit (.pmbus (pmbAddr s cl) (pointMv cl p))
  if ack then
    if p < x.clk then s1.setIsl cl { x with volt := p, write := none, slew := some p }
    else showIsl cl (s1.setIsl cl { x with volt := p, write := none })
  else if tries < 2 then s1.setIsl cl { x with write := some (p, tries + 1) }
  else
    showIsl cl ((s1.setIsl cl { x with write := none, failed := true }).setFld R.GLB_ELE_STAT F.GLB_ELE_STAT_REG cl.toNat
      |>.setFlag R.GLB_ELE_STAT F.GLB_ELE_STAT_PMB_ERR true)

/-- One step towards the effective point, once the CHF runs: slower, the clock first; faster, the voltage first. -/
def dvfsStep (cl ack : Bool) (s : State) : State :=
  let x := s.isl cl
  if x.write.isSome || x.slew.isSome || s.chm.chf.isNone || !alive s then s
  else if x.clk < targetPoint s cl then
    voutResult cl (x.clk + 1) 0 ack (s.setIsl cl { x with clk := x.clk + 1, failed := false })
  else if targetPoint s cl < x.clk then voutResult cl (x.clk - 1) 0 ack (s.setIsl cl { x with failed := false })
  else s

def execDvfsStep (cl ack : Bool) (s : State) : Host.Outcome State Fault Refusal := .next (dvfsStep cl ack s)

/-- The slew time of a raise has passed: the clock is raised. -/
def slewWaitEnd (cl : Bool) (s : State) : State :=
  let x := s.isl cl
  match x.slew with
  | none => s
  | some p => showIsl cl (s.setIsl cl { x with clk := p, slew := none })

def execSlewWaitEnd (cl : Bool) (s : State) : Host.Outcome State Fault Refusal := .next (slewWaitEnd cl s)

def pmbusRetry (cl ack : Bool) (s : State) : State :=
  match (s.isl cl).write with
  | none => s
  | some (p, n) => voutResult cl p n ack s

def execPmbusRetry (cl ack : Bool) (s : State) : Host.Outcome State Fault Refusal := .next (pmbusRetry cl ack s)

/-- CHM_DVFS: the request is taken at the next reconciliation (R514). -/
def execDvfsRequest (a : Agent) (v : Word) (s : State) : Host.Outcome State Fault Refusal := .next (storeReg a R.CHM_DVFS v s)

/-! ### Throttling (R515, R516) -/

def sensors (s : State) : List Int := (List.range 24).map fun i => signed 12 (s.reg (R.CHM_TEMP i)).toNat
def stackTemps (s : State) : List Nat := (List.range 8).map fun i => s.fld (R.MEM_HBM_TEMP i) F.MEM_HBM_TEMP_TEMP

/-- Some sensor reads its threshold less a margin in °C, or more. -/
def hotBy (s : State) (margin : Nat) : Bool :=
  (sensors s).any (fun t => decide (4 * ((s.fld R.CHM_THR F.CHM_THR_HOT : Int) - margin) ≤ t)) ||
  (stackTemps s).any (fun t => decide ((s.fld R.CHM_THR F.CHM_THR_HBM_HOT : Int) - margin ≤ (t : Int)))

/-- Every sensor reads at least 3 °C below its threshold, and the estimate is at or below 95 % of the limit. -/
def coolNow (s : State) : Bool :=
  (sensors s).all (fun t => decide (t ≤ 4 * ((s.fld R.CHM_THR F.CHM_THR_HOT : Int) - 3))) &&
  (stackTemps s).all (fun t => t + 3 ≤ s.fld R.CHM_THR F.CHM_THR_HBM_HOT) &&
  decide (100 * (s.reg (R.CHM_PWR 0)).toNat ≤ 95 * limitMw (boundProfile s))

def setThr (t : ThrSt) (s : State) : State := { s with chm := { s.chm with thr := t } }

def causeCode (t : ThrSt) : Nat := t.thermal.toNat + 2 * t.power.toNat

def throttleEvent (active : Bool) (s : State) : State :=
  event 0x00D2 16 (active.toNat + 2 * causeCode s.chm.thr + 16 * targetPoint s false + 256 * targetPoint s true +
    65536 * s.fld R.CHM_TMAX F.CHM_TMAX_SENSOR) s

/-- CHM_THR_STAT. -/
def showThr (s : State) : State :=
  (s.setFlag R.CHM_THR_STAT F.CHM_THR_STAT_ACTIVE (s.chm.thr.phase != 0)).setFld R.CHM_THR_STAT F.CHM_THR_STAT_CAUSE (causeCode s.chm.thr)

/-- Evaluate the causes. A throttle that becomes active starts from the points in force. -/
def evalThr (s : State) : State :=
  let th := hotBy s 0
  let pw := decide (limitMw (boundProfile s) < (s.reg (R.CHM_PWR 0)).toNat)
  let t : ThrSt := { s.chm.thr with thermal := th, power := pw }
  if th || pw then
    if t.phase = 0 then
      let s1 := (setThr { t with phase := 1, nv := targetPoint s false, cl := targetPoint s true, cool := none } s).addWrap
        R.CHM_THR_CNT F.CHM_THR_CNT_CNT 1
      throttleEvent true (showThr s1)
    else showThr (setThr { t with phase := 1, cool := none } s)
  else
    showThr (setThr { t with cool := if t.phase = 1 ∧ coolNow s then some (t.cool.getD s.bel.dnc) else none } s)

/-- One step slower: NV down to point 3, then CL down to point 2. -/
def throttleStep (s : State) : State :=
  let t := s.chm.thr
  if t.phase = 1 ∧ (t.thermal || t.power) then
    if t.nv < 3 then setThr { t with nv := t.nv + 1 } s
    else if t.cl < 2 then setThr { t with cl := t.cl + 1 } s
    else s
  else s

def execThrottleStep (s : State) : Host.Outcome State Fault Refusal := .next (throttleStep s)

/-- The release condition has held for 10 ms without a break, or the release goes on. -/
def releaseDue (s : State) : Bool :=
  s.chm.thr.phase == 2 ||
  (s.chm.thr.phase == 1 && (match s.chm.thr.cool with
    | some d => decide (d + 10000000 ≤ s.bel.dnc)
    | none => false))

/-- The throttle points limit no island. -/
def thrFree (s : State) (t : ThrSt) : Bool := t.nv ≤ basePoint s false && t.cl ≤ basePoint s true

/-- One step faster, CL first and then NV, until the throttle point no longer limits. -/
def throttleReleaseStep (s : State) : State :=
  if releaseDue s then
    let t : ThrSt := { s.chm.thr with phase := 2 }
    let t1 := if basePoint s true < t.cl then { t with cl := t.cl - 1 } else if basePoint s false < t.nv then { t with nv := t.nv - 1 } else t
    if thrFree s t1 then throttleEvent false (showThr (setThr { t1 with phase := 0, nv := 0, cl := 0, cool := none } s))
    else setThr t1 s
  else s

def execThrottleReleaseStep (s : State) : Host.Outcome State Fault Refusal := .next (throttleReleaseStep s)

/-- The hottest of a list of readings and its index, the lowest index of equals. -/
def hottest : List Int → Nat → Int × Nat → Int × Nat
  | [], _, best => best
  | t :: ts, i, best => hottest ts (i + 1) (if best.1 < t then (t, i) else best)

/-- The junction sensors are sampled (R505). -/
def sensorSample (temps : List (BitVec 12)) (s : State) : State :=
  if s.chm.held then s
  else
    let s1 := (List.range 24).foldl (fun s i => s.setReg (R.CHM_TEMP i) (BitVec.ofNat 32 ((temps[i]?.map (·.toNat)).getD
      (s.reg (R.CHM_TEMP i)).toNat))) s
    let m := hottest ((sensors s1).drop 1) 1 ((sensors s1).headD 0, 0)
    let s2 := (s1.setFld R.CHM_TMAX F.CHM_TMAX_VALUE (unsigned 12 m.1)).setFld R.CHM_TMAX F.CHM_TMAX_SENSOR m.2
    evalThr s2

def execSensorSample (temps : List (BitVec 12)) (s : State) : Host.Outcome State Fault Refusal := .next (sensorSample temps s)

/-- The power estimates of the last millisecond (R506): 1 mW for 1 ms is 1 µJ. -/
def powerEstimate (mw : List Word) (s : State) : State :=
  if s.chm.held then s
  else
    let s1 := (List.range 7).foldl (fun s r => s.setReg (R.CHM_PWR r) (mw.getD r 0)) s
    let e := s1.chm.energy + (mw.getD 0 0).toNat
    let s2 := s1.setPair R.CHM_ENERGY_LO R.CHM_ENERGY_HI (s1.pair R.CHM_ENERGY_LO R.CHM_ENERGY_HI + e / 1000)
    evalThr { s2 with chm := { s2.chm with energy := e % 1000 } }

def execPowerEstimate (mw : List Word) (s : State) : Host.Outcome State Fault Refusal := .next (powerEstimate mw s)

/-! ### Profiles (R509-R511) -/

/-- The tiles a profile powers: under Site the 8 lowest-numbered enabled ones. -/
def profileTiles (s : State) (p : Nat) : Word :=
  let ts := (List.range 32).filter (tileFused s)
  if p = 2 then BitVec.ofNat 32 ((ts.take 8).foldl (fun m t => m + 2 ^ t) 0) else s.reg R.GLB_TILEMAP

/-- CHM_PROF_REQ.GO: behind a change in progress the request is held; a request for the current profile leaves none waiting. -/
def requestProfile (p sg : Nat) (s : State) : State :=
  if s.chm.change.isSome then
    { s.setFlag R.CHM_PROF_STAT F.CHM_PROF_STAT_HELD true with chm := { s.chm with later := some (p, sg) } }
  else { s with chm := { s.chm with request := if p = curProfile s then none else some (p, sg) } }

def writeProfReq (a : Agent) (v : Word) (s : State) : State :=
  let s1 := storeReg a R.CHM_PROF_REQ v s
  if reaches a R.CHM_PROF_REQ s && F.CHM_PROF_REQ_GO.get v == 1 then
    requestProfile (s1.fld R.CHM_PROF_REQ F.CHM_PROF_REQ_PROFILE) (s1.fld R.CHM_PROF_REQ F.CHM_PROF_REQ_SG) s1
  else s1

def execProfileRequest (a : Agent) (v : Word) (s : State) : Host.Outcome State Fault Refusal := .next (writeProfReq a v s)

/-- The islands and stacks a change switches at its boundary (R511). -/
def switchIslands (p : Nat) (s : State) : State :=
  if p = 2 then
    let s1 := spokePowerOff s
    { s1 with mem := { s1.mem with upperDenied := true } }
  else spokePowerOn { s with mem := { s.mem with upperDenied := false } }

/-- A change begins. -/
def beginProfile (p : Nat) (s : State) : State :=
  let s1 := { s with chm := { s.chm with change := some p, swept := false, request := none } }
  let s2 := (s1.setFld R.CHM_PROF_STAT F.CHM_PROF_STAT_TARGET p).setFlag R.CHM_PROF_STAT F.CHM_PROF_STAT_PENDING true
  switchIslands p (s2.setReg R.CHM_TILE_PWR (profileTiles s2 p))

/-- The strobe of generator g begins the change that waits for it. -/
def profileStrobe (g : Nat) (s : State) : State :=
  match s.chm.change, s.chm.request with
  | none, some (p, sg) => if sg = g then beginProfile p s else s
  | _, _ => s

/-- An island is where the change wants it, or its last step failed. -/
def islandSettled (s : State) (cl : Bool) : Bool :=
  let x := s.isl cl
  x.write.isNone && x.slew.isNone && (x.clk == targetPoint s cl || x.failed)

/-- Everything the change moves has arrived. -/
def changeSettled (s : State) (p : Nat) : Bool :=
  s.chm.swept && unitsSettled s && islandSettled s false && islandSettled s true &&
  (s.fld R.MEM_STAT F.MEM_STAT_SELFREF != 0) == (p == 2)

/-- The change completes; a held request waits for its boundary. -/
def profileChangeComplete (s : State) : State :=
  match s.chm.change with
  | none => s
  | some p =>
    if !changeSettled s p then s
    else
      let prev := curProfile s
      let s1 := { s with chm := { s.chm with change := none, swept := false, txLow := p == 2, later := none,
                                             request := match s.chm.later with
                                               | some (q, g) => if q = p then none else some (q, g)
                                               | none => none } }
      let st := R.CHM_PROF_STAT
      let s2 := ((s1.setFld st F.CHM_PROF_STAT_CUR p).setFlag st F.CHM_PROF_STAT_PENDING false).setFlag st F.CHM_PROF_STAT_HELD false
      event 0x00D1 16 (p + 16 * prev) (showIsl true (showIsl false s2))

def execProfileChangeComplete (s : State) : Host.Outcome State Fault Refusal := .next (profileChangeComplete s)

/-- A profile in force at once (R509): the strapped one at the release of PORST_N. -/
def initProfile (p : Nat) (s : State) : State :=
  let s1 := (s.setFld R.CHM_PROF_STAT F.CHM_PROF_STAT_CUR p).setFld R.CHM_PROF_STAT F.CHM_PROF_STAT_TARGET p
  let s2 := s1.setReg R.CHM_TILE_PWR (profileTiles s1 p)
  let site := p == 2
  let s3 := s2.setFld R.MEM_STAT F.MEM_STAT_SELFREF (if site then 0xF else 0)
  applyUnits { s3 with mem := { s3.mem with upperDenied := site }, spk := { s3.spk with off := site },
                       chm := { s3.chm with txLow := site } }

/-! ### Reconciliation (R477) -/

/-- Every 1 ms: expert requests for points are taken, a change whose generator is disabled begins, unit states are reconciled. -/
def reconciliation (s : State) : State :=
  if !alive s then s
  else
    let s1 := { s with chm := { s.chm with nvReq := s.fld R.CHM_DVFS F.CHM_DVFS_NV_REQ, clReq := s.fld R.CHM_DVFS F.CHM_DVFS_CL_REQ } }
    let s2 := match s1.chm.change, s1.chm.request with
      | none, some (p, sg) => if s1.fld (R.BEL_SG_STAT sg) F.BEL_SG_STAT_STATE = 0 then beginProfile p s1 else s1
      | _, _ => s1
    let s3 := sweep s2
    { s3 with chm := { s3.chm with swept := s3.chm.change.isSome } }

def execReconciliation (s : State) : Host.Outcome State Fault Refusal := .next (reconciliation s)

/-! ### The override (R492) -/

def overrideEvent (en : Bool) (s : State) : State := event 0x00D0 16 (Config.overrideInfo en).toNat s

/-- Set or clear the override; each change raises MGT_OVERRIDE. -/
def setOverride (en : Bool) (s : State) : State :=
  if s.flag R.GLB_STATUS F.GLB_STATUS_OVERRIDE = en then s else overrideEvent en (s.setFlag R.GLB_STATUS F.GLB_STATUS_OVERRIDE en)

/-- A write of CHM_OVR. EN = 1 while the start is not UNTESTED is discarded. -/
def writeOvr (a : Agent) (v : Word) (s : State) : State :=
  let en := F.CHM_OVR_EN.get v == 1
  if reaches a R.CHM_OVR s && expertOn s 11 then
    if en && startOf s != 1 then s.setFlag R.CHM_ERR F.CHM_ERR_OVR_STATE true
    else setOverride en (storeReg a R.CHM_OVR v s)
  else storeReg a R.CHM_OVR v s

def execChmOvrWrite (a : Agent) (v : Word) (s : State) : Host.Outcome State Fault Refusal := .next (writeOvr a v s)

/-- The override in force at a strobe of generator g (R492, R521). -/
def overrideStrobe (g : Nat) (s : State) : State :=
  let old := s.chm.ovr - Nat.land s.chm.ovr (2 ^ g)
  { s with chm := { s.chm with ovr := if s.flag R.GLB_STATUS F.GLB_STATUS_OVERRIDE then old + 2 ^ g else old } }

end Sys2Proof.Machine
end

