-- ==== Sys2Proof/Machine/Boot.lean ====
section
/-! DEFINITION. Boot, the start decision and the mailbox (R481-R498, R508, R536): images in flash or loaded by the host, Table MGT-2, the
commands of Table MGT-3. -/

namespace Sys2Proof.Machine

/-! ### Flash and banks (R482) -/

/-- An erased byte. -/
def erased (_ : Nat) : Byte := 0xFF

def flashByte (s : State) (a : Nat) : Byte := Tab.get erased s.chm.flash a

/-- Where bank b starts in the flash. -/
def bankBase (b : Nat) : Nat := 0x100000 + b * 0x800000

/-- `n` bytes of a bank; bank 2 holds what the host has loaded. -/
def readBank (s : State) (b off n : Nat) : List Byte :=
  if b = 2 then (List.range n).map fun i => Tab.get erased s.chm.loaded (off + i)
  else (List.range n).map fun i => flashByte s (bankBase b + off + i)

def setFlash (t : Tab Byte) (s : State) : State := { s with chm := { s.chm with flash := t } }
def setLoaded (t : Tab Byte) (s : State) : State := { s with chm := { s.chm with loaded := t } }

/-- Store bytes in a bank. -/
def writeBytes : Nat → List Byte → Tab Byte → Tab Byte
  | _, [], t => t
  | a, b :: bs, t => writeBytes (a + 1) bs (Tab.set erased t a b)

def writeBankBytes (b off : Nat) (bs : List Byte) (s : State) : State :=
  if b = 2 then setLoaded (writeBytes off bs s.chm.loaded) s else setFlash (writeBytes (bankBase b + off) bs s.chm.flash) s

/-- Erase an image's region of a bank. -/
def eraseRegion (b kind : Nat) (s : State) : State :=
  let r := regionOf kind
  if b = 2 then setLoaded (Tab.keep (fun a => !(r.1 ≤ a && a < r.1 + r.2)) s.chm.loaded) s
  else
    let lo := bankBase b + r.1
    setFlash (Tab.keep (fun a => !(lo ≤ a && a < lo + r.2)) s.chm.flash) s

/-- Copy the four images of one flash bank into the other (R495). -/
def copyBank (src dst : Nat) (s : State) : State :=
  let s1 := [1, 2, 3, 4].foldl (fun s k => eraseRegion dst k s) s
  let here := s1.chm.flash.filter fun e => [1, 2, 3, 4].any fun k =>
    bankBase src + (regionOf k).1 ≤ e.1 && e.1 < bankBase src + (regionOf k).1 + (regionOf k).2
  setFlash (here.foldl (fun t e => Tab.set erased t (e.1 - bankBase src + bankBase dst) e.2) s1.chm.flash) s1

/-- The directory names a bank: MAGIC "TRKD" and ACTIVE 0 or 1. -/
def bootBank (s : State) : Option Nat :=
  let a := (flashByte s 4).toNat
  if (List.range 4).map (flashByte s) = [0x54, 0x52, 0x4B, 0x44] ∧ a < 2 then some a else none

def bootSrc (s : State) : Nat := s.fld R.CHM_BOOT_STAT F.CHM_BOOT_STAT_BOOT_SRC

/-- A valid image of a bank: its header and payload (R485). -/
def imageAt (s : State) (b kind : Nat) : Option (List Byte × List Byte) :=
  let base := (regionOf kind).1
  let h := readBank s b base 512
  if !imageHeaderOk h kind then none
  else
    let p := readBank s b (base + 512) (imLength h)
    if imageValid s.chm.keys (s.fld R.CHM_BOOT_STAT F.CHM_BOOT_STAT_REVOKED) h p kind then some (h, p) else none

/-- The CHF of a bank, as it would run. -/
def chfAt (s : State) (b : Nat) : Option ChfRun :=
  (imageAt s b 1).map fun x => { bank := b, version := imVersion x.1, ilevel := imIlevel x.1 }

/-- The CHF the boot finds, and whether the other bank was tried (R481, R483). -/
def findChf (s : State) : Option ChfRun × Bool :=
  let flash : Option ChfRun × Bool := match bootBank s with
    | none => (none, false)
    | some a => match chfAt s a with
      | some c => (some c, false)
      | none => (chfAt s (1 - a), true)
  match bootSrc s with
  | 0 => flash
  | 1 => (chfAt s 2, false)
  | 2 => match flash with
    | (some c, b) => (some c, b)
    | (none, b) => (chfAt s 2, b)
  | _ => (none, false)

/-! ### The start (R489, Table MGT-2) -/

/-- What Table MGT-2 decides for a set of images: START, REASON, the CRF and the SLF with their versions and levels. -/
structure StartOutcome where
  start  : Nat
  reason : Nat
  crf    : Nat × Nat := (0, 0)
  slf    : Nat × Nat := (0, 0)
  deriving DecidableEq, Repr

/-- The rows below the CHF's, for the images of a bank. -/
def decideBank (s : State) (c : ChfRun) : StartOutcome :=
  let im (k : Nat) : Option (Nat × Nat) := (imageAt s c.bank k).map fun x => (imVersion x.1, imIlevel x.1)
  let crf := (im 2).getD (0, 0)
  let slf := (im 3).getD (0, 0)
  if s.flag R.CHM_CTL F.CHM_CTL_FORCE_RECOVERY then { start := 2, reason := 7 }
  else if (im 2).isNone || (im 3).isNone then { start := 2, reason := 2, crf := crf, slf := slf }
  else if c.ilevel != crf.2 || c.ilevel != slf.2 then { start := 2, reason := 3, crf := crf, slf := slf }
  else
    match imageAt s c.bank 4 with
    | none => { start := 1, reason := 5, crf := crf, slf := slf }
    | some (_, p) =>
      if !manifestOk p then { start := 1, reason := 5, crf := crf, slf := slf }
      else if listedIn p c.version crf.1 slf.1 (s.fld R.GLB_ID F.GLB_ID_STEP) then { start := 0, reason := 0, crf := crf, slf := slf }
      else { start := 1, reason := 4, crf := crf, slf := slf }

/-- Show the outcome of a start. -/
def showStart (c : Option ChfRun) (o : StartOutcome) (s : State) : State :=
  let v := (c.map (·.version)).getD 0
  let l := (c.map (·.ilevel)).getD 0
  let s1 := ((s.setReg R.CHM_FW_CHF (BitVec.ofNat 32 v)).setReg R.CHM_FW_CRF (BitVec.ofNat 32 o.crf.1)).setReg R.CHM_FW_SLF
    (BitVec.ofNat 32 o.slf.1)
  let s2 := (s1.setReg R.CHM_ILEVEL0 (BitVec.ofNat 32 (l + 65536 * o.crf.2))).setReg R.CHM_ILEVEL1 (BitVec.ofNat 32 o.slf.2)
  let s3 := match c with
    | some x => if x.bank < 2 then s2.setFld R.CHM_BOOT_STAT F.CHM_BOOT_STAT_BANK x.bank else s2
    | none => s2
  (s3.setFld R.CHM_BOOT_STAT F.CHM_BOOT_STAT_REASON o.reason).setFld R.GLB_STATUS F.GLB_STATUS_START o.start

/-- The regulators' mode reports, read once after a cold reset (R543). -/
def voutModes (s : State) : State :=
  let bad (cl : Bool) (s : State) : State :=
    if (s.isl cl).nonlin then
      (s.setFlag R.GLB_ELE_STAT F.GLB_ELE_STAT_MODE_ERR true).setFld R.GLB_ELE_STAT F.GLB_ELE_STAT_REG cl.toNat
    else s
  bad true (bad false s)

/-- The start is decided. Under HOST, and under FLASH_HOST without a CHF in flash, the device waits for the host's images. -/
def startDecision (s : State) : State :=
  if !alive s || startOf s != 3 then s
  else if bootSrc s = 3 then showStart none { start := 2, reason := 6 } s
  else
    match s.chm.chf with
    | some c => showStart (some c) (decideBank s c) s
    | none =>
      match findChf s with
      | (none, fb) =>
        let s1 := s.setFlag R.CHM_BOOT_STAT F.CHM_BOOT_STAT_FALLBACK fb
        if bootSrc s = 0 then showStart none { start := 2, reason := 1 } s1 else s1
      | (some c, fb) =>
        let s1 := s.setFlag R.CHM_BOOT_STAT F.CHM_BOOT_STAT_FALLBACK fb
        showStart (some c) (decideBank s c) (voutModes { s1 with chm := { s1.chm with chf := some c } })

def execStartDecision (s : State) : Host.Outcome State Fault Refusal := .next (startDecision s)

/-- The cold reset ends: straps are sampled (R536), DNC starts from 0, the strapped profile is in force (R509). -/
def porstRelease (boot prof : Nat) (twin : Bool) (s : State) : State :=
  if !s.chm.held then s
  else
    let b := R.CHM_BOOT_STAT
    let s1 := { s with bel := {}, chm := { s.chm with held := false } }
    let s2 := ((s1.setFld b F.CHM_BOOT_STAT_BOOT_SRC boot).setFld b F.CHM_BOOT_STAT_PROFILE prof).setFlag b F.CHM_BOOT_STAT_TWIN_EN twin
    initProfile (if prof = 3 then 2 else prof) (s2.setFlag R.CRY_TWIN_STAT F.CRY_TWIN_STAT_STRAP twin)

def execPorstNRelease (bootSrc profile : Fin 4) (twinEn : Bool) (s : State) : Host.Outcome State Fault Refusal :=
  .next (porstRelease bootSrc.val profile.val twinEn s)

/-- A Chapter House restart (R497): a warm reset that also loads the CHF again. -/
def restartChm (s : State) : State :=
  let s1 := warmReset s
  { s1 with chm := { s1.chm with chf := none, restart := false } }

/-! ### The mailbox (R494-R496, Table MGT-3) -/

def rOk : Nat := 0
def rBusy : Nat := 1
def rBadCmd : Nat := 2
def rBadImage : Nat := 3
def rBadArg : Nat := 4
def rDenied : Nat := 6
def rNoSession : Nat := 7

def cmdArg (s : State) (i : Nat) : Nat := (s.reg (R.CHM_ARG i)).toNat

/-- The bank an update writes: the flash bank that was not booted, or what the host loads (R495). -/
def stagedBank (s : State) : Nat :=
  match s.chm.chf with
  | some c => if c.bank < 2 then 1 - c.bank else 2
  | none => if bootSrc s = 0 then 1 - (bootBank s).getD 0 else 2

/-- No CHF runs, and none is awaited: the ROM takes firmware update for a CHF image alone (R493). -/
def romOnly (s : State) : Bool := s.chm.chf.isNone && startOf s == 2

/-- Does the ROM take this image? -/
def romKind (s : State) (kind : Nat) : Bool := !romOnly s || kind == 1

def setSession (owner : Nat) (s : State) : State :=
  { s.setFlag R.CHM_STAT F.CHM_STAT_SESSION (owner != 0) with chm := { s.chm with session := owner, totals := [], pldm := 0, comp := 0 } }

/-- UPD_BEGIN's effect. -/
def openSession (owner : Nat) (s : State) : State :=
  let b := stagedBank s
  setSession owner (if b < 2 then copyBank (1 - b) b s else s)

def kindOk (k : Nat) : Bool := decide (1 ≤ k) && decide (k ≤ 4)

def totalOf (s : State) (k : Nat) : Nat := Tab.get (fun _ => 0) s.chm.totals k

/-- UPD_IMAGE's effect: the region is erased, and the image in hand is this one. -/
def beginImage (kind total : Nat) (s : State) : State :=
  let s1 := eraseRegion (stagedBank s) kind s
  { s1 with chm := { s1.chm with totals := Tab.set (fun _ => 0) s1.chm.totals kind total, comp := kind } }

/-- Bytes of the image in hand at an offset. -/
def writeChunk (off : Nat) (bs : List Byte) (s : State) : State :=
  writeBankBytes (stagedBank s) ((regionOf s.chm.comp).1 + off) bs s

/-- UPD_VERIFY's effect: an image that is not valid is erased. -/
def verifyImage (kind : Nat) (s : State) : Nat × State :=
  if (imageAt s (stagedBank s) kind).isSome then (rOk, s) else (rBadImage, eraseRegion (stagedBank s) kind s)

/-- UPD_ACTIVATE's effect: ACTIVE names the staged bank, the session closes. -/
def activate (s : State) : State :=
  let b := stagedBank s
  setSession 0 (if b < 2 then setFlash (Tab.set erased s.chm.flash 4 (BitVec.ofNat 8 b)) s else s)

/-- The outcome of Table MGT-2 for the staged set. -/
def probeSet (s : State) : StartOutcome :=
  if bootSrc s = 3 then { start := 2, reason := 6 }
  else
    match chfAt s (stagedBank s) with
    | none => { start := 2, reason := 1 }
    | some c => decideBank s c

/-- The bytes of CHM_WIN, the first n. -/
def winBytes (s : State) (n : Nat) : List Byte :=
  ((List.range ((n + 3) / 4)).flatMap fun i => leBytes 4 (s.reg (R.CHM_WIN i)).toNat).take n

def setRsp (l : List Nat) (s : State) : State :=
  (List.range l.length).foldl (fun s i => s.setReg (R.CHM_RSP i) (BitVec.ofNat 32 (l.getD i 0))) s

/-- GET_FW: the running or the staged versions and levels. -/
def getFw (which : Nat) (s : State) : Nat × State :=
  if which = 0 then
    let slf := match s.chm.chf with
      | none => 0
      | some c => ((imageAt s c.bank 3).map fun x => imIlevel x.1).getD 0
    (rOk, (setRsp [(s.reg R.CHM_FW_CHF).toNat, (s.reg R.CHM_FW_CRF).toNat, (s.reg R.CHM_FW_SLF).toNat, (s.reg R.CHM_ILEVEL0).toNat] s).setReg
      R.CHM_ILEVEL1 (BitVec.ofNat 32 slf))
  else if which = 1 then
    let im (k : Nat) : Nat × Nat := ((imageAt s (stagedBank s) k).map fun x => (imVersion x.1, imIlevel x.1)).getD (0, 0)
    (rOk, (setRsp [(im 1).1, (im 2).1, (im 3).1, (im 1).2 + 65536 * (im 2).2] s).setReg R.CHM_ILEVEL1 (BitVec.ofNat 32 (im 3).2))
  else (rBadArg, s)

/-- Needs a session that the mailbox opened. -/
def inSession (s : State) (k : State → Nat × State) : Nat × State := if s.chm.session = 1 then k s else (rNoSession, s)

def updImage (s : State) : Nat × State :=
  inSession s fun s =>
    let k := cmdArg s 0
    let n := cmdArg s 1
    if kindOk k && romKind s k && decide (1 ≤ n) && decide (n ≤ (regionOf k).2) then (rOk, beginImage k n s) else (rBadArg, s)

def updChunk (s : State) : Nat × State :=
  inSession s fun s =>
    let n := cmdArg s 1
    if kindOk s.chm.comp && decide (1 ≤ n) && decide (n ≤ 65536) && decide (cmdArg s 0 + n ≤ totalOf s s.chm.comp) then
      (rOk, writeChunk (cmdArg s 0) (winBytes s n) s)
    else (rBadArg, s)

def updVerify (s : State) : Nat × State :=
  inSession s fun s => if kindOk (cmdArg s 0) && romKind s (cmdArg s 0) then verifyImage (cmdArg s 0) s else (rBadArg, s)

def updActivate (s : State) : Nat × State :=
  inSession s fun s =>
    if 1 < cmdArg s 0 then (rBadArg, s)
    else (rOk, { activate s with chm := { (activate s).chm with restart := cmdArg s 0 == 1 } })

def probeStaged (s : State) : Nat × State :=
  let o := probeSet s
  (rOk, (s.setFld R.CHM_STAT F.CHM_STAT_PROBE_START o.start).setFld R.CHM_STAT F.CHM_STAT_PROBE_REASON o.reason)

/-- Kind and index of a unit command's ARG0. -/
def argUnit (s : State) : Nat × Nat := (cmdArg s 0 % 16, bitsOf (cmdArg s 0) 12 8)

/-- An expert command; a closed one sets EXPERT_WR (R496). -/
def expertCmd (s : State) (k : State → Nat × State) : Nat × State :=
  if romOnly s then (rBadCmd, s)
  else if expertOn s 11 then k s else (rDenied, s.setFlag R.GLB_ERR F.GLB_ERR_EXPERT_WR true)

/-- SET_UNIT (R508). -/
def setUnitCmd (s : State) : Nat × State :=
  expertCmd s fun s =>
    let (k, i) := argUnit s
    let st := bitsOf (cmdArg s 0) 17 16
    if k != kStack && unitKinds.any (fun p => p.1 == k && decide (i < p.2)) && decide (st < 3) then
      (rOk, s.setUnit k i { s.unit k i with mgmt := st })
    else (rBadArg, s)

/-- CLEAR_UNIT (R478). -/
def clearUnitCmd (s : State) : Nat × State :=
  expertCmd s fun s =>
    let (k, i) := argUnit s
    if unitKinds.any (fun p => p.1 == k && decide (i < p.2)) then (rOk, unitClear k i s) else (rBadArg, s)

/-- What a command does, and the RESULT it will end with. -/
def runCmd (op : Nat) (s : State) : Nat × State :=
  match op with
  | 0x01 => getFw (cmdArg s 0) s
  | 0x02 => if s.chm.session = 0 then (rOk, openSession 1 s) else (rBusy, s)
  | 0x03 => updImage s
  | 0x04 => updChunk s
  | 0x05 => updVerify s
  | 0x06 => probeStaged s
  | 0x07 => updActivate s
  | 0x08 => inSession s fun s => (rOk, setSession 0 s)
  | 0x10 => setUnitCmd s
  | 0x11 => clearUnitCmd s
  | _ => (rBadCmd, s)

/-- A write of CHM_CMD (R496). The command acts when it is issued; BUSY and RESULT follow its end. -/
def writeCmd (a : Agent) (v : Word) (s : State) : State :=
  let s1 := storeReg a R.CHM_CMD v s
  if reaches a R.CHM_CMD s && F.CHM_CMD_GO.get v == 1 then
    if s.chm.cmd.isSome then s1.setFlag R.CHM_ERR F.CHM_ERR_CMD_BUSY true
    else
      let op := F.CHM_CMD_OP.get v
      let (r, s2) := runCmd op s1
      { s2.setFlag R.CHM_STAT F.CHM_STAT_BUSY true with
        chm := { s2.chm with cmd := some (op, if op = 0x05 then cmdArg s1 0 % 16 else 0, r) } }
  else s1

def execGetFw (a : Agent) (v : Word) (s : State) : Host.Outcome State Fault Refusal := .next (writeCmd a v s)
def execUpdBegin (a : Agent) (v : Word) (s : State) : Host.Outcome State Fault Refusal := .next (writeCmd a v s)
def execUpdImage (a : Agent) (v : Word) (s : State) : Host.Outcome State Fault Refusal := .next (writeCmd a v s)
def execUpdChunk (a : Agent) (v : Word) (s : State) : Host.Outcome State Fault Refusal := .next (writeCmd a v s)
def execUpdVerify (a : Agent) (v : Word) (s : State) : Host.Outcome State Fault Refusal := .next (writeCmd a v s)
def execProbe (a : Agent) (v : Word) (s : State) : Host.Outcome State Fault Refusal := .next (writeCmd a v s)
def execUpdActivate (a : Agent) (v : Word) (s : State) : Host.Outcome State Fault Refusal := .next (writeCmd a v s)
def execUpdAbort (a : Agent) (v : Word) (s : State) : Host.Outcome State Fault Refusal := .next (writeCmd a v s)
def execSetUnit (a : Agent) (v : Word) (s : State) : Host.Outcome State Fault Refusal := .next (writeCmd a v s)
def execClearUnit (a : Agent) (v : Word) (s : State) : Host.Outcome State Fault Refusal := .next (writeCmd a v s)

/-- MGT_FW of a verify, a probe or an activation (R498). -/
def fwEvent (op kind result : Nat) (s : State) : State :=
  event 0x00D3 16 (op + 256 * result + 4096 * kind + 65536 * s.fld R.CHM_STAT F.CHM_STAT_PROBE_START) s

/-- The mailbox command in progress ends. -/
def mailboxCommandEnd (s : State) : State :=
  match s.chm.cmd with
  | none => s
  | some (op, kind, r) =>
    let s1 := (s.setFlag R.CHM_STAT F.CHM_STAT_BUSY false).setFld R.CHM_STAT F.CHM_STAT_RESULT r
    let s2 := { s1 with chm := { s1.chm with cmd := none } }
    let s3 := if op = 0x05 ∨ op = 0x06 ∨ op = 0x07 then fwEvent op kind r s2 else s2
    if s3.chm.restart then restartChm s3 else s3

def execMailboxCommandEnd (s : State) : Host.Outcome State Fault Refusal := .next (mailboxCommandEnd s)

/-- 60 s without a command of the session close it (R494). -/
def execUpdSessionTimeout (s : State) : Host.Outcome State Fault Refusal :=
  .next (if s.chm.session = 0 || s.chm.cmd.isSome then s else setSession 0 s)

end Sys2Proof.Machine
end

