-- ==== Sys2Proof/Machine/Mctp.lean ====
section
/-! DEFINITION. The management interface (R499-R504, R542): MCTP control, PLDM types 0, 2 and 5. A reply's bytes are those of the DSP
standards, which the manual names: `Config.mctpReply` of the reply's kind, numbered in the order of the table's rows, and its values. -/

namespace Sys2Proof.Machine

/-- Send a reply. Under a cold reset nothing answers. -/
def reply (kind : Nat) (vals : List Nat) (s : State) : State := if s.chm.held then s else s.emit (.mctp (Config.mctpReply kind vals))

/-- PLDM is answered by the CHF; the ROM answers MCTP control and firmware update for a CHF image alone (R493). -/
def pldmUp (s : State) : Bool := !s.chm.held && !(s.chm.chf.isNone && 2 ≤ startOf s)

def pldmReply (kind : Nat) (vals : List Nat) (s : State) : State := if pldmUp s then reply kind vals s else s

def code (n : Nat) : Nat := (Config.pldmCode n).toNat

/-! ### MCTP control (R500, R501) -/

def execSetEndpointId (eid : Byte) (s : State) : Host.Outcome State Fault Refusal :=
  .next (if s.chm.held then s else reply 0 [eid.toNat] (s.setFld R.CHM_EID F.CHM_EID_EID eid.toNat))

def execGetEndpointId (s : State) : Host.Outcome State Fault Refusal := .next (reply 1 [s.fld R.CHM_EID F.CHM_EID_EID] s)
def execGetEndpointUuid (s : State) : Host.Outcome State Fault Refusal := .next (reply 2 [s.pair R.SPK_UID_LO R.SPK_UID_HI] s)
def execGetMctpVersionSupport (msgType : Byte) (s : State) : Host.Outcome State Fault Refusal := .next (reply 3 [msgType.toNat] s)
def execGetMessageTypeSupport (s : State) : Host.Outcome State Fault Refusal := .next (reply 4 [0, 1] s)

/-- Types other than 0 and 1 get an error completion, or nothing when they allow no response. -/
def execMctpOtherType (msgType : Byte) (wantsReply : Bool) (s : State) : Host.Outcome State Fault Refusal :=
  .next (if 2 ≤ msgType.toNat && wantsReply then reply 5 [msgType.toNat] s else s)

/-! ### PLDM types 0 and 2 (R503) -/

def execGetTid (s : State) : Host.Outcome State Fault Refusal := .next (pldmReply 6 [code 0] s)
def execGetPldmVersion (ty : Byte) (s : State) : Host.Outcome State Fault Refusal := .next (pldmReply 7 [code 0, ty.toNat] s)
def execGetPldmTypes (s : State) : Host.Outcome State Fault Refusal := .next (pldmReply 8 [code 0, 0, 2, 5] s)
def execGetPldmCommands (ty : Byte) (s : State) : Host.Outcome State Fault Refusal := .next (pldmReply 9 [code 0, ty.toNat] s)
def execGetPdr (handle : Word) (s : State) : Host.Outcome State Fault Refusal := .next (pldmReply 10 [code 0, handle.toNat] s)

/-- The value of a sensor, as its register holds it. -/
def sensorValue (s : State) (id : Nat) : Option Nat :=
  if 1 ≤ id ∧ id ≤ 24 then some (s.fld (R.CHM_TEMP (id - 1)) F.CHM_TEMP_TEMP)
  else if 33 ≤ id ∧ id ≤ 40 then some (s.fld (R.MEM_HBM_TEMP (id - 33)) F.MEM_HBM_TEMP_TEMP)
  else if 64 ≤ id ∧ id ≤ 70 then some (s.reg (R.CHM_PWR (id - 64))).toNat
  else if id = 80 then some (startOf s)
  else none

def execGetSensorReading (sensor : BitVec 16) (s : State) : Host.Outcome State Fault Refusal :=
  .next (match sensorValue s sensor.toNat with
    | some v => pldmReply 11 [code 0, v] s
    | none => pldmReply 11 [code 1] s)

/-- Effecter 128 requests a profile, with the generator of CHM_PROF_SG. -/
def execSetNumericEffecterValue (effecter : BitVec 16) (v : Word) (s : State) : Host.Outcome State Fault Refusal :=
  .next (if !pldmUp s then s
    else if effecter.toNat = 128 ∧ v.toNat < 3 then
      pldmReply 12 [code 0] (requestProfile v.toNat (s.fld R.CHM_PROF_SG F.CHM_PROF_SG_SG) s)
    else pldmReply 12 [code 1] s)

/-! ### PLDM type 5 (R494, R504) -/

def setPldm (st : Nat) (s : State) : State := { s with chm := { s.chm with pldm := st } }

/-- Firmware update answers whenever the management interface does. -/
def updReply (kind c : Nat) (s : State) : State := reply kind [code c] s

def execRequestUpdate (s : State) : Host.Outcome State Fault Refusal :=
  .next (if s.chm.held then s
    else if s.chm.session = 0 then updReply 13 0 (setPldm 1 (openSession 2 s)) else updReply 13 2 s)

/-- A command of the update in a given state; in another it is refused. -/
def inPldm (kind st : Nat) (s : State) (k : State → State) : State :=
  if s.chm.held then s
  else if s.chm.session ≠ 2 then updReply kind 3 s
  else if s.chm.pldm = st then k s
  else updReply kind 4 s

def execPassComponentTable (kinds : List (Fin 4)) (s : State) : Host.Outcome State Fault Refusal :=
  .next (inPldm 14 1 s fun s => reply 14 (code 0 :: kinds.map (·.val + 1)) (setPldm 2 s))

/-- A component starts, as under UPD_IMAGE. -/
def execUpdateComponent (kind : Fin 4) (size : Word) (s : State) : Host.Outcome State Fault Refusal :=
  .next (inPldm 15 2 s fun s =>
    if romKind s (kind.val + 1) && decide (1 ≤ size.toNat) && decide (size.toNat ≤ (regionOf (kind.val + 1)).2) then
      updReply 15 0 (setPldm 3 (beginImage (kind.val + 1) size.toNat s))
    else updReply 15 1 s)

/-- The agent's answer to RequestFirmwareData brings bytes of the component, written as under UPD_CHUNK. -/
def execRequestFirmwareData (offset : Word) (data : List Byte) (s : State) : Host.Outcome State Fault Refusal :=
  .next (inPldm 16 3 s fun s =>
    if offset.toNat + data.length ≤ totalOf s s.chm.comp then updReply 16 0 (writeChunk offset.toNat data s) else updReply 16 1 s)

def execTransferComplete (ok : Bool) (s : State) : Host.Outcome State Fault Refusal :=
  .next (inPldm 17 3 s fun s => updReply 17 0 (setPldm (if ok then 4 else 2) s))

/-- The component is checked, as under UPD_VERIFY. -/
def execVerifyComplete (s : State) : Host.Outcome State Fault Refusal :=
  .next (inPldm 18 4 s fun s =>
    let (r, s1) := verifyImage s.chm.comp s
    updReply 18 (if r = rOk then 0 else 1) (fwEvent 0x05 s.chm.comp r (setPldm (if r = rOk then 5 else 2) s1)))

def execApplyComplete (ok : Bool) (s : State) : Host.Outcome State Fault Refusal :=
  .next (inPldm 19 5 s fun s => updReply 19 (if ok then 0 else 1) (setPldm 2 s))

/-- As UPD_ACTIVATE with ARG0 = 0. -/
def execActivateFirmware (s : State) : Host.Outcome State Fault Refusal :=
  .next (inPldm 20 2 s fun s => updReply 20 0 (fwEvent 0x07 0 rOk (activate s)))

def execGetStatus (s : State) : Host.Outcome State Fault Refusal := .next (reply 21 [code 0, s.chm.pldm] s)

def execCancelUpdate (s : State) : Host.Outcome State Fault Refusal :=
  .next (if s.chm.held then s else if s.chm.session = 2 then updReply 22 0 (setSession 0 s) else updReply 22 3 s)

/-- The bus is released and the transaction abandoned (R542). A command of this model is a whole transaction, so nothing is in progress. -/
def execSmbusTimeout (s : State) : Host.Outcome State Fault Refusal := .next s

end Sys2Proof.Machine
end

