-- ==== Sys2Proof/Machine/RegWrite.lean ====
section
/-! DEFINITION. A write of any register (R8, R313): a register whose write does more than store goes to the operation of its own row,
every other stores. GLB_EXPERT, whose cleared bits undo a function's expert settings (R527). -/

namespace Sys2Proof.Machine

/-- The index an offset has in an array of registers. -/
def arrIx (base stride count off : Nat) : Option Nat :=
  if base ≤ off ∧ (off - base) % stride = 0 ∧ (off - base) / stride < count then some ((off - base) / stride) else none

/-- The function whose VIS page holds an offset, and the offset in the page (R313, R314). -/
def pageAt (off : Nat) : Option (Nat × Nat) :=
  if 0x0010000 ≤ off && off < 0x0020000 then some (16, off - 0x0010000)
  else if 0x1000000 ≤ off && off < 0x1100000 then some ((off - 0x1000000) / 0x10000, (off - 0x1000000) % 0x10000)
  else none

/-! ### Expert control (R527) -/

/-- A register's word with the expert fields of function k at their reset values. -/
def basicWord (k : Nat) (r : RegDef) (off : Nat) (w : Word) : Word :=
  r.fields.foldl (fun w d => if d.expert = some k then d.fld.put w (d.fld.get (resetVal off)) else w) w

/-- One register's part: a port's EN acts as a write of it does, the others by standing at their reset values. -/
def basicReg (k : Nat) (s : State) (off : Nat) : State :=
  match regRow off with
  | none => s
  | some r =>
    let w := basicWord k r off (s.reg off)
    if w = s.reg off then s
    else
      let s1 := s.setReg off w
      match arrIx (R.SPK_P_CTL 0) 0x100 17 off with
      | some p => if portOn s1 p && linkState s1 p == lFailed then leavePort p lDown 1 s1 else s1
      | none => s1

/-- Belfry: comparators in DNC modes are disarmed and go to SLOT; a pending offset and a pending set at a count are cancelled. -/
def basicBelfry (s : State) : State :=
  let s1 := (List.range 16).foldl (fun s c =>
    if cmpMode s c < 2 then
      ((s.setFlag (R.BEL_CMP_CTL c) F.BEL_CMP_CTL_ARM false).setFld (R.BEL_CMP_CTL c) F.BEL_CMP_CTL_MODE 2).setCmp c
        { s.cmp c with queue := [], slotHit := false }
    else s) s
  let s2 := { s1.setFlag R.BEL_SET_CTL F.BEL_SET_CTL_OFS_GO false with bel := { s1.bel with ofsPend := none } }
  let atDnc := match s2.bel.setPend with
    | some (_, some _) => true
    | _ => false
  let s3 := if atDnc then { s2.setFlag R.BEL_SET_CTL F.BEL_SET_CTL_GO false with bel := { s2.bel with setPend := none } } else s2
  s3.setFld R.BEL_RCLK_CTL F.BEL_RCLK_CTL_FREQ 0

/-- Nave: a tile held LENT by PRE_REQ is released as by PRE_REL. -/
def basicNave (s : State) : State :=
  (List.range 32).foldl (fun s t => if (s.tile t).preHeld then s.setTile t { s.tile t with preHeld := false } else s) s

/-- What clearing bit k of GLB_EXPERT does. -/
def clearExpert (k : Nat) (s : State) : State :=
  let s1 := (s.regs.map (·.1)).foldl (basicReg k) s
  if k = 0 then basicBelfry s1 else if k = 4 then basicNave s1 else if k = 11 then setOverride false s1 else s1

/-- A write of GLB_EXPERT (R344, R345, R527). -/
def writeExpert (a : Agent) (v : Word) (s : State) : State :=
  let s1 := storeReg a R.GLB_EXPERT v s
  (List.range 13).foldl (fun t k => if expertOn s k && !expertOn s1 k then clearExpert k t else t) s1

def execGlbExpertWrite (a : Agent) (v : Word) (s : State) : Host.Outcome State Fault Refusal := .next (writeExpert a v s)

/-! ### The register map -/

/-- A write at an offset of a VIS page. -/
def writePage (a : Agent) (f o off : Nat) (v : Word) (s : State) : State :=
  match (List.range 18).find? (fun k => ringCfg f k = off) with
  | some k => writeRingCfg a f k v s
  | none =>
    match (List.range 18).find? (fun k => ringBaseOff f k false = off), (List.range 18).find? (fun k => ringBaseOff f k true = off) with
    | some k, _ => writeRingBase a f k false v s
    | none, some k => writeRingBase a f k true v s
    | none, none =>
      if o = 0x700 then writeSeqCmd a (some f) v s
      else
        match arrIx 0xE00C 0x10 8 o with
        | some vec => if f < 16 then writeMsixCtl a f vec v s else storeReg a off v s
        | none => storeReg a off v s

def writeGlobal (a : Agent) (off : Nat) (v : Word) (s : State) : State :=
  if off = R.GLB_SEAL then writeSeal a v s
  else if off = R.GLB_EXPERT then writeExpert a v s
  else if off = R.GLB_NAV_RT then writeRoleMask a false v s
  else if off = R.GLB_NAV_PRE then writeRoleMask a true v s
  else if off = R.GLB_VIRST then writeVirst a v s
  else if off = R.GLB_UNIT_CLR then writeUnitClr a v s
  else
    match arrIx (R.PF_MSIX_CTL 0) 0x10 64 off with
    | some vec => writeMsixCtl a 16 vec v s
    | none => storeReg a off v s

def writeChm (a : Agent) (off : Nat) (v : Word) (s : State) : State :=
  if off = R.CHM_CMD then writeCmd a v s
  else if off = R.CHM_PROF_REQ then writeProfReq a v s
  else if off = R.CHM_OVR then writeOvr a v s
  else if off = R.CHM_CORE_SIG then coreSig a v s
  else storeReg a off v s

def writeBel (a : Agent) (off : Nat) (v : Word) (s : State) : State :=
  if off = R.BEL_SET_CTL then writeSetCtl a v s
  else if R.BEL_SET_SEC_LO ≤ off && off ≤ R.BEL_OFS_HI then writeTimeReg a off v s
  else if off = R.BEL_FREQ_ADJ then writeFreqAdj a v s
  else if off = R.BEL_RCLK_CTL then writeRclk a v s
  else
    match arrIx (R.BEL_SG_CTL 0) 0x40 4 off, arrIx (R.BEL_CMP_CTL 0) 0x20 16 off, arrIx (R.BEL_CMP_TGT_LO 0) 0x20 16 off with
    | some g, _, _ => writeSgCtl a g v s
    | none, some c, _ => writeCmpCtl a c v s
    | none, none, some c => loadTarget a c v s
    | none, none, none => storeReg a off v s

def writeStream (a : Agent) (off : Nat) (v : Word) (s : State) : State :=
  if off < R.SE_SEM_CFG 0 then
    let e := (off - 0x0301000) / 0x400
    match arrIx (R.SE_CH_CTL e 0) 0x40 8 off with
    | some c => if 0x0301000 ≤ off && e < 24 then channelGo a (8 * e + c) v s else storeReg a off v s
    | none => storeReg a off v s
  else
    match arrIx (R.SE_SEM_CFG 0) 0x10 256 off, arrIx (R.SE_SEM_OWN 0) 0x10 256 off, arrIx (R.SE_SEM_OP 0) 0x10 256 off with
    | some p, _, _ => semCfg a p v s
    | none, some p, _ => semOwn a p v s
    | none, none, some p => semOp a p (F.SE_SEM_OP_OP.get v) s
    | none, none, none => storeReg a off v s

def writeMemSeq (a : Agent) (off : Nat) (v : Word) (s : State) : State :=
  if off = R.MMU_INV then writeMmuInv a v s
  else if off = R.MEM_CTL then writeSpillWays a v s
  else if off = R.SEQ_CMD then writeSeqCmd a none v s
  else
    match arrIx (R.SEQ_GRP_CFG 0) 0x10 64 off with
    | some g => writeGroup a g v s
    | none => storeReg a off v s

def writeUnits (a : Agent) (off : Nat) (v : Word) (s : State) : State :=
  match arrIx (R.NAV_CTL 0) 0x10000 32 off, arrIx (R.CLO_CTL 0) 0x10000 16 off, arrIx (R.CLO_IMD 0) 0x10000 16 off,
      arrIx (R.CLO_DMD 0) 0x10000 16 off with
  | some t, _, _, _ => writeNavCtl a t v s
  | none, some c, _, _ => writeCloCtl a c v s
  | none, none, some c, _ => imemIndirect a c (some v) s
  | none, none, none, some c => dmemIndirect a c (some v) s
  | none, none, none, none => storeReg a off v s

def writeRadio (a : Agent) (off : Nat) (v : Word) (s : State) : State :=
  if off = R.RFI_CTL then writeRfiCtl a v s
  else if off = R.RFI_PDR_BASE_LO ∨ off = R.RFI_PDR_BASE_HI then writePdrBase a off v s
  else if off < 0x0B09000 then
    let t := (off - 0x0B01000) / 0x2000
    if 0x0B01000 ≤ off && t < 4 then
      if off = R.RFI_DPD_CAP t then captureGo a t v s
      else
        match (List.range 2).find? (fun b => R.RFI_DPD_TERM t b 0 ≤ off && off < R.RFI_DPD_TERM t b 0 + 0x600 && off % 4 == 0) with
        | some b => writeBank a t b ((off - R.RFI_DPD_TERM t b 0) / 4) v s
        | none => storeReg a off v s
    else storeReg a off v s
  else
    match arrIx (R.RFI_AGC_CTL 0) 0x40 5 off, arrIx (R.RFI_AGC_GAIN 0) 0x40 5 off, arrIx (R.RFI_PRA_CTL 0) 0x40 4 off with
    | some c, _, _ => writeAgcCtl a c v s
    | none, some c, _ => writeAgcGain a c v s
    | none, none, some c => writePraCtl a c v s
    | none, none, none => storeReg a off v s

def writeFhs (a : Agent) (off : Nat) (v : Word) (s : State) : State :=
  if off = R.FHS_MAC_CMD then writeMacCmd a v s
  else if off = R.FHS_CTL then writeFhsCtl a v s
  else if 0x0C04000 ≤ off then
    let p := (off - 0x0C04000) / 0x800
    if p < 8 then
      if off = R.FHS_P_CTL p then writeFhPortCtl a p v s
      else
        match arrIx (R.FHS_P_Q_BUF p 0) 0x40 8 off, arrIx (R.FHS_P_Q_PEAK p 0) 0x40 8 off with
        | some q, _ => writeQueueBuf a p q v s
        | none, some q => writePeak a p q v s
        | none, none => storeReg a off v s
    else storeReg a off v s
  else
    match arrIx (R.FHS_QUAD_CFG 0) 4 2 off with
    | some q => writeQuadCfg a q v s
    | none => storeReg a off v s

def writeSpk (a : Agent) (off : Nat) (v : Word) (s : State) : State :=
  if off = R.SPK_CTL then writeSpkCtl a v s
  else
    match arrIx (R.SPK_P_CTL 0) 0x100 17 off with
    | some p => writePortCtl a p v s
    | none => storeReg a off v s

def writeCry (a : Agent) (off : Nat) (v : Word) (s : State) : State :=
  if off = R.CRY_TWIN_CTL then writeTwinCtl a v s
  else if off = R.CRY_INVAL then cryInval a v s
  else if off = R.CRY_DIGQ_LEN then digestQuery a v s
  else storeReg a off v s

/-- A 32-bit write of an agent at an offset of PF BAR0. -/
def writeAt (a : Agent) (off : Nat) (v : Word) (s : State) : State :=
  match pageAt off with
  | some (f, o) => writePage a f o off v s
  | none =>
    match off / 0x100000 with
    | 0 => writeGlobal a off v s
    | 1 => writeChm a off v s
    | 2 => writeBel a off v s
    | 3 => writeStream a off v s
    | 4 => writeMemSeq a off v s
    | 8 => writeUnits a off v s
    | 9 => writeUnits a off v s
    | 10 => writeUnits a off v s
    | 11 => writeRadio a off v s
    | 12 => writeFhs a off v s
    | 13 => writeSpk a off v s
    | 14 => writeCry a off v s
    | 15 =>
      match arrIx (R.FWL_CELL_NEXT_LO 0) 0x40 16 off with
      | some c => planArm a c v s
      | none => storeReg a off v s
    | _ => storeReg a off v s

def execRegisterWrite (a : Agent) (off : BitVec 25) (v : Word) (s : State) : Host.Outcome State Fault Refusal :=
  .next (writeAt a (agentOff a off.toNat) v s)

end Sys2Proof.Machine
end

