-- ==== Sys2Proof/Machine/Tick.lean ====
section
/-! DEFINITION. The Belfry tick (R36-R39, R45-R54, R57, R61, R63) and the slot strobe with the mode changes that fall due at it (R52,
R53, R59, R521). A tick first lets what is still due at the present tick happen, then advances time. -/

namespace Sys2Proof.Machine

/-! ### The slot strobe -/

/-- A bound comparator sees the strobe: SLOT fires at this tick; SLOT_REL queues its target, of which it holds four. -/
def cmpStrobe (c : Nat) (s : State) : State :=
  let x := s.cmp c
  if !cmpArmed s c then s
  else if cmpMode s c = 2 then s.setCmp c { x with slotHit := true }
  else if cmpMode s c = 3 then
    if 4 ≤ x.queue.length then s.setFlag (R.BEL_CMP_STAT c) F.BEL_CMP_STAT_QOVF true
    else s.setCmp c { x with queue := x.queue ++ [s.bel.dnc + x.target % 2 ^ 32] }
  else s

/-- The generator's own part of its strobe. -/
def fireStrobe (g : Nat) (s : State) : State :=
  let x := s.gen g
  let s1 := (s.addWrap (R.BEL_SG_COUNT g) F.BEL_SG_COUNT_COUNT 1).setPair (R.BEL_SG_DNC_LO g) (R.BEL_SG_DNC_HI g) s.bel.dnc
  let s2 := (s1.setFld (R.BEL_SG_STAT g) F.BEL_SG_STAT_STATE 2).setGen g { x with slotDue := false, jumped := false, nextSym := 0 }
  (forBound g cmpStrobe s2).emit (.strobe 0 g 0 s.bel.dnc)

/-- Mode changes due at a strobe, in the order of R521: the profile, the Radio Front's modes, the override. The Freewheel's settings and
the armed plan follow with FWL_SLOT_STROBE. -/
def strobeModes (g : Nat) (s : State) : State := overrideStrobe g (radioStrobe g (profileStrobe g s))

def slotStrobe (g : Nat) (s : State) : State :=
  if (s.gen g).slotDue && !stopDue g s then strobeModes g (fireStrobe g s) else s

def execSlotStrobe (g : Fin 4) (s : State) : Host.Outcome State Fault Refusal := .next (slotStrobe g.val s)

/-! ### What is still due at the present tick -/

def settleGen (g : Nat) (s : State) : State :=
  (List.range 14).foldl (fun s _ => symbolStrobe g s) (slotStrobe g (sgStop g s))

/-- Generators in ascending order (R521), then comparators, then PPS_OUT. -/
def settle (s : State) : State :=
  let s1 := (List.range 4).foldl (fun s g => settleGen g s) s
  ppsWidthEnd (ppsAssert ((List.range 16).foldl (fun s c => fireCmp c s) s1))

/-! ### Advancing time -/

/-- The normal increment of a tick, 1 ns + BEL_FREQ_ADJ × 2^-40 ns, and a number of nanoseconds more, in one normalised result. -/
def Tod.step (t : Tod) (adj ofs : Int) : Tod :=
  let f : Int := (t.frac : Int) + 2 ^ 40 + adj
  Tod.add { t with frac := (f % 2 ^ 40).toNat } (f / 2 ^ 40 + ofs)

/-- OFS instants at or before a time of day (R61). -/
def ppsCount (t : Tod) (ofs : Nat) : Nat := t.sec + (if ofs ≤ t.ns then 1 else 0)

/-- Slot boundaries of a grid at or before a time of day (R52). -/
def boundaryCount (t : Tod) (period phase : Nat) : Nat := t.sec * (billion / period) + (t.ns + period - phase) / period

/-- Did a tick that did not step time pass a second's end into second 0 (R36)? The later time as it compares. -/
def unwrapped (old new : Tod) : Tod := if new.sec < old.sec then { new with sec := new.sec + 2 ^ 48 } else new

/-- Is the pending set due at a DNC (R45, R57)? -/
def setDueAt (s : State) (d : Nat) : Bool :=
  match s.bel.setPend with
  | none => false
  | some (_, none) => true
  | some (_, some t) => reached40 t d

def cancelPending (s : State) : Bool := s.flag R.BEL_SET_CTL F.BEL_SET_CTL_CANCEL

/-- The cancel acts before anything due at its tick (R49). -/
def actCancel (s : State) : State :=
  if cancelPending s then
    let c := R.BEL_SET_CTL
    { ((s.setFlag c F.BEL_SET_CTL_GO false).setFlag c F.BEL_SET_CTL_OFS_GO false).setFlag c F.BEL_SET_CTL_CANCEL false with
      bel := { s.bel with setPend := none, ofsPend := none } }
  else s

/-- A set or an offset has been applied (R50). -/
def markStepped (s : State) : State :=
  (s.setFlag R.BEL_STATUS F.BEL_STATUS_TIME_STEPPED true).setFld R.BEL_STATUS F.BEL_STATUS_TSTATE 1

/-- TOD of the next tick: a due set, else the increment with a pending offset (R45, R47, R48). The flag says that time stepped. -/
def nextTod (d : Nat) (s : State) : Bool × State :=
  if setDueAt s d then
    let t := (s.bel.setPend.map (·.1)).getD {}
    let lost := s.bel.ofsPend.isSome
    let s1 := (s.setFlag R.BEL_SET_CTL F.BEL_SET_CTL_GO false).setFlag R.BEL_SET_CTL F.BEL_SET_CTL_OFS_GO false
    let s2 := if lost then s1.setFlag R.BEL_STATUS F.BEL_STATUS_OFS_LOST true else s1
    (true, markStepped { s2 with bel := { s2.bel with tod := t, setPend := none, ofsPend := none } })
  else
    let t := s.bel.tod.step (freqAdj s) (s.bel.ofsPend.getD 0)
    if s.bel.ofsPend.isSome then
      let s1 := s.setFlag R.BEL_SET_CTL F.BEL_SET_CTL_OFS_GO false
      (true, markStepped { s1 with bel := { s1.bel with tod := t, ofsPend := none } })
    else (false, { s with bel := { s.bel with tod := t } })

/-- A generator meets the new TOD: a step restarts its search; a boundary reached makes its strobe due, or is skipped (R54). -/
def genAdvance (old new : Tod) (jump : Bool) (g : Nat) (s : State) : State :=
  let x := s.gen g
  let st := R.BEL_SG_STAT g
  if s.fld st F.BEL_SG_STAT_STATE = 0 then s
  else if jump then
    (s.setFld st F.BEL_SG_STAT_STATE 1).setGen g { x with jumped := true, slotDue := false, nextSym := x.syms.length }
  else if boundaryCount (unwrapped old new) x.period x.phase = boundaryCount old x.period x.phase then s
  else if x.jumped && s.reg (R.BEL_SG_COUNT g) != 0 &&
      decide (2 * (s.bel.dnc - s.pair (R.BEL_SG_DNC_LO g) (R.BEL_SG_DNC_HI g)) < x.period) then
    s.setFlag st F.BEL_SG_STAT_SKIPPED true
  else s.setGen g { x with slotDue := true }

/-- RCLK_OUT in kHz (R63). -/
def rclkKhz (code : Nat) : Nat := if code = 0 then 10000 else if code = 1 then 25000 else 30720

/-- The phase accumulator of RCLK_OUT. -/
def rclkAdvance (s : State) : State :=
  if s.flag R.BEL_RCLK_CTL F.BEL_RCLK_CTL_EN then
    let inc := ((2 ^ 40 + freqAdj s) * (2 * rclkKhz (s.fld R.BEL_RCLK_CTL F.BEL_RCLK_CTL_FREQ))).toNat
    let half := 1000000 * 2 ^ 40
    let acc := s.bel.rclkAcc + inc
    { s with bel := if half ≤ acc then { s.bel with rclkAcc := acc - half, rclkLevel := !s.bel.rclkLevel }
                    else { s.bel with rclkAcc := acc } }
  else s

/-- Time advances by one tick. -/
def advanceTick (s : State) : State :=
  let s0 := actCancel s
  let old := s0.bel.tod
  let d := s0.bel.dnc + 1
  let (jump, s1) := nextTod d s0
  let new := s1.bel.tod
  let ofs := (s1.reg R.BEL_PPSOUT_OFS).toNat
  let later := if jump then new else unwrapped old new
  let s2 := { s1 with bel := { s1.bel with dnc := d % 2 ^ 64, ppsDue := decide (ppsCount old ofs < ppsCount later ofs) } }
  rclkAdvance ((List.range 4).foldl (fun s g => genAdvance old new jump g s) s2)

/-- One tick of the 1.0 GHz Belfry clock. Under a cold reset nothing counts. -/
def tick (s : State) : State := if s.chm.held then s else advanceTick (settle s)

def execTick (s : State) : Host.Outcome State Fault Refusal := .next (tick s)

/-- The apply tick of a pending set: the next tick, when the set is due at it. -/
def execTimeSetApply (s : State) : Host.Outcome State Fault Refusal :=
  .next (if setDueAt s (s.bel.dnc + 1) && !cancelPending s then tick s else s)

/-- The tick after OFS_GO. -/
def execTimeOffsetApply (s : State) : Host.Outcome State Fault Refusal :=
  .next (if s.bel.ofsPend.isSome && !cancelPending s then tick s else s)

/-- The tick after CANCEL. -/
def execTimeCancelApply (s : State) : Host.Outcome State Fault Refusal := .next (if cancelPending s then tick s else s)

end Sys2Proof.Machine
end

