-- ==== Sys2Proof/Machine/Dispatch.lean ====
section
/-! DEFINITION. The meaning of every command: one arm for each row of spec/opcode_table.json. -/

namespace Sys2Proof.Machine

/-- A command's effect on everything but the queue. -/
def exec (i : Instr) (s : State) : Host.Outcome State Fault Refusal :=
  match i with
  | .porstNAssert => Sys2Proof.Machine.execPorstNAssert s
  | .pgFall pg => Sys2Proof.Machine.execPgFall pg s
  | .porstNRelease bootSrc profile twinEn => Sys2Proof.Machine.execPorstNRelease bootSrc profile twinEn s
  | .sysrstN => Sys2Proof.Machine.execSysrstN s
  | .perstN => Sys2Proof.Machine.execPerstN s
  | .perstNRelease => Sys2Proof.Machine.execPerstNRelease s
  | .pfFlr => Sys2Proof.Machine.execPfFlr s
  | .hotReset => Sys2Proof.Machine.execHotReset s
  | .pcieLinkDown => Sys2Proof.Machine.execPcieLinkDown s
  | .pcieLinkUp => Sys2Proof.Machine.execPcieLinkUp s
  | .thermtripN sensor => Sys2Proof.Machine.execThermtripN sensor s
  | .startDecision => Sys2Proof.Machine.execStartDecision s
  | .todSnapshot a => Sys2Proof.Machine.execTodSnapshot a s
  | .dncSnapshot a => Sys2Proof.Machine.execDncSnapshot a s
  | .freqAdjWrite a v => Sys2Proof.Machine.execFreqAdjWrite a v s
  | .timeSetGo a v => Sys2Proof.Machine.execTimeSetGo a v s
  | .ofsGo a v => Sys2Proof.Machine.execOfsGo a v s
  | .cancel a v => Sys2Proof.Machine.execCancel a v s
  | .timeSetApply => Sys2Proof.Machine.execTimeSetApply s
  | .timeOffsetApply => Sys2Proof.Machine.execTimeOffsetApply s
  | .timeCancelApply => Sys2Proof.Machine.execTimeCancelApply s
  | .sgEnable a g v => Sys2Proof.Machine.execSgEnable a g v s
  | .sgDisable a g v => Sys2Proof.Machine.execSgDisable a g v s
  | .sgStop g => Sys2Proof.Machine.execSgStop g s
  | .slotStrobe g => Sys2Proof.Machine.execSlotStrobe g s
  | .symbolStrobe g => Sys2Proof.Machine.execSymbolStrobe g s
  | .cmpArm a c v => Sys2Proof.Machine.execCmpArm a c v s
  | .cmpDisarm a c v => Sys2Proof.Machine.execCmpDisarm a c v s
  | .cmpTargetLoad a c v => Sys2Proof.Machine.execCmpTargetLoad a c v s
  | .cmpFire c => Sys2Proof.Machine.execCmpFire c s
  | .ppsOutAssert => Sys2Proof.Machine.execPpsOutAssert s
  | .ppsOutWidthEnd => Sys2Proof.Machine.execPpsOutWidthEnd s
  | .ppsInEdge falling => Sys2Proof.Machine.execPpsInEdge falling s
  | .jesdLinkEnable a v => Sys2Proof.Machine.execJesdLinkEnable a v s
  | .slotStartMarker clocks => Sys2Proof.Machine.execSlotStartMarker clocks s
  | .rxLockLost => Sys2Proof.Machine.execRxLockLost s
  | .txLockLost => Sys2Proof.Machine.execTxLockLost s
  | .rxSamples ant x => Sys2Proof.Machine.execRxSamples ant x s
  | .dpdSwap a t v => Sys2Proof.Machine.execDpdSwap a t v s
  | .dpdBankWrite a t bank word v => Sys2Proof.Machine.execDpdBankWrite a t bank word v s
  | .ltCorrection t c => Sys2Proof.Machine.execLtCorrection t c s
  | .ltUnder t => Sys2Proof.Machine.execLtUnder t s
  | .dpdCaptureGo a t v => Sys2Proof.Machine.execDpdCaptureGo a t v s
  | .dpdCaptureStart => Sys2Proof.Machine.execDpdCaptureStart s
  | .dpdCaptureDone x orx => Sys2Proof.Machine.execDpdCaptureDone x orx s
  | .agcGridPoint ch p fullScale sidx => Sys2Proof.Machine.execAgcGridPoint ch p fullScale sidx s
  | .agcFreezeDelay ch => Sys2Proof.Machine.execAgcFreezeDelay ch s
  | .agcWindowEnd ch p sidx => Sys2Proof.Machine.execAgcWindowEnd ch p sidx s
  | .agcModeWrite a ch v => Sys2Proof.Machine.execAgcModeWrite a ch v s
  | .cnvSpiFrame sidx => Sys2Proof.Machine.execCnvSpiFrame sidx s
  | .prachEnable a c v => Sys2Proof.Machine.execPrachEnable a c v s
  | .prachOccasion c => Sys2Proof.Machine.execPrachOccasion c s
  | .preambleDetection c peaks => Sys2Proof.Machine.execPreambleDetection c peaks s
  | .monitorMeasurement ch fofs terr => Sys2Proof.Machine.execMonitorMeasurement ch fofs terr s
  | .bundleIssue core stallOpnd stallExt => Sys2Proof.Machine.execBundleIssue core stallOpnd stallExt s
  | .waitevWake core => Sys2Proof.Machine.execWaitevWake core s
  | .interruptEntry core => Sys2Proof.Machine.execInterruptEntry core s
  | .evpEvent core ev => Sys2Proof.Machine.execEvpEvent core ev s
  | .externalDmemAccess core chan write addr data waited => Sys2Proof.Machine.execExternalDmemAccess core chan write addr data waited s
  | .coreEnable a core v => Sys2Proof.Machine.execCoreEnable a core v s
  | .coreDisable a core v => Sys2Proof.Machine.execCoreDisable a core v s
  | .coreStop core => Sys2Proof.Machine.execCoreStop core s
  | .coreHalt a core v => Sys2Proof.Machine.execCoreHalt a core v s
  | .coreStep a core v => Sys2Proof.Machine.execCoreStep a core v s
  | .coreResume a core v => Sys2Proof.Machine.execCoreResume a core v s
  | .cloClr a core v => Sys2Proof.Machine.execCloClr a core v s
  | .imemIndirectAccess a core write => Sys2Proof.Machine.execImemIndirectAccess a core write s
  | .dmemIndirectAccess a core write => Sys2Proof.Machine.execDmemIndirectAccess a core write s
  | .chmCoreSig a v => Sys2Proof.Machine.execChmCoreSig a v s
  | .coreTaskPlacement f => Sys2Proof.Machine.execCoreTaskPlacement f s
  | .planArm a cell v => Sys2Proof.Machine.execPlanArm a cell v s
  | .planValidationEnd cell imagesUseRoleB => Sys2Proof.Machine.execPlanValidationEnd cell imagesUseRoleB s
  | .fwlSlotStrobe cell => Sys2Proof.Machine.execFwlSlotStrobe cell s
  | .predictionLanded cell epoch idx grid => Sys2Proof.Machine.execPredictionLanded cell epoch idx grid s
  | .predictionFault cell epoch idx => Sys2Proof.Machine.execPredictionFault cell epoch idx s
  | .estimateReady cell epoch idx grid => Sys2Proof.Machine.execEstimateReady cell epoch idx grid s
  | .itemFinal cell epoch idx out soft elements => Sys2Proof.Machine.execItemFinal cell epoch idx out soft elements s
  | .deadlineEvent cell => Sys2Proof.Machine.execDeadlineEvent cell s
  | .kvAppend cell epoch idx records => Sys2Proof.Machine.execKvAppend cell epoch idx records s
  | .arrayPass tile ctx => Sys2Proof.Machine.execArrayPass tile ctx s
  | .feederRefill tile need spent requests => Sys2Proof.Machine.execFeederRefill tile need spent requests s
  | .mvpVector tile ctx => Sys2Proof.Machine.execMvpVector tile ctx s
  | .fillTimeout tile ctx => Sys2Proof.Machine.execFillTimeout tile ctx s
  | .stageTrigger cell stage => Sys2Proof.Machine.execStageTrigger cell stage s
  | .stageItemPlacement cell stage => Sys2Proof.Machine.execStageItemPlacement cell stage s
  | .preemptionRequest tile => Sys2Proof.Machine.execPreemptionRequest tile s
  | .spillStart tile => Sys2Proof.Machine.execSpillStart tile s
  | .spillDone tile took => Sys2Proof.Machine.execSpillDone tile took s
  | .preOver tile => Sys2Proof.Machine.execPreOver tile s
  | .lendingEnd tile => Sys2Proof.Machine.execLendingEnd tile s
  | .restoreDone tile => Sys2Proof.Machine.execRestoreDone tile s
  | .preReq a tile v => Sys2Proof.Machine.execPreReq a tile v s
  | .preRel a tile v => Sys2Proof.Machine.execPreRel a tile v s
  | .navClr a tile v => Sys2Proof.Machine.execNavClr a tile v s
  | .tileSramUe tile part => Sys2Proof.Machine.execTileSramUe tile part s
  | .taskPlacement f => Sys2Proof.Machine.execTaskPlacement f s
  | .channelGo a ch v => Sys2Proof.Machine.execChannelGo a ch v s
  | .streamNop ch => Sys2Proof.Machine.execStreamNop ch s
  | .copy ch => Sys2Proof.Machine.execCopy ch s
  | .header ch => Sys2Proof.Machine.execHeader ch s
  | .rows ch => Sys2Proof.Machine.execRows ch s
  | .link ch => Sys2Proof.Machine.execLink ch s
  | .collSend ch => Sys2Proof.Machine.execCollSend ch s
  | .collRecv ch => Sys2Proof.Machine.execCollRecv ch s
  | .collRecvSum ch => Sys2Proof.Machine.execCollRecvSum ch s
  | .undefinedStreamOpcode ch => Sys2Proof.Machine.execUndefinedStreamOpcode ch s
  | .seBurst e => Sys2Proof.Machine.execSeBurst e s
  | .semWaitGrant p consumer => Sys2Proof.Machine.execSemWaitGrant p consumer s
  | .semCfgWrite a p v => Sys2Proof.Machine.execSemCfgWrite a p v s
  | .semOwnWrite a p v => Sys2Proof.Machine.execSemOwnWrite a p v s
  | .semOpProducer a p => Sys2Proof.Machine.execSemOpProducer a p s
  | .semOpConsumer a p => Sys2Proof.Machine.execSemOpConsumer a p s
  | .cslCommand core => Sys2Proof.Machine.execCslCommand core s
  | .swapEffect tile => Sys2Proof.Machine.execSwapEffect tile s
  | .fenceComplete f took => Sys2Proof.Machine.execFenceComplete f took s
  | .hbmRead block symbols agent => Sys2Proof.Machine.execHbmRead block symbols agent s
  | .hbmWrite addr data badMerge agent => Sys2Proof.Machine.execHbmWrite addr data badMerge agent s
  | .cacheAccess addr space write full attr badWord => Sys2Proof.Machine.execCacheAccess addr space write full attr badWord s
  | .cacheFill line => Sys2Proof.Machine.execCacheFill line s
  | .hbmRefresh block => Sys2Proof.Machine.execHbmRefresh block s
  | .hbmHotChange stack temp => Sys2Proof.Machine.execHbmHotChange stack temp s
  | .translationWalk space va write agent => Sys2Proof.Machine.execTranslationWalk space va write agent s
  | .mmuInvGo a v => Sys2Proof.Machine.execMmuInvGo a v s
  | .mmuInvDone => Sys2Proof.Machine.execMmuInvDone s
  | .spillWaysWrite a v => Sys2Proof.Machine.execSpillWaysWrite a v s
  | .navRoleMaskWrite a pre v => Sys2Proof.Machine.execNavRoleMaskWrite a pre v s
  | .hostReadCompletion addr r ch => Sys2Proof.Machine.execHostReadCompletion addr r ch s
  | .hostReadTimeout ch => Sys2Proof.Machine.execHostReadTimeout ch s
  | .selfRefreshEntry => Sys2Proof.Machine.execSelfRefreshEntry s
  | .seqOpen a page v => Sys2Proof.Machine.execSeqOpen a page v s
  | .seqClose a page v => Sys2Proof.Machine.execSeqClose a page v s
  | .seqCloseEnd page => Sys2Proof.Machine.execSeqCloseEnd page s
  | .seqBadOp a page v => Sys2Proof.Machine.execSeqBadOp a page v s
  | .seqGroupConfig a g v => Sys2Proof.Machine.execSeqGroupConfig a g v s
  | .stepBegin b => Sys2Proof.Machine.execStepBegin b s
  | .stepEnd b outs => Sys2Proof.Machine.execStepEnd b outs s
  | .doorbellPoll f => Sys2Proof.Machine.execDoorbellPoll f s
  | .sqFetchError f q => Sys2Proof.Machine.execSqFetchError f q s
  | .hostNop f q => Sys2Proof.Machine.execHostNop f q s
  | .task f q img => Sys2Proof.Machine.execTask f q img s
  | .step f q => Sys2Proof.Machine.execStep f q s
  | .collective f q => Sys2Proof.Machine.execCollective f q s
  | .frameTx f q => Sys2Proof.Machine.execFrameTx f q s
  | .rxPost f q => Sys2Proof.Machine.execRxPost f q s
  | .undefinedHostOpcode f q => Sys2Proof.Machine.execUndefinedHostOpcode f q s
  | .completionWrite => Sys2Proof.Machine.execCompletionWrite s
  | .coalTimeExpiry f ring => Sys2Proof.Machine.execCoalTimeExpiry f ring s
  | .msixUnmask a f vec => Sys2Proof.Machine.execMsixUnmask a f vec s
  | .rrBacklogMove => Sys2Proof.Machine.execRrBacklogMove s
  | .ringEnable a f ring v => Sys2Proof.Machine.execRingEnable a f ring v s
  | .ringDisable a f ring v => Sys2Proof.Machine.execRingDisable a f ring v s
  | .ringConfigWrite a f ring reg v => Sys2Proof.Machine.execRingConfigWrite a f ring reg v s
  | .glbSeal a v => Sys2Proof.Machine.execGlbSeal a v s
  | .glbExpertWrite a v => Sys2Proof.Machine.execGlbExpertWrite a v s
  | .registerWrite a off v => Sys2Proof.Machine.execRegisterWrite a off v s
  | .frameReceive port bytes => Sys2Proof.Machine.execFrameReceive port bytes s
  | .macLearn => Sys2Proof.Machine.execMacLearn s
  | .macAgeing => Sys2Proof.Machine.execMacAgeing s
  | .macRead a v => Sys2Proof.Machine.execMacRead a v s
  | .macWrite a v => Sys2Proof.Machine.execMacWrite a v s
  | .macInvalidate a v => Sys2Proof.Machine.execMacInvalidate a v s
  | .flushPort a v => Sys2Proof.Machine.execFlushPort a v s
  | .fhLinkLost port => Sys2Proof.Machine.execFhLinkLost port s
  | .fhLinkUp port => Sys2Proof.Machine.execFhLinkUp port s
  | .egressSelect port => Sys2Proof.Machine.execEgressSelect port s
  | .frameTxEnd port => Sys2Proof.Machine.execFrameTxEnd port s
  | .shaperRefill => Sys2Proof.Machine.execShaperRefill s
  | .cloisterPortFrame bytes => Sys2Proof.Machine.execCloisterPortFrame bytes s
  | .quadConfigWrite a quad v => Sys2Proof.Machine.execQuadConfigWrite a quad v s
  | .queueBufWrite a port q v => Sys2Proof.Machine.execQueueBufWrite a port q v s
  | .spkEnable a v => Sys2Proof.Machine.execSpkEnable a v s
  | .spkPortCtlWrite a p v => Sys2Proof.Machine.execSpkPortCtlWrite a p v s
  | .spkFrameSend p => Sys2Proof.Machine.execSpkFrameSend p s
  | .spkFrameReceive p fecOk bytes => Sys2Proof.Machine.execSpkFrameReceive p fecOk bytes s
  | .linkTrained p rtt => Sys2Proof.Machine.execLinkTrained p rtt s
  | .spkLockLost p => Sys2Proof.Machine.execSpkLockLost p s
  | .helloSend => Sys2Proof.Machine.execHelloSend s
  | .helloReceive p uid hub partnerPort => Sys2Proof.Machine.execHelloReceive p uid hub partnerPort s
  | .helloTimeout p => Sys2Proof.Machine.execHelloTimeout p s
  | .adjSend => Sys2Proof.Machine.execAdjSend s
  | .adjReceive p r => Sys2Proof.Machine.execAdjReceive p r s
  | .settleExpiry => Sys2Proof.Machine.execSettleExpiry s
  | .seatReceive uid leader count seat => Sys2Proof.Machine.execSeatReceive uid leader count seat s
  | .reportSend => Sys2Proof.Machine.execReportSend s
  | .assignReceive p leader wheel count => Sys2Proof.Machine.execAssignReceive p leader wheel count s
  | .wheelNumReceive uid wheel => Sys2Proof.Machine.execWheelNumReceive uid wheel s
  | .hubTimeout => Sys2Proof.Machine.execHubTimeout s
  | .discoveryWaitTimeout item => Sys2Proof.Machine.execDiscoveryWaitTimeout item s
  | .spkMessageReceive p m => Sys2Proof.Machine.execSpkMessageReceive p m s
  | .abortReceive collId reason => Sys2Proof.Machine.execAbortReceive collId reason s
  | .collTimeout item => Sys2Proof.Machine.execCollTimeout item s
  | .twinEnable a v => Sys2Proof.Machine.execTwinEnable a v s
  | .twinDisable a v => Sys2Proof.Machine.execTwinDisable a v s
  | .twinHelloReceive h => Sys2Proof.Machine.execTwinHelloReceive h s
  | .compareRecordReceive r => Sys2Proof.Machine.execCompareRecordReceive r s
  | .twinWaitExpiry => Sys2Proof.Machine.execTwinWaitExpiry s
  | .digestFinal => Sys2Proof.Machine.execDigestFinal s
  | .cryInval a v => Sys2Proof.Machine.execCryInval a v s
  | .digestQuery a v => Sys2Proof.Machine.execDigestQuery a v s
  | .replayArm a v => Sys2Proof.Machine.execReplayArm a v s
  | .viReset a v => Sys2Proof.Machine.execViReset a v s
  | .vfFlr vi => Sys2Proof.Machine.execVfFlr vi s
  | .unitZeroingDone u => Sys2Proof.Machine.execUnitZeroingDone u s
  | .reconciliation => Sys2Proof.Machine.execReconciliation s
  | .glbUnitClr a v => Sys2Proof.Machine.execGlbUnitClr a v s
  | .getFw a v => Sys2Proof.Machine.execGetFw a v s
  | .updBegin a v => Sys2Proof.Machine.execUpdBegin a v s
  | .updImage a v => Sys2Proof.Machine.execUpdImage a v s
  | .updChunk a v => Sys2Proof.Machine.execUpdChunk a v s
  | .updVerify a v => Sys2Proof.Machine.execUpdVerify a v s
  | .probe a v => Sys2Proof.Machine.execProbe a v s
  | .updActivate a v => Sys2Proof.Machine.execUpdActivate a v s
  | .updAbort a v => Sys2Proof.Machine.execUpdAbort a v s
  | .setUnit a v => Sys2Proof.Machine.execSetUnit a v s
  | .clearUnit a v => Sys2Proof.Machine.execClearUnit a v s
  | .mailboxCommandEnd => Sys2Proof.Machine.execMailboxCommandEnd s
  | .updSessionTimeout => Sys2Proof.Machine.execUpdSessionTimeout s
  | .setEndpointId eid => Sys2Proof.Machine.execSetEndpointId eid s
  | .getEndpointId => Sys2Proof.Machine.execGetEndpointId s
  | .getEndpointUuid => Sys2Proof.Machine.execGetEndpointUuid s
  | .getMctpVersionSupport msgType => Sys2Proof.Machine.execGetMctpVersionSupport msgType s
  | .getMessageTypeSupport => Sys2Proof.Machine.execGetMessageTypeSupport s
  | .mctpOtherType msgType wantsReply => Sys2Proof.Machine.execMctpOtherType msgType wantsReply s
  | .getTid => Sys2Proof.Machine.execGetTid s
  | .getPldmVersion ty => Sys2Proof.Machine.execGetPldmVersion ty s
  | .getPldmTypes => Sys2Proof.Machine.execGetPldmTypes s
  | .getPldmCommands ty => Sys2Proof.Machine.execGetPldmCommands ty s
  | .getPdr handle => Sys2Proof.Machine.execGetPdr handle s
  | .getSensorReading sensor => Sys2Proof.Machine.execGetSensorReading sensor s
  | .setNumericEffecterValue effecter v => Sys2Proof.Machine.execSetNumericEffecterValue effecter v s
  | .requestUpdate => Sys2Proof.Machine.execRequestUpdate s
  | .passComponentTable kinds => Sys2Proof.Machine.execPassComponentTable kinds s
  | .updateComponent kind size => Sys2Proof.Machine.execUpdateComponent kind size s
  | .requestFirmwareData offset data => Sys2Proof.Machine.execRequestFirmwareData offset data s
  | .transferComplete ok => Sys2Proof.Machine.execTransferComplete ok s
  | .verifyComplete => Sys2Proof.Machine.execVerifyComplete s
  | .applyComplete ok => Sys2Proof.Machine.execApplyComplete ok s
  | .activateFirmware => Sys2Proof.Machine.execActivateFirmware s
  | .getStatus => Sys2Proof.Machine.execGetStatus s
  | .cancelUpdate => Sys2Proof.Machine.execCancelUpdate s
  | .smbusTimeout => Sys2Proof.Machine.execSmbusTimeout s
  | .chmOvrWrite a v => Sys2Proof.Machine.execChmOvrWrite a v s
  | .profileRequest a v => Sys2Proof.Machine.execProfileRequest a v s
  | .profileChangeComplete => Sys2Proof.Machine.execProfileChangeComplete s
  | .dvfsRequest a v => Sys2Proof.Machine.execDvfsRequest a v s
  | .dvfsStep cl ack => Sys2Proof.Machine.execDvfsStep cl ack s
  | .slewWaitEnd cl => Sys2Proof.Machine.execSlewWaitEnd cl s
  | .pmbusRetry cl ack => Sys2Proof.Machine.execPmbusRetry cl ack s
  | .sensorSample temps => Sys2Proof.Machine.execSensorSample temps s
  | .powerEstimate mw => Sys2Proof.Machine.execPowerEstimate mw s
  | .throttleStep => Sys2Proof.Machine.execThrottleStep s
  | .throttleReleaseStep => Sys2Proof.Machine.execThrottleReleaseStep s
  | .tick => Sys2Proof.Machine.execTick s
  | .rxLockGained => Sys2Proof.Machine.execRxLockGained s
  | .txLockGained => Sys2Proof.Machine.execTxLockGained s
  | .sysrefEdge => Sys2Proof.Machine.execSysrefEdge s
  | .transmitSamples t x => Sys2Proof.Machine.execTransmitSamples t x s
  | .spkSignalPresent p => Sys2Proof.Machine.execSpkSignalPresent p s
  | .selfRefreshExit => Sys2Proof.Machine.execSelfRefreshExit s

end Sys2Proof.Machine
end

