-- ==== Sys2Proof/Machine/Read.lean ====
section
/-! DEFINITION. What a read of a register returns. The register file holds every value the device stores; here are the registers whose
value is a copy or a view of state that has its home elsewhere (R34, R40-R43, R312, R315, R476, R513, R529). -/

namespace Sys2Proof.Machine

/-! ### Views -/

/-- The clock of an island in MHz, 0 while it is off (Tables SLT-2, SLT-7, R35, R77). -/
def islandMhz (s : State) (i : Nat) : Nat :=
  if s.chm.trip && i != 8 then 0
  else
    match i with
    | 0 => pointMhz false s.chm.nv.shown
    | 1 => pointMhz true s.chm.cl.shown
    | 2 => 1800
    | 3 => 1200
    | 4 => if s.spk.off then 0 else 1330
    | 5 => 402
    | 6 => s.fld (R.GLB_ISL_STAT 6) F.GLB_ISL_STAT_FREQ_MHZ
    | 7 => 1000
    | 8 => 1000
    | _ => 0

/-- Every rail stays powered in every profile; the SP island has a switch of its own (Table MGT-4). -/
def islandPowered (s : State) (i : Nat) : Bool := !(i == 4 && s.spk.off)

/-- GLB_ISL_STATi. -/
def islStat (s : State) (i : Nat) : Word := BitVec.ofNat 32 (islandMhz s i + 2 ^ 16 * (islandPowered s i).toNat)

/-- GLB_MODES (Table CMB-6). -/
def glbModes (s : State) : Word :=
  BitVec.ofNat 32 (curProfile s + 4 * (if startOf s = 2 then 0 else s.rfi.mode) + 2 ^ 4 * startOf s +
    2 ^ 6 * s.fld R.GLB_STATUS F.GLB_STATUS_OVERRIDE + 2 ^ 8 * s.fld R.CRY_TWIN_STAT F.CRY_TWIN_STAT_STATE +
    2 ^ 12 * (isSealed s).toNat + 2 ^ 16 * ((s.reg R.GLB_EXPERT).toNat % 2 ^ 13))

/-- GLB_UNIT_STAT of the unit GLB_UNIT_SEL names. -/
def unitStat (s : State) : Word :=
  let k := (unitSel s).1
  let i := (unitSel s).2
  if unitThere s k i then
    BitVec.ofNat 32 (effective s k i + 2 ^ 4 * unitData s k i + 2 ^ 8 * (s.unit k i).skew.toNat + 2 ^ 9 * (s.unit k i).draining.toNat)
  else 0

/-- CHM_DVFS with the effective points of R513. -/
def dvfsView (s : State) : Word :=
  F.CHM_DVFS_CL_EFF.put (F.CHM_DVFS_NV_EFF.put (s.reg R.CHM_DVFS) (targetPoint s false)) (targetPoint s true)

/-- A register of an agent's snapshot set, by its offset in the Belfry block (R40-R43, R315). -/
def snapView (n : Snap) (o : Nat) : Word :=
  match o with
  | 0x10 => BitVec.ofNat 32 n.tod.ns
  | 0x14 => BitVec.ofNat 32 n.tod.sec
  | 0x18 => BitVec.ofNat 32 (n.tod.sec / 2 ^ 32 % 2 ^ 16)
  | 0x1C => BitVec.ofNat 32 (n.tod.frac / 2 ^ 24)
  | 0x20 => BitVec.ofNat 32 n.dnc
  | 0x24 => BitVec.ofNat 32 (n.dnc / 2 ^ 32)
  | 0x28 => BitVec.ofNat 32 n.dncOnly
  | _ => BitVec.ofNat 32 (n.dncOnly / 2 ^ 32)

/-- NAV_STAT. A tile under clear reads BUSY (R473). A fused-off tile is never reported as free (R5) and an idle one that is powered off
reads OFF too (log 46). -/
def navStat (s : State) (t : Nat) : Word :=
  let st := tileState s t
  let idle := st == nvIdle
  let seen :=
    if !tileFused s t then 0
    else if idle && (s.tile t).zeroing then nvBusy
    else if idle && (s.unit kTile t).eff == 2 then 0
    else st
  F.NAV_STAT_STATE.put (s.reg (R.NAV_STAT t)) seen

/-- CLO_IMD and CLO_DMD read the memory at the address register (R149); an uncorrectable word reads zero. -/
def imemView (s : State) (c : Nat) : Word := Tab.get (fun _ => 0) (s.core c).imem (s.fld (R.CLO_IMA c) F.CLO_IMA_ADDR)

def dmemView (s : State) (c : Nat) : Word :=
  match dmemRead (s.core c) (4 * s.fld (R.CLO_DMA c) F.CLO_DMA_ADDR) 4 4 with
  | .ok bs => BitVec.ofNat 32 (leNat bs)
  | .error _ => 0

/-! ### Reading -/

/-- A word at an offset of a VIS page. -/
def readPage (f o off : Nat) (s : State) : Word :=
  if o = 0x0000 then s.reg R.GLB_ID
  else if o = 0x0004 then s.reg R.GLB_CAPS
  else if o = 0x0008 then s.reg R.GLB_TILEMAP
  else if o = 0x0010 then BitVec.ofNat 32 ((isSealed s).toNat + 2 * (expertOn s 12).toNat)
  else
    match arrIx 0x0610 4 8 o with
    | some k => snapView (snapOf s f) (0x10 + 4 * k)
    | none => s.reg off

/-- A word of PF BAR0, for the PF or the Chapter House. -/
def readFile (a : Agent) (off : Nat) (s : State) : Word :=
  match arrIx (R.GLB_ISL_STAT 0) 4 9 off, arrIx R.BEL_TOD_NS 4 8 off, arrIx (R.NAV_STAT 0) 0x10000 32 off, arrIx (R.CLO_IMD 0) 0x10000 16 off,
      arrIx (R.CLO_DMD 0) 0x10000 16 off with
  | some i, _, _, _, _ => islStat s i
  | none, some k, _, _, _ => snapView (snapOf s (agentNo a)) (0x10 + 4 * k)
  | none, none, some t, _, _ => navStat s t
  | none, none, none, some c, _ => imemView s c
  | none, none, none, none, some c => dmemView s c
  | none, none, none, none, none =>
    if off = R.GLB_MODES then glbModes s
    else if off = R.GLB_UNIT_STAT then unitStat s
    else if off = R.CHM_DVFS then dvfsView s
    else s.reg off

/-- What an agent's read of an offset returns. A block that does not answer, and an offset that no register has, read zero. -/
def readReg (a : Agent) (off : Nat) (s : State) : Word :=
  if answers a off s && (regRow off).isSome then
    match pageAt off with
    | some (f, o) => readPage f o off s
    | none => readFile a off s
  else 0

end Sys2Proof.Machine
end

