-- ==== Sys2Proof/Safety.lean ====
section
/-! DEFINITION. What a sound state of the block is, in the terms the claims use. No command faults, so a safe run is one whose every
state is sound: time of day, counter and pending set lie in their ranges (R36, R37, R39, R45), and the register file and both
memories are in canonical form, so that equal contents are equal data. -/

namespace Sys2Proof.Machine

/-- A time of day in range: 48 bits of seconds, nanoseconds below 10^9, 40 fraction bits (R36, R37). -/
def Tod.ok (t : Tod) : Prop := t.sec < 2 ^ 48 ∧ t.ns < 1000000000 ∧ t.frac < 2 ^ 40

/-- The Belfry's time is in range, and so is a set that is pending. -/
def BelSt.ok (b : BelSt) : Prop := b.tod.ok ∧ b.dnc < 2 ^ 64 ∧ ∀ t at_, b.setPend = some (t, at_) → t.ok

/-- A sound state. -/
structure Sound (s : State) : Prop where
  time    : s.bel.ok
  regs    : Tab.wf resetVal s.regs = true
  hbm     : Tab.wf memDefault s.hbm = true
  hostMem : Tab.wf memDefault s.hostMem = true

/-- The command or step ends in a next state that satisfies `P`. -/
def Ends (P : State → Prop) (o : Host.Outcome State Fault Refusal) : Prop := ∃ t, o = .next t ∧ P t

end Sys2Proof.Machine
end

