-- ==== Sys2Proof/Certificates/Slice0/Obligations.lean ====
section
/-! DEFINITION. What is claimed of the block, for the provers. Every statement holds of every state that meets its hypotheses; a
statement about a next state says what changes and, as an equation of states and register by register, that nothing else does. -/

open Sys2Proof Sys2Proof.Machine

/-- Every register outside `l` reads as before. -/
def RegsBut (l : List Nat) (s t : State) : Prop := ∀ off, off ∉ l → t.reg off = s.reg off

/-- Every register outside `l`, outside the functions' VIS pages and outside the PF's pending-bit array reads as before: an event that is
raised may touch the others. -/
def EventRegsBut (l : List Nat) (s t : State) : Prop :=
  ∀ off, off / 0x10000 ≠ 1 ∧ off < 0x1000000 ∧ off / 8 ≠ 0xE8000 / 8 → off ∉ l → t.reg off = s.reg off

/-- `t` is `s` with the fields and registers given, but for what an event that is raised touches: event rings in host memory, their
indices, interrupts, and registers of the VIS pages. -/
def EventsOnly (l : List Nat) (s t : State) : Prop :=
  t = { s with regs := t.regs, host := t.host, hostMem := t.hostMem, out := t.out } ∧ t.host.link = s.host.link ∧ EventRegsBut l s t

/-- R36, R39, R463: the state after PORST_N is sound, DNC starts from 0, nothing waits and nothing has been sent. -/
def Obligations.ResetIsSound : Prop :=
  Sound State.reset ∧ State.reset.bel.dnc = 0 ∧ State.reset.pending = [] ∧ State.reset.out = []

/-- With `c` at the front, a step is `exec c` on the state with the queue's rest (the model's queue: log entries 4 and 8). -/
def Obligations.StepRunsFront : Prop :=
  ∀ (s : State) (c : Instr) (rest : List Instr), s.pending = c :: rest →
    step s = exec c { s with pending := rest }

/-- The model's choice (log entry 4): an empty queue leaves the block as it is. -/
def Obligations.EmptyQueueIdles : Prop := ∀ s : State, s.pending = [] → step s = .next s

/-- R36, R37, R39, R45: soundness is kept by every step, every step goes on, and the queue loses its front alone. -/
def Obligations.StepKeepsSound : Prop :=
  ∀ s : State, Sound s → ∃ t, step s = .next t ∧ Sound t ∧ t.pending = s.pending.tail

/-- The commands that move time: the tick and its three named forms, and the cold resets. -/
def movesTime : Instr → Bool
  | .tick => true
  | .timeSetApply => true
  | .timeOffsetApply => true
  | .timeCancelApply => true
  | .porstNAssert => true
  | .porstNRelease _ _ _ => true
  | .pgFall _ => true
  | _ => false

/-- R39: no other command changes the time of day or DNC. -/
def Obligations.OnlyTicksMoveTime : Prop :=
  ∀ (c : Instr) (s t : State), Sound s → movesTime c = false → exec c s = .next t →
    t.bel.dnc = s.bel.dnc ∧ t.bel.tod = s.bel.tod

/-- R40, R41, R43: a snapshot goes into the reader's own set, and nowhere else. -/
def Obligations.SnapshotsAreTheReaders : Prop :=
  (∀ (a : Agent) (s : State), answers a (belOff a R.BEL_TOD_NS) s = true → ∃ t, exec (.todSnapshot a) s = .next t ∧
    snapOf t (agentNo a) = { tod := s.bel.tod, dnc := s.bel.dnc, dncOnly := (snapOf s (agentNo a)).dncOnly } ∧
    (∀ k, k ≠ agentNo a → snapOf t k = snapOf s k) ∧ t = { s with bel := { s.bel with snaps := t.bel.snaps } }) ∧
  (∀ (a : Agent) (s : State), answers a (belOff a R.BEL_DNC_LO) s = true → ∃ t, exec (.dncSnapshot a) s = .next t ∧
    snapOf t (agentNo a) = { tod := (snapOf s (agentNo a)).tod, dnc := (snapOf s (agentNo a)).dnc, dncOnly := s.bel.dnc } ∧
    (∀ k, k ≠ agentNo a → snapOf t k = snapOf s k) ∧ t = { s with bel := { s.bel with snaps := t.bel.snaps } }) ∧
  (∀ (a : Agent) (s : State), answers a (belOff a R.BEL_TOD_NS) s = false → exec (.todSnapshot a) s = .next s) ∧
  (∀ (a : Agent) (s : State), answers a (belOff a R.BEL_DNC_LO) s = false → exec (.dncSnapshot a) s = .next s)

/-- R38, R44. -/
def Obligations.FrequencyAndOwner : Prop :=
  (∀ (a : Agent) (v : Word) (s : State), answers a R.BEL_FREQ_ADJ s = true → ownsTime a s = true →
    ∃ t, exec (.freqAdjWrite a v) s = .next t ∧ t = { s with regs := t.regs } ∧ RegsBut [R.BEL_FREQ_ADJ, R.BEL_STATUS] s t ∧
      freqAdj t = max (-549755813) (min 549755813 v.toInt) ∧
      t.reg R.BEL_STATUS = (if -549755813 ≤ v.toInt ∧ v.toInt ≤ 549755813 then s.reg R.BEL_STATUS
        else F.BEL_STATUS_ADJ_CLAMPED.put (s.reg R.BEL_STATUS) 1)) ∧
  (∀ (a : Agent) (v : Word) (s : State), answers a R.BEL_FREQ_ADJ s = true → ownsTime a s = false →
    exec (.freqAdjWrite a v) s = .next (s.setReg R.BEL_STATUS (F.BEL_STATUS_NONOWNER.put (s.reg R.BEL_STATUS) 1))) ∧
  (∀ (a : Agent) (v : Word) (s : State), answers a R.BEL_SET_CTL s = true → ownsTime a s = false →
    (∀ c ∈ [Instr.timeSetGo a v, .ofsGo a v, .cancel a v],
      exec c s = .next (s.setReg R.BEL_STATUS (F.BEL_STATUS_NONOWNER.put (s.reg R.BEL_STATUS) 1))))

/-- A value written to BEL_SET_CTL: GO, OFS_GO, CANCEL as given, AT_DNC as it stands. -/
def setCtlWrite (v : Word) (s : State) (go ofs cancel : Nat) : Prop :=
  F.BEL_SET_CTL_GO.get v = go ∧ F.BEL_SET_CTL_OFS_GO.get v = ofs ∧ F.BEL_SET_CTL_CANCEL.get v = cancel ∧
  F.BEL_SET_CTL_AT_DNC.get v = s.fld R.BEL_SET_CTL F.BEL_SET_CTL_AT_DNC

/-- R45 to R49. -/
def Obligations.SetControl : Prop :=
  ∀ (a : Agent) (v : Word) (s : State), answers a R.BEL_SET_CTL s = true → ownsTime a s = true →
    (setCtlWrite v s 1 0 0 → s.bel.setPend = none → (s.reg R.BEL_SET_NS).toNat ≤ 999999999 →
      ∃ t, exec (.timeSetGo a v) s = .next t ∧ RegsBut [R.BEL_SET_CTL] s t ∧
        t.reg R.BEL_SET_CTL = F.BEL_SET_CTL_GO.put (s.reg R.BEL_SET_CTL) 1 ∧
        t = { s with regs := t.regs, bel := { s.bel with setPend := t.bel.setPend } } ∧
        t.bel.setPend = some (Tod.mk ((s.reg R.BEL_SET_SEC_LO).toNat + 2 ^ 32 * s.fld R.BEL_SET_SEC_HI F.BEL_SET_SEC_HI_SEC)
          (s.reg R.BEL_SET_NS).toNat (2 ^ 24 * s.fld R.BEL_SET_FRAC F.BEL_SET_FRAC_FRAC),
          if s.fld R.BEL_SET_CTL F.BEL_SET_CTL_AT_DNC = 1 then
            some ((s.reg R.BEL_SET_DNC_LO).toNat + 2 ^ 32 * s.fld R.BEL_SET_DNC_HI F.BEL_SET_DNC_HI_DNC) else none)) ∧
    (setCtlWrite v s 1 0 0 → s.bel.setPend = none → 999999999 < (s.reg R.BEL_SET_NS).toNat →
      ∃ t, exec (.timeSetGo a v) s = .next t ∧ RegsBut [R.BEL_STATUS] s t ∧ t = { s with regs := t.regs } ∧
        t.reg R.BEL_STATUS = F.BEL_STATUS_SET_RANGE.put (s.reg R.BEL_STATUS) 1) ∧
    (setCtlWrite v s 1 0 0 → s.bel.setPend.isSome = true →
      ∃ t, exec (.timeSetGo a v) s = .next t ∧ RegsBut [] s t ∧ t = { s with regs := t.regs }) ∧
    (setCtlWrite v s 0 1 0 → expertOn s 0 = true → s.bel.ofsPend = none →
      ∃ t, exec (.ofsGo a v) s = .next t ∧ RegsBut [R.BEL_SET_CTL] s t ∧
        t.reg R.BEL_SET_CTL = F.BEL_SET_CTL_OFS_GO.put (s.reg R.BEL_SET_CTL) 1 ∧
        t = { s with regs := t.regs, bel := { s.bel with
          ofsPend := some (((s.reg R.BEL_OFS_HI) ++ (s.reg R.BEL_OFS_LO) : BitVec 64).toInt) } }) ∧
    (setCtlWrite v s 0 1 0 → expertOn s 0 = true → s.bel.ofsPend.isSome = true →
      ∃ t, exec (.ofsGo a v) s = .next t ∧ RegsBut [] s t ∧ t = { s with regs := t.regs }) ∧
    (setCtlWrite v s 0 1 0 → expertOn s 0 = false → s.bel.ofsPend = none →
      ∃ t, exec (.ofsGo a v) s = .next t ∧ t.bel = s.bel ∧ t.hbm = s.hbm ∧ t.flag R.GLB_ERR F.GLB_ERR_EXPERT_WR = true) ∧
    (setCtlWrite v s 0 0 1 →
      ∃ t, exec (.cancel a v) s = .next t ∧ RegsBut [R.BEL_SET_CTL] s t ∧ t = { s with regs := t.regs } ∧
        t.reg R.BEL_SET_CTL = F.BEL_SET_CTL_CANCEL.put (s.reg R.BEL_SET_CTL) 1)

/-- A time of day in units of 2^-40 ns. -/
def todUnits (t : Tod) : Int := ((t.sec : Int) * 1000000000 + t.ns) * 2 ^ 40 + t.frac

/-- The generators are stopped and no comparator is due at the present tick. -/
def NothingDue (s : State) : Prop :=
  (∀ g, g < 4 → s.fld (R.BEL_SG_STAT g) F.BEL_SG_STAT_STATE = 0 ∧ (s.gen g).slotDue = false ∧ (s.gen g).stopAt = none) ∧
  (∀ c, c < 16 → cmpDue c s = false)

/-- A tick from `s` to `t` moves the time of day by `d` nanoseconds beside the normal increment (R37, R47). -/
def advancedBy (d : Int) (s t : State) : Prop :=
  t.bel.tod.ok ∧ (todUnits t.bel.tod - (todUnits s.bel.tod + 2 ^ 40 + freqAdj s + d * 2 ^ 40)) % (2 ^ 48 * 1000000000 * 2 ^ 40) = 0

/-- R37, R39, R45, R47 to R50. -/
def Obligations.TicksMoveTime : Prop :=
  (∀ s : State, Sound s → s.chm.held = false →
    ∃ t, exec .tick s = .next t ∧ t.bel.dnc = (s.bel.dnc + 1) % 2 ^ 64 ∧ t.pending = s.pending) ∧
  (∀ s : State, Sound s → s.chm.held = false → NothingDue s →
    (setDueAt s (s.bel.dnc + 1) = false → s.bel.ofsPend = none → cancelPending s = false →
      ∃ t, exec .tick s = .next t ∧ t = { s with bel := t.bel } ∧ advancedBy 0 s t) ∧
    (∀ x w, s.bel.setPend = some (x, w) → setDueAt s (s.bel.dnc + 1) = true → cancelPending s = false →
      ∃ t, exec .timeSetApply s = .next t ∧ t = { s with regs := t.regs, bel := t.bel } ∧
        t.bel.tod = x ∧ t.bel.dnc = (s.bel.dnc + 1) % 2 ^ 64 ∧ t.bel.setPend = none ∧ t.bel.ofsPend = none ∧
        RegsBut [R.BEL_SET_CTL, R.BEL_STATUS] s t ∧ t.flag R.BEL_STATUS F.BEL_STATUS_TIME_STEPPED = true ∧
        t.fld R.BEL_STATUS F.BEL_STATUS_TSTATE = 1 ∧ t.flag R.BEL_SET_CTL F.BEL_SET_CTL_GO = false ∧
        t.flag R.BEL_STATUS F.BEL_STATUS_OFS_LOST = (s.flag R.BEL_STATUS F.BEL_STATUS_OFS_LOST || s.bel.ofsPend.isSome)) ∧
    (∀ o, s.bel.ofsPend = some o → setDueAt s (s.bel.dnc + 1) = false → cancelPending s = false →
      ∃ t, exec .timeOffsetApply s = .next t ∧ t = { s with regs := t.regs, bel := t.bel } ∧ advancedBy o s t ∧
        t.bel.dnc = (s.bel.dnc + 1) % 2 ^ 64 ∧ t.bel.ofsPend = none ∧ t.bel.setPend = s.bel.setPend ∧
        RegsBut [R.BEL_SET_CTL, R.BEL_STATUS] s t ∧ t.flag R.BEL_STATUS F.BEL_STATUS_TIME_STEPPED = true ∧
        t.fld R.BEL_STATUS F.BEL_STATUS_TSTATE = 1 ∧ t.flag R.BEL_SET_CTL F.BEL_SET_CTL_OFS_GO = false) ∧
    (cancelPending s = true →
      ∃ t, exec .timeCancelApply s = .next t ∧ t = { s with regs := t.regs, bel := t.bel } ∧ advancedBy 0 s t ∧
        t.bel.setPend = none ∧ t.bel.ofsPend = none ∧ RegsBut [R.BEL_SET_CTL] s t ∧
        t.flag R.BEL_SET_CTL F.BEL_SET_CTL_GO = false ∧ t.flag R.BEL_SET_CTL F.BEL_SET_CTL_OFS_GO = false ∧
        t.flag R.BEL_SET_CTL F.BEL_SET_CTL_CANCEL = false))

/-- The grid in a generator's registers meets R51, with n symbol starts. -/
def gridMeetsR51 (s : State) (g n : Nat) : Prop :=
  let period := (s.reg (R.BEL_SG_PERIOD g)).toNat
  let sym k := (s.reg (R.BEL_SG_SYM g k)).toNat
  period ∣ 1000000000 ∧ 62500 ≤ period ∧ period ≤ 1000000 ∧ (s.reg (R.BEL_SG_PHASE g)).toNat < period ∧ 1 ≤ n ∧ n ≤ 14 ∧
  sym 0 = 0 ∧ (∀ k, k + 1 < n → sym k < sym (k + 1)) ∧ ∀ k, k < n → sym k < period * 256

/-- A comparator of generator g after its strobe at DNC d (R56, R59). -/
def afterStrobe (s : State) (g c d : Nat) : Cmp :=
  let x := s.cmp c
  if cmpSg s c = g ∧ cmpArmed s c = true then
    if cmpMode s c = 2 then { x with slotHit := true }
    else if cmpMode s c = 3 ∧ x.queue.length < 4 then { x with queue := x.queue ++ [d + x.target % 2 ^ 32] }
    else x
  else x

/-- R51 to R53, R55, R59. -/
def Obligations.SlotGenerators : Prop :=
  (∀ (a : Agent) (g : Fin 4) (v : Word) (s : State), answers a (R.BEL_SG_CTL g) s = true →
    s.fld (R.BEL_SG_STAT g) F.BEL_SG_STAT_STATE = 0 → F.BEL_SG_CTL_EN.get v = 1 →
    gridMeetsR51 s g (F.BEL_SG_CTL_NSYM.get v) →
    ∃ t, exec (.sgEnable a g v) s = .next t ∧ t = { s with regs := t.regs, bel := { s.bel with gens := t.bel.gens } } ∧
      RegsBut [R.BEL_SG_CTL g, R.BEL_SG_STAT g, R.BEL_SG_COUNT g] s t ∧ t.flag (R.BEL_SG_CTL g) F.BEL_SG_CTL_EN = true ∧
      t.fld (R.BEL_SG_CTL g) F.BEL_SG_CTL_NSYM = F.BEL_SG_CTL_NSYM.get v ∧
      t.reg (R.BEL_SG_STAT g) = F.BEL_SG_STAT_STATE.put (s.reg (R.BEL_SG_STAT g)) 1 ∧ t.reg (R.BEL_SG_COUNT g) = 0 ∧
      (t.gen g).period = (s.reg (R.BEL_SG_PERIOD g)).toNat ∧ (t.gen g).phase = (s.reg (R.BEL_SG_PHASE g)).toNat ∧
      (t.gen g).slotDue = false ∧ ∀ k, k ≠ g.val → t.gen k = s.gen k) ∧
  (∀ (a : Agent) (g : Fin 4) (v : Word) (s : State), answers a (R.BEL_SG_CTL g) s = true →
    s.fld (R.BEL_SG_STAT g) F.BEL_SG_STAT_STATE = 0 → F.BEL_SG_CTL_EN.get v = 1 →
    ¬gridMeetsR51 s g (F.BEL_SG_CTL_NSYM.get v) →
    ∃ t, exec (.sgEnable a g v) s = .next t ∧ t = { s with regs := t.regs } ∧ RegsBut [R.BEL_SG_CTL g, R.BEL_SG_STAT g] s t ∧
      t.flag (R.BEL_SG_CTL g) F.BEL_SG_CTL_EN = s.flag (R.BEL_SG_CTL g) F.BEL_SG_CTL_EN ∧
      t.reg (R.BEL_SG_STAT g) = F.BEL_SG_STAT_CFG_ERR.put (s.reg (R.BEL_SG_STAT g)) 1) ∧
  (∀ (a : Agent) (g : Fin 4) (v : Word) (s : State), answers a (R.BEL_SG_CTL g) s = true →
    s.fld (R.BEL_SG_STAT g) F.BEL_SG_STAT_STATE ≠ 0 → F.BEL_SG_CTL_EN.get v = 0 →
    ∃ t, exec (.sgDisable a g v) s = .next t ∧ t = { s with regs := t.regs, bel := { s.bel with gens := t.bel.gens } } ∧
      RegsBut [R.BEL_SG_CTL g] s t ∧ t.flag (R.BEL_SG_CTL g) F.BEL_SG_CTL_EN = false ∧
      t.gen g = { s.gen g with stopAt := some ((s.gen g).stopAt.getD (s.bel.dnc + 1)) } ∧ ∀ k, k ≠ g.val → t.gen k = s.gen k) ∧
  (∀ (g : Fin 4) (s : State) (d : Nat), (s.gen g).stopAt = some d → d ≤ s.bel.dnc →
    ∃ t, exec (.sgStop g) s = .next t ∧
      t = { s with regs := t.regs, bel := { s.bel with gens := t.bel.gens, cmps := t.bel.cmps } } ∧ RegsBut [R.BEL_SG_STAT g] s t ∧
      t.reg (R.BEL_SG_STAT g) = F.BEL_SG_STAT_STATE.put (s.reg (R.BEL_SG_STAT g)) 0 ∧ t.gen g = {} ∧
      (∀ c, c < 16 → cmpSg s c = g → (t.cmp c).queue = [] ∧ (t.cmp c).slotHit = false) ∧
      ∀ c, c < 16 → cmpSg s c ≠ g → t.cmp c = s.cmp c) ∧
  (∀ (g : Fin 4) (s : State), (s.gen g).slotDue = true → (s.gen g).stopAt = none → s.chm.request = none → rfiSg s ≠ g →
    s.rfi.mode = 0 →
    ∃ t, exec (.slotStrobe g) s = .next t ∧
      t = { s with regs := t.regs, chm := { s.chm with ovr := t.chm.ovr }, out := s.out ++ [.strobe 0 g 0 s.bel.dnc]
                   bel := { s.bel with gens := t.bel.gens, cmps := t.bel.cmps } } ∧
      RegsBut (R.BEL_SG_COUNT g :: R.BEL_SG_DNC_LO g :: R.BEL_SG_DNC_HI g :: R.BEL_SG_STAT g ::
        (List.range 16).map R.BEL_CMP_STAT) s t ∧
      t.reg (R.BEL_SG_COUNT g) = s.reg (R.BEL_SG_COUNT g) + 1 ∧ t.pair (R.BEL_SG_DNC_LO g) (R.BEL_SG_DNC_HI g) = s.bel.dnc % 2 ^ 64 ∧
      t.fld (R.BEL_SG_STAT g) F.BEL_SG_STAT_STATE = 2 ∧ (∀ c, c < 16 → t.cmp c = afterStrobe s g c s.bel.dnc) ∧
      (t.gen g).slotDue = false ∧ (t.gen g).nextSym = 0) ∧
  (∀ (g : Fin 4) (s : State), symbolDue g s = true →
    ∃ t, exec (.symbolStrobe g) s = .next t ∧
      t = { s with bel := { s.bel with gens := t.bel.gens }, out := s.out ++ [.strobe 1 g (s.gen g).nextSym s.bel.dnc] } ∧
      t.gen g = { s.gen g with nextSym := (s.gen g).nextSym + 1 })

/-- May comparator c be armed in mode m with generator g (R56, R58, R73)? -/
def armable (s : State) (c m g : Nat) : Prop :=
  m < 4 ∧ (m < 2 → expertOn s 0 = true) ∧ (m = 1 → 1000 ≤ (s.reg (R.BEL_CMP_PERIOD c)).toNat) ∧
  (m = 3 → (s.reg (R.BEL_CMP_TGT_LO c)).toNat < 2 * (s.reg (R.BEL_SG_PERIOD g)).toNat)

/-- What a comparator that fires at DNC d keeps, by its mode (R56, R57, R59). -/
def firedCmp (s : State) (c d : Nat) : Cmp :=
  let x := s.cmp c
  if cmpMode s c = 1 then { x with target := (x.target + (s.reg (R.BEL_CMP_PERIOD c)).toNat) % 2 ^ 40, cmpFrom := d + 1 }
  else if cmpMode s c = 2 then { x with slotHit := false }
  else if cmpMode s c = 3 then { x with queue := x.queue.tail }
  else x

/-- R56 to R60, R73. -/
def Obligations.Comparators : Prop :=
  (∀ (a : Agent) (c : Fin 16) (v : Word) (s : State), answers a (R.BEL_CMP_CTL c) s = true → cmpArmed s c = false →
    F.BEL_CMP_CTL_ARM.get v = 1 → armable s c (F.BEL_CMP_CTL_MODE.get v) (F.BEL_CMP_CTL_SG.get v) →
    ∃ t, exec (.cmpArm a c v) s = .next t ∧ t = { s with regs := t.regs, bel := { s.bel with cmps := t.bel.cmps } } ∧
      RegsBut [R.BEL_CMP_CTL c] s t ∧ cmpArmed t c = true ∧ cmpMode t c = F.BEL_CMP_CTL_MODE.get v ∧
      cmpSg t c = F.BEL_CMP_CTL_SG.get v ∧ t.fld (R.BEL_CMP_CTL c) F.BEL_CMP_CTL_DEST = F.BEL_CMP_CTL_DEST.get v ∧
      t.cmp c = { target := (s.cmp c).target, cmpFrom := s.bel.dnc + 1, slotHit := false, queue := [] } ∧
      ∀ k, k ≠ c.val → t.cmp k = s.cmp k) ∧
  (∀ (a : Agent) (c : Fin 16) (v : Word) (s : State), answers a (R.BEL_CMP_CTL c) s = true → cmpArmed s c = false →
    F.BEL_CMP_CTL_ARM.get v = 1 → expertOn s 0 = true →
    (F.BEL_CMP_CTL_MODE.get v = 1 ∧ (s.reg (R.BEL_CMP_PERIOD c)).toNat < 1000) ∨ (F.BEL_CMP_CTL_MODE.get v = 3 ∧
      2 * (s.reg (R.BEL_SG_PERIOD (F.BEL_CMP_CTL_SG.get v))).toNat ≤ (s.reg (R.BEL_CMP_TGT_LO c)).toNat) →
    ∃ t, exec (.cmpArm a c v) s = .next t ∧ t = { s with regs := t.regs } ∧ RegsBut [R.BEL_CMP_CTL c, R.BEL_CMP_STAT c] s t ∧
      cmpArmed t c = false ∧ t.flag (R.BEL_CMP_STAT c) F.BEL_CMP_STAT_CFG_ERR = true) ∧
  (∀ (a : Agent) (c : Fin 16) (v : Word) (s : State), answers a (R.BEL_CMP_CTL c) s = true → cmpArmed s c = true →
    F.BEL_CMP_CTL_ARM.get v = 0 → (2 ≤ F.BEL_CMP_CTL_MODE.get v ∨ expertOn s 0 = true) → F.BEL_CMP_CTL_MODE.get v < 4 →
    ∃ t, exec (.cmpDisarm a c v) s = .next t ∧ t = { s with regs := t.regs, bel := { s.bel with cmps := t.bel.cmps } } ∧
      RegsBut [R.BEL_CMP_CTL c] s t ∧ cmpArmed t c = false ∧ (t.cmp c).queue = [] ∧ ∀ k, k ≠ c.val → t.cmp k = s.cmp k) ∧
  (∀ (a : Agent) (c : Fin 16) (v : Word) (s : State), answers a (R.BEL_CMP_TGT_LO c) s = true →
    ∃ t, exec (.cmpTargetLoad a c v) s = .next t ∧ t = { s with regs := t.regs, bel := { s.bel with cmps := t.bel.cmps } } ∧
      RegsBut [R.BEL_CMP_TGT_LO c] s t ∧ t.reg (R.BEL_CMP_TGT_LO c) = v ∧
      (t.cmp c).target = v.toNat + 2 ^ 32 * s.fld (R.BEL_CMP_TGT_HI c) F.BEL_CMP_TGT_HI_TGT ∧
      (t.cmp c).cmpFrom = s.bel.dnc + 1 ∧ ∀ k, k ≠ c.val → t.cmp k = s.cmp k) ∧
  (∀ (c : Fin 16) (s : State), cmpDue c s = true → s.fld (R.BEL_CMP_CTL c) F.BEL_CMP_CTL_DEST < 8 →
    ∃ t, exec (.cmpFire c) s = .next t ∧
      t = { s with regs := t.regs, bel := { s.bel with cmps := t.bel.cmps }
                   out := if s.fld (R.BEL_CMP_CTL c) F.BEL_CMP_CTL_DEST = 0 then s.out
                     else s.out ++ [.strobe 2 c (s.fld (R.BEL_CMP_CTL c) F.BEL_CMP_CTL_DEST) s.bel.dnc] } ∧
      RegsBut [R.BEL_CMP_CTL c, R.BEL_CMP_STAT c, R.BEL_CMP_FIRE_LO c, R.BEL_CMP_FIRE_HI c] s t ∧
      cmpArmed t c = (cmpMode s c != 0) ∧ cmpMode t c = cmpMode s c ∧ t.flag (R.BEL_CMP_STAT c) F.BEL_CMP_STAT_FIRED = true ∧
      t.pair (R.BEL_CMP_FIRE_LO c) (R.BEL_CMP_FIRE_HI c) = s.bel.dnc % 2 ^ 64 ∧ t.cmp c = firedCmp s c s.bel.dnc ∧
      ∀ k, k ≠ c.val → t.cmp k = s.cmp k) ∧
  (∀ (c : Fin 16) (s : State), cmpDue c s = true → 8 ≤ s.fld (R.BEL_CMP_CTL c) F.BEL_CMP_CTL_DEST →
    ∃ t, exec (.cmpFire c) s = .next t ∧
      t = { s with regs := t.regs, bel := { s.bel with cmps := t.bel.cmps }, host := t.host, hostMem := t.hostMem, out := t.out } ∧
      t.flag (R.BEL_CMP_STAT c) F.BEL_CMP_STAT_FIRED = true ∧
      t.pair (R.BEL_CMP_FIRE_LO c) (R.BEL_CMP_FIRE_HI c) = s.bel.dnc % 2 ^ 64 ∧ t.cmp c = firedCmp s c s.bel.dnc)

/-- R61, R62. -/
def Obligations.PulsePerSecond : Prop :=
  (∀ s : State, s.bel.ppsDue = true → s.flag R.BEL_PPSOUT_CTL F.BEL_PPSOUT_CTL_EN = true →
    exec .ppsOutAssert s = .next { s with bel := { s.bel with
      ppsDue := false, ppsHigh := true, ppsEnd := s.bel.dnc + 1000 * (s.reg R.BEL_PPSOUT_WIDTH).toNat } }) ∧
  (∀ s : State, s.bel.ppsHigh = true → s.bel.ppsEnd ≤ s.bel.dnc →
    exec .ppsOutWidthEnd s = .next { s with bel := { s.bel with ppsHigh := false } }) ∧
  (∀ (falling : Bool) (s : State), s.flag R.BEL_PPSIN_CTL F.BEL_PPSIN_CTL_EN = true →
    s.flag R.BEL_PPSIN_CTL F.BEL_PPSIN_CTL_EDGE = falling → s.bel.tod.ok →
    ∃ t, exec (.ppsInEdge falling) s = .next t ∧ t = { s with regs := t.regs } ∧
      RegsBut [R.BEL_PPSIN_NS, R.BEL_PPSIN_SEC_LO, R.BEL_PPSIN_SEC_HI, R.BEL_PPSIN_DNC_LO, R.BEL_PPSIN_DNC_HI, R.BEL_PPSIN_CNT] s t ∧
      (t.reg R.BEL_PPSIN_NS).toNat = s.bel.tod.ns ∧ t.pair R.BEL_PPSIN_SEC_LO R.BEL_PPSIN_SEC_HI = s.bel.tod.sec ∧
      t.pair R.BEL_PPSIN_DNC_LO R.BEL_PPSIN_DNC_HI = s.bel.dnc % 2 ^ 64 ∧
      t.fld R.BEL_PPSIN_CNT F.BEL_PPSIN_CNT_CNT = (s.fld R.BEL_PPSIN_CNT F.BEL_PPSIN_CNT_CNT + 1) % 2 ^ 16) ∧
  (∀ (falling : Bool) (s : State), (s.flag R.BEL_PPSIN_CTL F.BEL_PPSIN_CTL_EN = false ∨
      s.flag R.BEL_PPSIN_CTL F.BEL_PPSIN_CTL_EDGE ≠ falling) → exec (.ppsInEdge falling) s = .next s)

/-- Registers that no reset clears: what is fused. -/
def fusedRegs : List Nat := [R.GLB_TILEMAP, R.GLB_CAPS, R.SPK_UID_LO, R.SPK_UID_HI]

/-- R463, R509, R518, R532, R536. -/
def Obligations.ColdAndWarmReset : Prop :=
  (∀ (g : Fin 4) (s : State), ∀ c ∈ [Instr.porstNAssert, .pgFall g], ∃ t, exec c s = .next t ∧
    t = { regs := t.regs, nav := t.nav, hbm := t.hbm, free := t.free, hostMem := s.hostMem, out := s.out, pending := s.pending,
          rfi := { devclk := s.rfi.devclk },
          chm := { held := true, perst := s.chm.perst, flash := s.chm.flash, keys := s.chm.keys,
                   nv := { clk := 3, volt := 3, shown := 3, nonlin := s.chm.nv.nonlin },
                   cl := { clk := 2, volt := 2, shown := 2, nonlin := s.chm.cl.nonlin } } } ∧
    (∀ off ∈ fusedRegs, t.reg off = s.reg off) ∧
    (∀ off, off ∉ fusedRegs → off ≠ R.CHM_BOOT_STAT → t.reg off = resetVal off) ∧
    t.fld R.CHM_BOOT_STAT F.CHM_BOOT_STAT_REVOKED = s.fld R.CHM_BOOT_STAT F.CHM_BOOT_STAT_REVOKED ∧
    ∀ i, i < 32 → t.tile i = { sram := (t.tile i).sram, acc := (t.tile i).acc }) ∧
  (∀ (b p : Fin 4) (e : Bool) (s : State), s.chm.held = true → ∃ t, exec (.porstNRelease b p e) s = .next t ∧
    t = { s with regs := t.regs, units := t.units, bel := {}, chm := { s.chm with held := false, txLow := decide (2 ≤ p.val) }
                 mem := { s.mem with upperDenied := decide (2 ≤ p.val) }, spk := { s.spk with off := decide (2 ≤ p.val) } } ∧
    RegsBut [R.CHM_BOOT_STAT, R.CRY_TWIN_STAT, R.CHM_PROF_STAT, R.CHM_TILE_PWR, R.MEM_STAT] s t ∧
    bootSrc t = b ∧ t.fld R.CHM_BOOT_STAT F.CHM_BOOT_STAT_PROFILE = p ∧ t.flag R.CHM_BOOT_STAT F.CHM_BOOT_STAT_TWIN_EN = e ∧
    t.flag R.CRY_TWIN_STAT F.CRY_TWIN_STAT_STRAP = e ∧ curProfile t = min p.val 2 ∧
    t.fld R.MEM_STAT F.MEM_STAT_SELFREF = (if 2 ≤ p.val then 15 else 0) ∧
    ∀ u ∈ allUnits, (t.unit u.1 u.2).eff = effective t u.1 u.2 ∧ (t.unit u.1 u.2).mgmt = (s.unit u.1 u.2).mgmt) ∧
  (∀ (b p : Fin 4) (e : Bool) (s : State), s.chm.held = false → exec (.porstNRelease b p e) s = .next s) ∧
  (∀ s : State, alive s = true → ∃ t, exec .sysrstN s = .next t ∧
    t = { regs := t.regs, nav := t.nav, free := t.free, bel := { s.bel with setPend := none, ofsPend := none, gens := [], cmps := t.bel.cmps }
          mem := { poison := s.mem.poison, corrected := s.mem.corrected, upperDenied := s.mem.upperDenied }
          rfi := { devclk := s.rfi.devclk }, units := s.units, spk := { off := s.spk.off }, host := { link := s.host.link }
          hbm := s.hbm, hostMem := s.hostMem, out := s.out, pending := s.pending
          chm := { s.chm with cmd := none, session := 0, totals := [], pldm := 0, comp := 0, ovr := 0 } } ∧
    (∀ off, warmReg off = false → off ∉ [R.CRY_TWIN_STAT, R.MEM_STAT] → t.reg off = resetVal off) ∧ startOf t = 3 ∧
    t.flag R.GLB_RST_CAUSE F.GLB_RST_CAUSE_SYSRST = true ∧
    (∀ g, g < 4 → t.fld (R.BEL_SG_STAT g) F.BEL_SG_STAT_STATE = 0 ∧ t.flag (R.BEL_SG_CTL g) F.BEL_SG_CTL_EN = false) ∧
    ∀ k, k < 16 → cmpArmed t k = false ∧ (t.cmp k).queue = [] ∧ (t.cmp k).target = (s.cmp k).target) ∧
  (∀ s : State, alive s = false → exec .sysrstN s = .next s)

/-- What a reset of the PCI Express class leaves of the host interface and of time (R347, R464, R469). -/
def perstLeaves (bit : Fld) (s t : State) : Prop :=
  t.host.rings = [] ∧ t.host.polls = [] ∧ t.host.backlog = [] ∧ isSealed t = false ∧ t.flag R.GLB_RST_CAUSE bit = true ∧
  (∀ f, f < 17 → fenced t f = true) ∧ t.bel.tod = s.bel.tod ∧ t.bel.dnc = s.bel.dnc ∧ t.pending = s.pending

/-- R347, R463, R464, R467, R517, R537. -/
def Obligations.PcieResetsAndTrip : Prop :=
  (∀ s : State, alive s = true → s.chm.perst = false → ∃ t, exec .perstN s = .next t ∧ t.chm.perst = true ∧ t.host.link = false ∧
    perstLeaves F.GLB_RST_CAUSE_PERST s t) ∧
  (∀ s : State, s.chm.held = true ∨ s.chm.perst = true → exec .perstN s = .next s) ∧
  (∀ s : State, exec .perstNRelease s = .next { s with chm := { s.chm with perst := false } }) ∧
  (∀ s : State, alive s = true → s.host.link = true → ∃ t, exec .pfFlr s = .next t ∧ t.host.link = true ∧
    perstLeaves F.GLB_RST_CAUSE_PF_FLR s t) ∧
  (∀ s : State, alive s = true → s.host.link = true → ∀ c ∈ [Instr.hotReset, .pcieLinkDown], ∃ t, exec c s = .next t ∧
    t.host.link = false ∧ perstLeaves F.GLB_RST_CAUSE_LINK_DOWN s t) ∧
  (∀ s : State, s.host.link = false → ∀ c ∈ [Instr.pfFlr, .hotReset, .pcieLinkDown], exec c s = .next s) ∧
  (∀ s : State, alive s = true → s.chm.perst = false →
    exec .pcieLinkUp s = .next { s with host := { s.host with link := true } }) ∧
  (∀ s : State, alive s = false ∨ s.chm.perst = true → exec .pcieLinkUp s = .next s) ∧
  (∀ (k : Fin 24) (s : State), alive s = true → ∃ t, exec (.thermtripN k) s = .next t ∧ t.chm = { s.chm with trip := true } ∧
    t.host = {} ∧ t.bel = s.bel ∧ t.hbm = s.hbm ∧ t.hostMem = s.hostMem ∧ t.out = s.out ∧ t.units = s.units ∧ t.pending = s.pending ∧
    (∀ off, warmReg off = true ∨ off < 0x10000 → t.reg off = s.reg off) ∧
    ∀ (a : Agent) (off : Nat), 0x0200000 ≤ off → answers a off t = false) ∧
  (∀ (k : Fin 24) (s : State), alive s = false → exec (.thermtripN k) s = .next s)

/-- Table MGT-2: what a NORMAL start with CHF c needs. -/
def normalStart (s : State) (c : ChfRun) : Prop :=
  s.flag R.CHM_CTL F.CHM_CTL_FORCE_RECOVERY = false ∧ ∃ crf slf man, imageAt s c.bank 2 = some crf ∧ imageAt s c.bank 3 = some slf ∧
    imageAt s c.bank 4 = some man ∧ c.ilevel = imIlevel crf.1 ∧ c.ilevel = imIlevel slf.1 ∧ manifestOk man.2 = true ∧
    listedIn man.2 c.version (imVersion crf.1) (imVersion slf.1) (s.fld R.GLB_ID F.GLB_ID_STEP) = true

/-- Registers that show a start. -/
def startRegs : List Nat := [R.CHM_FW_CHF, R.CHM_FW_CRF, R.CHM_FW_SLF, R.CHM_ILEVEL0, R.CHM_ILEVEL1, R.CHM_BOOT_STAT, R.GLB_STATUS]

/-- The state after a start with START, REASON and the running CHF's version shown. -/
def startShown (t : State) (start reason : Nat) : Prop :=
  startOf t = start ∧ t.fld R.CHM_BOOT_STAT F.CHM_BOOT_STAT_REASON = reason

/-- R481, R483, R489. -/
def Obligations.StartDecided : Prop :=
  ∀ s : State, alive s = true → startOf s = 3 →
    (bootSrc s = 3 → ∃ t, exec .startDecision s = .next t ∧ t = { s with regs := t.regs } ∧ RegsBut startRegs s t ∧ startShown t 2 6) ∧
    (bootSrc s ≠ 3 → ∀ c, s.chm.chf = some c →
      ∃ t, exec .startDecision s = .next t ∧ t = { s with regs := t.regs } ∧ RegsBut startRegs s t ∧
        startShown t (decideBank s c).start (decideBank s c).reason ∧ (t.reg R.CHM_FW_CHF).toNat = c.version % 2 ^ 32 ∧
        ((decideBank s c).start = 0 ↔ normalStart s c)) ∧
    (bootSrc s ≠ 3 → s.chm.chf = none →
      ∃ t, exec .startDecision s = .next t ∧ t = { s with regs := t.regs, chm := { s.chm with chf := (findChf s).1 } } ∧
        RegsBut (R.GLB_ELE_STAT :: startRegs) s t ∧ t.flag R.CHM_BOOT_STAT F.CHM_BOOT_STAT_FALLBACK = (findChf s).2 ∧
        ((findChf s).1 = none → bootSrc s = 0 → startShown t 2 1) ∧ ((findChf s).1 = none → bootSrc s ≠ 0 → startOf t = 3) ∧
        ∀ c, (findChf s).1 = some c → startShown t (decideBank s c).start (decideBank s c).reason) ∧
    (∀ u : State, alive u = false ∨ startOf u ≠ 3 → exec .startDecision u = .next u)

/-- What a fence of VI v with a cause leaves (R469). -/
def viFenced (v cause : Nat) (s t : State) : Prop :=
  (t.host.fences.find? (·.1 == v)).map (·.2.1) = some cause ∧ (∀ f, f ≠ v → fenced t f = fenced s f) ∧
  bitOf (t.reg R.GLB_VIRST_STAT).toNat v = true ∧ bitOf (t.reg R.SE_FENCE_STAT).toNat v = true ∧
  t.bel.tod = s.bel.tod ∧ t.bel.dnc = s.bel.dnc ∧ t.pending = s.pending

/-- R246, R467, R469, R472, R473. -/
def Obligations.VirtualInstanceReset : Prop :=
  (∀ (a : Agent) (v : Word) (s : State), reaches a R.GLB_VIRST s = true → isVf a = false → F.GLB_VIRST_GO.get v = 1 →
    (fenced s (F.GLB_VIRST_VI.get v) = false →
      ∃ t, exec (.viReset a v) s = .next t ∧ viFenced (F.GLB_VIRST_VI.get v) 1 s t) ∧
    (fenced s (F.GLB_VIRST_VI.get v) = true →
      ∃ t, exec (.viReset a v) s = .next t ∧ t = { s with regs := t.regs } ∧ RegsBut [R.GLB_VIRST] s t)) ∧
  (∀ (v : Fin 16) (s : State), s.host.link = true → fenced s v = false → ∃ t, exec (.vfFlr v) s = .next t ∧ viFenced v 2 s t ∧
    t.flag R.GLB_RST_CAUSE F.GLB_RST_CAUSE_VF_FLR = true) ∧
  (∀ (v : Fin 16) (s : State), s.host.link = false → exec (.vfFlr v) s = .next s) ∧
  (∀ (f : Fin 17) (took : BitVec 16) (s : State) (cause n : Nat), s.host.fences.find? (·.1 == f.val) = some (f.val, cause, n) →
    fenceQuiet s f = true → ∃ t, exec (.fenceComplete f took) s = .next t ∧
      t.host.fences = s.host.fences.filter (·.1 != f.val) ∧ fenced t f = false ∧
      t.reg R.SE_FENCE_STAT = clearBit (s.reg R.SE_FENCE_STAT) f ∧ t.reg R.GLB_VIRST_STAT = clearBit (s.reg R.GLB_VIRST_STAT) f ∧
      t.fld R.SE_FENCE_MAX F.SE_FENCE_MAX_NS = max (s.fld R.SE_FENCE_MAX F.SE_FENCE_MAX_NS) took.toNat ∧ t.hbm = s.hbm ∧ t.bel = s.bel ∧
      (2 < cause → t = { s with regs := t.regs, host := { s.host with fences := t.host.fences } }) ∧
      (cause ≤ 2 → f.val < 16 → (∀ k, k < 17 → t.ring f k = {}) ∧
        ∀ off, visPage f ≤ off → off < visPage f + 0x10000 → t.reg off = keepPf off (s.reg off))) ∧
  (∀ (f : Fin 17) (took : BitVec 16) (s : State), fenceQuiet s f = false ∨ fenced s f = false →
    exec (.fenceComplete f took) s = .next s) ∧
  (∀ (i : Fin 32) (s : State), s.host.fences = [] → (s.tile i).zeroing = true → tileState s i ≠ nvLent → (s.tile i).slot = none →
    exec (.unitZeroingDone ⟨1, i⟩) s = .next (s.setTile i { s.tile i with sram := [], acc := [], zeroing := false })) ∧
  (∀ (i : Fin 32) (s : State), s.host.fences = [] → (s.core i).zeroing = true →
    exec (.unitZeroingDone ⟨2, i⟩) s = .next (s.setCore i { s.core i with dmem := [], bad := [], zeroing := false })) ∧
  (∀ (u : UnitRef) (s : State), s.host.fences ≠ [] → exec (.unitZeroingDone u) s = .next s)

/-- R476 to R479, R508, R510, R514. -/
def Obligations.UnitsUnderManagement : Prop :=
  (∀ s : State, alive s = true → s.chm.request = none → ∃ t, exec .reconciliation s = .next t ∧
    t.chm.nvReq = s.fld R.CHM_DVFS F.CHM_DVFS_NV_REQ ∧ t.chm.clReq = s.fld R.CHM_DVFS F.CHM_DVFS_CL_REQ ∧
    t.chm.swept = s.chm.change.isSome ∧ t.bel.dnc = s.bel.dnc ∧ t.pending = s.pending ∧
    (∀ u ∈ allUnits, unitThere s u.1 u.2 = true →
      (t.unit u.1 u.2).mgmt = (s.unit u.1 u.2).mgmt ∧
      (t.unit u.1 u.2).eff = (if effective s u.1 u.2 ≠ 0 ∧ unitData s u.1 u.2 = dBusy then (s.unit u.1 u.2).eff else effective s u.1 u.2) ∧
      (t.unit u.1 u.2).draining = decide (effective s u.1 u.2 ≠ 0 ∧ unitData s u.1 u.2 = dBusy) ∧
      (t.unit u.1 u.2).skew = skews (effective s u.1 u.2) (unitData s u.1 u.2))) ∧
  (∀ s : State, alive s = false → exec .reconciliation s = .next s) ∧
  (∀ (a : Agent) (i : Nat) (v : Word) (s : State), reaches a R.GLB_UNIT_CLR s = true → F.GLB_UNIT_CLR_GO.get v = 1 →
    (unitSel s = (kTile, i) → unitThere s kTile i = true → tileState s i = nvFaulted →
      ∃ t, exec (.glbUnitClr a v) s = .next t ∧ t = { s with regs := t.regs, units := t.units } ∧ RegsBut [R.NAV_STAT i] s t ∧
        tileState t i = nvIdle ∧ (t.unit kTile i).down = false) ∧
    (unitSel s = (kCore, i) → unitThere s kCore i = true → coreState s i = cFaulted →
      ∃ t, exec (.glbUnitClr a v) s = .next t ∧ t = { s with regs := t.regs, units := t.units } ∧
        RegsBut [R.CLO_STAT i, R.CLO_CTL i] s t ∧ coreState t i = cReset ∧ t.flag (R.CLO_CTL i) F.CLO_CTL_EN = false ∧
        (t.unit kCore i).down = false) ∧
    (unitSel s = (kEngine, i) → unitThere s kEngine i = true →
      ∃ t, exec (.glbUnitClr a v) s = .next t ∧ t = { s with regs := t.regs, units := t.units } ∧ RegsBut [] s t ∧
        (t.unit kEngine i).down = false ∧ (t.unit kEngine i).mgmt = (s.unit kEngine i).mgmt)) ∧
  (∀ (a : Agent) (v : Word) (s : State), reaches a R.GLB_UNIT_CLR s = true → F.GLB_UNIT_CLR_GO.get v = 0 →
    ∃ t, exec (.glbUnitClr a v) s = .next t ∧ t = { s with regs := t.regs } ∧ RegsBut [] s t)

/-- A write of RFI_CTL sets an enable bit that was clear. -/
def linkStarts (v : Word) (s : State) (en : Fld) : Prop := s.fld R.RFI_CTL en = 0 ∧ en.get v = 1
/-- It clears one that was set. -/
def linkStops (v : Word) (s : State) (en : Fld) : Prop := s.fld R.RFI_CTL en = 1 ∧ en.get v = 0

/-- R75 to R77, R82, R83. -/
def Obligations.ConverterLinks : Prop :=
  (∀ (a : Agent) (v : Word) (s : State), reaches a R.RFI_CTL s = true →
    ∃ t, exec (.jesdLinkEnable a v) s = .next t ∧ RegsBut [R.RFI_CTL, R.RFI_STAT, R.GLB_ISL_STAT 6] s t ∧
      t = { s with regs := t.regs, rfi := { s.rfi with rxOn := t.rfi.rxOn, txOn := t.rfi.txOn, marked := t.rfi.marked } } ∧
      t.fld R.RFI_CTL F.RFI_CTL_RX_EN = F.RFI_CTL_RX_EN.get v ∧ t.fld R.RFI_CTL F.RFI_CTL_TX_EN = F.RFI_CTL_TX_EN.get v ∧
      (linkStarts v s F.RFI_CTL_RX_EN → linkValid (s.reg R.RFI_JRX_CFG) 10 s.rfi.devclk = true →
        t.rfi.rxOn = true ∧ t.rfi.marked = false ∧
        t.fld (R.GLB_ISL_STAT 6) F.GLB_ISL_STAT_FREQ_MHZ = s.rfi.devclk * s.fld R.RFI_JRX_CFG F.RFI_JRX_CFG_CLKMUL / 8000) ∧
      (linkStarts v s F.RFI_CTL_RX_EN → linkValid (s.reg R.RFI_JRX_CFG) 10 s.rfi.devclk = false →
        t.rfi.rxOn = s.rfi.rxOn ∧ t.flag R.RFI_STAT F.RFI_STAT_CFG_ERR = true) ∧
      (linkStops v s F.RFI_CTL_RX_EN → t.rfi.rxOn = false ∧ t.flag R.RFI_STAT F.RFI_STAT_RX_LOCK = false) ∧
      (s.fld R.RFI_CTL F.RFI_CTL_RX_EN = F.RFI_CTL_RX_EN.get v → t.rfi.rxOn = s.rfi.rxOn ∧ t.rfi.marked = s.rfi.marked) ∧
      (linkStarts v s F.RFI_CTL_TX_EN → linkValid (s.reg R.RFI_JTX_CFG) 8 s.rfi.devclk = true → t.rfi.txOn = true) ∧
      (linkStarts v s F.RFI_CTL_TX_EN → linkValid (s.reg R.RFI_JTX_CFG) 8 s.rfi.devclk = false →
        t.rfi.txOn = s.rfi.txOn ∧ t.flag R.RFI_STAT F.RFI_STAT_CFG_ERR = true) ∧
      (linkStops v s F.RFI_CTL_TX_EN → t.rfi.txOn = false ∧ t.flag R.RFI_STAT F.RFI_STAT_TX_LOCK = false) ∧
      (s.fld R.RFI_CTL F.RFI_CTL_TX_EN = F.RFI_CTL_TX_EN.get v → t.rfi.txOn = s.rfi.txOn)) ∧
  (∀ s : State, s.flag R.RFI_STAT F.RFI_STAT_RX_LOCK = true → ∃ t, exec .rxLockLost s = .next t ∧ EventsOnly [R.RFI_STAT] s t ∧
    t.flag R.RFI_STAT F.RFI_STAT_RX_LOCK = false ∧ t.flag R.RFI_STAT F.RFI_STAT_RX_LOCK_LOST = true ∧
    t.flag R.RFI_STAT F.RFI_STAT_TX_LOCK = s.flag R.RFI_STAT F.RFI_STAT_TX_LOCK) ∧
  (∀ s : State, s.flag R.RFI_STAT F.RFI_STAT_TX_LOCK = true → ∃ t, exec .txLockLost s = .next t ∧ EventsOnly [R.RFI_STAT] s t ∧
    t.flag R.RFI_STAT F.RFI_STAT_TX_LOCK = false ∧ t.flag R.RFI_STAT F.RFI_STAT_TX_LOCK_LOST = true ∧
    t.flag R.RFI_STAT F.RFI_STAT_RX_LOCK = s.flag R.RFI_STAT F.RFI_STAT_RX_LOCK) ∧
  (∀ s : State, s.flag R.RFI_STAT F.RFI_STAT_RX_LOCK = false → exec .rxLockLost s = .next s) ∧
  (∀ s : State, s.flag R.RFI_STAT F.RFI_STAT_TX_LOCK = false → exec .txLockLost s = .next s) ∧
  (∀ s : State, s.rfi.rxOn = true → ∃ t, exec .rxLockGained s = .next t ∧ t = { s with regs := t.regs } ∧
    RegsBut [R.RFI_STAT] s t ∧ t.reg R.RFI_STAT = F.RFI_STAT_RX_LOCK.put (s.reg R.RFI_STAT) 1) ∧
  (∀ s : State, s.rfi.txOn = true → ∃ t, exec .txLockGained s = .next t ∧ t = { s with regs := t.regs } ∧
    RegsBut [R.RFI_STAT] s t ∧ t.reg R.RFI_STAT = F.RFI_STAT_TX_LOCK.put (s.reg R.RFI_STAT) 1) ∧
  (∀ s : State, exec .sysrefEdge s = .next { s with rfi := { s.rfi with aligned := true } })

/-- Receive samples are taken from the own links: INTEGRATED, link started, no twin pair running. -/
def receiving (s : State) : Prop := s.rfi.mode = 1 ∧ s.rfi.rxOn = true ∧ twinRunning s = false

/-- What the link delivers for samples x (R78, R83). -/
def delivered (s : State) (x : List IQ) : List IQ :=
  if s.flag R.RFI_STAT F.RFI_STAT_RX_LOCK then x.map (maskIQ (s.fld R.RFI_JRX_CFG F.RFI_JRX_CFG_N)) else x.map fun _ => ⟨0, 0⟩

/-- Link samples from the marker to the antenna's first sample (R80). -/
def markerSkip (s : State) (clocks : Nat) : Int :=
  (clocks * 4 * s.fld R.RFI_JRX_CFG F.RFI_JRX_CFG_L / s.fld R.RFI_JRX_CFG F.RFI_JRX_CFG_M : Nat) +
    signed 13 (s.fld R.RFI_RX_LAT F.RFI_RX_LAT_SAMPLES)

/-- R78 to R80, R82 to R86, R90, R96, R524. -/
def Obligations.SamplesInAndOut : Prop :=
  (∀ (a : Fin 5) (x : List IQ) (s : State), receiving s → (s.rxAnt a).next = none → s.fld (R.RFI_RXMAP a) F.RFI_RXMAP_DEC = 0 →
    ∃ t, exec (.rxSamples a x) s = .next t ∧
      t.rxAnt a = { s.rxAnt a with count := (s.rxAnt a).count + x.length, part := []
                                   tail := ((s.rxAnt a).tail ++ delivered s x).drop (((s.rxAnt a).tail ++ delivered s x).length - 4096) } ∧
      (∀ k, k ≠ a.val → t.rxAnt k = s.rxAnt k) ∧ t.bel = s.bel ∧ t.pending = s.pending ∧
      (a.val < 4 ∧ s.flag (R.RFI_RXMAP a) F.RFI_RXMAP_EN = true →
        t.hbm = (storeSamples a (s.rxAnt a).slot (s.rxAnt a).count (delivered s x) s).hbm) ∧
      (a.val = 4 ∨ s.flag (R.RFI_RXMAP a) F.RFI_RXMAP_EN = false → t = { s with rfi := { s.rfi with rx := t.rfi.rx } })) ∧
  (∀ (a : Fin 5) (x : List IQ) (s : State), receiving s → (s.rxAnt a).next = none → s.fld (R.RFI_RXMAP a) F.RFI_RXMAP_DEC ≠ 0 →
    ∃ t, exec (.rxSamples a x) s = .next t ∧
      (t.rxAnt a).count = (s.rxAnt a).count + ((s.rxAnt a).part.length + x.length) / decFactor (s.fld (R.RFI_RXMAP a) F.RFI_RXMAP_DEC) ∧
      (t.rxAnt a).part.length = ((s.rxAnt a).part.length + x.length) % decFactor (s.fld (R.RFI_RXMAP a) F.RFI_RXMAP_DEC) ∧
      (∀ k, k ≠ a.val → t.rxAnt k = s.rxAnt k) ∧ t.bel = s.bel ∧ t.pending = s.pending) ∧
  (∀ (a : Fin 5) (x : List IQ) (s : State), s.rfi.mode ≠ 1 ∨ s.rfi.rxOn = false → exec (.rxSamples a x) s = .next s) ∧
  (∀ (c : BitVec 12) (s : State), s.rfi.mode = 1 → s.rfi.rxOn = true →
    ∃ t, exec (.slotStartMarker c) s = .next t ∧ t.fld R.RFI_STAT F.RFI_STAT_ALIGN_PH = c.toNat ∧ t.rfi.marked = true ∧
      t.bel = s.bel ∧ t.pending = s.pending ∧ (∀ a, a < 5 → t.agcOf a = {}) ∧
      (∀ a, a < 5 → t.flag (R.RFI_AGC_STAT a) F.RFI_AGC_STAT_FROZEN =
        (fastFreeze s a && freezeSrc s a 1 && s.fld (R.RFI_AGC_FRZ a) F.RFI_AGC_FRZ_FREEZE_DLY == 0)) ∧
      (∀ a, a < 5 → 0 < markerSkip s c.toNat → (t.rxAnt a).next = some (slotNow s, (markerSkip s c.toNat).toNat)) ∧
      (∀ a, a < 5 → markerSkip s c.toNat ≤ 0 → (t.rxAnt a).next = none ∧ (t.rxAnt a).slot = slotNow s) ∧
      (s.rfi.marked = true → s.fld R.RFI_STAT F.RFI_STAT_ALIGN_PH + 1 < c.toNat →
        t.flag R.RFI_STAT F.RFI_STAT_ALIGN_JUMP = true)) ∧
  (∀ (c : BitVec 12) (s : State), s.rfi.mode ≠ 1 ∨ s.rfi.rxOn = false → exec (.slotStartMarker c) s = .next s) ∧
  (∀ (k : Fin 4) (x : List IQ) (s : State), s.rfi.mode = 1 → s.rfi.txOn = true → s.flag (R.RFI_TXMAP k) F.RFI_TXMAP_EN = true →
    ∃ t ys, exec (.transmitSamples k x) s = .next t ∧ t.out = s.out ++ [.txSamples k ys] ∧
      t = { s with rfi := { s.rfi with tx := t.rfi.tx }, out := t.out, free := t.free } ∧
      (txMuted s = true → ∀ y ∈ ys, y = mkIQ 0 0) ∧
      (s.fld (R.RFI_TXMAP k) F.RFI_TXMAP_INT = 0 → (t.txChain k).hist = ((s.txChain k).hist ++ x).drop (((s.txChain k).hist ++ x).length - 12)) ∧
      (txMuted s = false → s.fld (R.RFI_TXMAP k) F.RFI_TXMAP_INT = 0 → (s.txChain k).en = false →
        s.flag (R.RFI_DPD_CTL k) F.RFI_DPD_CTL_LT_EN = false → 2 ≤ (s.txChain k).hist.length →
        ys = ((((s.txChain k).hist ++ x).drop ((s.txChain k).hist.length - 2)).take x.length).map
          (maskIQ (s.fld R.RFI_JTX_CFG F.RFI_JTX_CFG_N)))) ∧
  (∀ (k : Fin 4) (x : List IQ) (s : State), s.rfi.mode ≠ 1 ∨ s.rfi.txOn = false ∨ s.flag (R.RFI_TXMAP k) F.RFI_TXMAP_EN = false →
    exec (.transmitSamples k x) s = .next s)

/-- R88, R89, R91 to R93. -/
def Obligations.Predistortion : Prop :=
  (∀ (a : Agent) (k : Fin 4) (v : Word) (s : State), reaches a (R.RFI_DPD_CTL k) s = true → expertOn s 1 = true →
    ∃ t, exec (.dpdSwap a k v) s = .next t ∧ t = { s with regs := t.regs } ∧ RegsBut [R.RFI_DPD_CTL k] s t ∧
      t.fld (R.RFI_DPD_CTL k) F.RFI_DPD_CTL_EN = F.RFI_DPD_CTL_EN.get v ∧ activeBank t k = activeBank s k ∧
      swapPending t k = (swapPending s k || F.RFI_DPD_CTL_SWAP.get v == 1) ∧
      t.fld (R.RFI_DPD_CTL k) F.RFI_DPD_CTL_LT_EN = F.RFI_DPD_CTL_LT_EN.get v ∧
      t.fld (R.RFI_DPD_CTL k) F.RFI_DPD_CTL_LT_DEC = F.RFI_DPD_CTL_LT_DEC.get v) ∧
  (∀ (a : Agent) (k : Fin 4) (v : Word) (s : State), reaches a (R.RFI_DPD_CTL k) s = true → expertOn s 1 = false →
    swapPending s k = false → F.RFI_DPD_CTL_SWAP.get v = 1 →
    ∃ t, exec (.dpdSwap a k v) s = .next t ∧ t.flag R.GLB_ERR F.GLB_ERR_EXPERT_WR = true ∧ swapPending t k = false ∧
      t.fld (R.RFI_DPD_CTL k) F.RFI_DPD_CTL_LT_EN = s.fld (R.RFI_DPD_CTL k) F.RFI_DPD_CTL_LT_EN ∧
      EventsOnly [R.RFI_DPD_CTL k, R.GLB_ERR, R.GLB_DISC] s t) ∧
  (∀ (a : Agent) (k : Fin 4) (b : Fin 2) (w : Fin 384) (v : Word) (s : State), reaches a (bankOff k b w) s = true →
    (swapPending s k = true → ∃ t, exec (.dpdBankWrite a k b w v) s = .next t ∧ t = { s with regs := t.regs } ∧
      RegsBut [R.RFI_DPD_STAT k] s t ∧ t.reg (R.RFI_DPD_STAT k) = F.RFI_DPD_STAT_PEND_WR.put (s.reg (R.RFI_DPD_STAT k)) 1) ∧
    (swapPending s k = false → activeBank s k = b → ∃ t, exec (.dpdBankWrite a k b w v) s = .next t ∧ t = { s with regs := t.regs } ∧
      RegsBut [R.RFI_DPD_STAT k] s t ∧ t.reg (R.RFI_DPD_STAT k) = F.RFI_DPD_STAT_ACT_WR.put (s.reg (R.RFI_DPD_STAT k)) 1) ∧
    (swapPending s k = false → activeBank s k ≠ b → expertOn s 1 = true → ∃ t, exec (.dpdBankWrite a k b w v) s = .next t ∧
      t = { s with regs := t.regs } ∧ RegsBut [bankOff k b w] s t ∧
      (128 ≤ w.val → t.fld (bankOff k b w) F.RFI_DPD_COEF_V = F.RFI_DPD_COEF_V.get v) ∧
      (w.val < 128 → t.fld (bankOff k b w) F.RFI_DPD_TERM_K = F.RFI_DPD_TERM_K.get v ∧
        t.fld (bankOff k b w) F.RFI_DPD_TERM_M = F.RFI_DPD_TERM_M.get v ∧ t.fld (bankOff k b w) F.RFI_DPD_TERM_L = F.RFI_DPD_TERM_L.get v ∧
        t.fld (bankOff k b w) F.RFI_DPD_TERM_VALID = F.RFI_DPD_TERM_VALID.get v))) ∧
  (∀ (k : Fin 4) (c : IQ) (s : State), s.flag (R.RFI_DPD_CTL k) F.RFI_DPD_CTL_LT_EN = true →
    exec (.ltCorrection k c) s = .next (s.setTxChain k { s.txChain k with corr := (s.txChain k).corr ++ [c] }) ∧
    ∃ t, exec (.ltUnder k) s = .next t ∧ RegsBut [R.RFI_DPD_LT_UNDER k] s t ∧ t = { s with regs := t.regs, rfi := t.rfi } ∧
      t.rfi = (s.setTxChain k { s.txChain k with corr := (s.txChain k).corr ++ [⟨0, 0⟩] }).rfi ∧
      t.fld (R.RFI_DPD_LT_UNDER k) F.RFI_DPD_LT_UNDER_CNT =
        min F.RFI_DPD_LT_UNDER_CNT.max (s.fld (R.RFI_DPD_LT_UNDER k) F.RFI_DPD_LT_UNDER_CNT + 1)) ∧
  (∀ (k : Fin 4) (c : IQ) (s : State), s.flag (R.RFI_DPD_CTL k) F.RFI_DPD_CTL_LT_EN = false →
    exec (.ltCorrection k c) s = .next s ∧ exec (.ltUnder k) s = .next s) ∧
  (∀ (a : Agent) (k : Fin 4) (v : Word) (s : State), reaches a (R.RFI_DPD_CAP k) s = true → expertOn s 1 = true →
    F.RFI_DPD_CAP_GO.get v = 1 → ∃ t, exec (.dpdCaptureGo a k v) s = .next t ∧ RegsBut [R.RFI_DPD_CAP k] s t ∧
      (s.rfi.caps.any (·.chain == k.val) = true → t = { s with regs := t.regs }) ∧
      (s.rfi.caps.any (·.chain == k.val) = false →
        t = { s with regs := t.regs, rfi := { s.rfi with caps := t.rfi.caps, orxSel := if s.rfi.caps = [] then k else s.rfi.orxSel } } ∧
        t.rfi.caps = s.rfi.caps ++ [{ chain := k, sym := F.RFI_DPD_CAP_SYM.get v, len := (F.RFI_DPD_CAP_LEN.get v + 1) * 256,
                                      addr := s.pair (R.RFI_DPD_CAP_ADDR_LO k) (R.RFI_DPD_CAP_ADDR_HI k) }])) ∧
  (∀ (c : Capture) (l : List Capture) (s : State), s.rfi.caps = c :: l → s.rfi.capRun = false →
    exec .dpdCaptureStart s = .next { s with rfi := { s.rfi with capRun := true, orxSel := c.chain } }) ∧
  (∀ s : State, s.rfi.caps = [] ∨ s.rfi.capRun = true → exec .dpdCaptureStart s = .next s) ∧
  (∀ (x orx : List IQ) (c : Capture) (l : List Capture) (s : State), s.rfi.caps = c :: l → s.rfi.capRun = true → s.rfi.orxSteps = [] →
    ∃ t, exec (.dpdCaptureDone x orx) s = .next t ∧ t.rfi.caps = l ∧ t.rfi.capRun = false ∧
      t.rfi.orxSel = ((l.head?.map (·.chain)).getD s.rfi.orxSel) ∧ t.flag (R.RFI_DPD_CAP_STAT c.chain) F.RFI_DPD_CAP_STAT_DONE = true ∧
      t.hbm = (deviceWrite 16 c.addr ((fitIQ c.len x ++ fitIQ c.len orx).flatMap iqBytes) s).hbm ∧ t.bel = s.bel ∧ t.pending = s.pending) ∧
  (∀ (x orx : List IQ) (s : State), s.rfi.caps = [] ∨ s.rfi.capRun = false → exec (.dpdCaptureDone x orx) s = .next s)

/-- The channel is frozen at its next grid point (R95, R96). -/
def frozenNext (s : State) (a : Nat) : Bool :=
  s.flag (R.RFI_AGC_STAT a) F.RFI_AGC_STAT_FROZEN ||
    (freezeSrc s a 1 && decide (s.fld (R.RFI_AGC_FRZ a) F.RFI_AGC_FRZ_FREEZE_DLY ≤ (s.agcOf a).grid + 1))

/-- The gain index of a channel. -/
def gainOf (s : State) (a : Nat) : Nat := s.fld (R.RFI_AGC_GAIN a) F.RFI_AGC_GAIN_G

/-- R94 to R100. -/
def Obligations.GainControl : Prop :=
  (∀ (a : Fin 5) (p : BitVec 16) (full : Bool) (i : Word) (s : State), s.rfi.mode = 1 → fastFreeze s a = true →
    frozenNext s a = false → (viaSpi s a = true → ((s.agcOf a).grid + 1) % 4 = 0) → (a.val = 4 → s.rfi.capRun = false) →
    ∃ t, exec (.agcGridPoint a p full i) s = .next t ∧ (t.agcOf a).grid = (s.agcOf a).grid + 1 ∧ t.bel = s.bel ∧ t.pending = s.pending ∧
      gainOf t a = (clampInt (s.fld (R.RFI_AGC_LIM a) F.RFI_AGC_LIM_GMIN) (s.fld (R.RFI_AGC_LIM a) F.RFI_AGC_LIM_GMAX)
        ((gainOf s a : Int) + fastDelta s a p.toInt full)).toNat ∧
      (gainOf t a ≠ gainOf s a → viaSpi s a = true → t.rfi.cnv = queueCnv a (gainOf t a) s.rfi.cnv) ∧
      (gainOf t a ≠ gainOf s a → viaSpi s a = false → Tab.get (fun _ => 0) t.rfi.pins a = gainOf t a ∧
        (t.agcOf a).nchg = (if (s.agcOf a).nchg < 64 then (s.agcOf a).nchg + 1 else (s.agcOf a).nchg)) ∧
      ∀ k, k < 5 → k ≠ a.val → gainOf t k = gainOf s k) ∧
  (∀ (a : Fin 5) (p : BitVec 16) (full : Bool) (i : Word) (s : State), s.rfi.mode = 1 → fastFreeze s a = true →
    frozenNext s a = true → exec (.agcGridPoint a p full i) s = .next (s.setAgc a { s.agcOf a with grid := (s.agcOf a).grid + 1 })) ∧
  (∀ (a : Fin 5) (p : BitVec 16) (full : Bool) (i : Word) (s : State), s.rfi.mode = 1 → fastFreeze s a = true →
    viaSpi s a = true → ((s.agcOf a).grid + 1) % 4 ≠ 0 →
    exec (.agcGridPoint a p full i) s = .next (s.setAgc a { s.agcOf a with grid := (s.agcOf a).grid + 1 })) ∧
  (∀ (p : BitVec 16) (full : Bool) (i : Word) (s : State), s.rfi.mode = 1 → fastFreeze s 4 = true → frozenNext s 4 = false →
    ((s.agcOf 4).grid + 1) % 4 = 0 → s.rfi.capRun = true →
    exec (.agcGridPoint 4 p full i) s = .next { s.setAgc 4 { s.agcOf 4 with grid := (s.agcOf 4).grid + 1 } with
      rfi := { (s.setAgc 4 { s.agcOf 4 with grid := (s.agcOf 4).grid + 1 }).rfi with
        orxSteps := s.rfi.orxSteps ++ [fastDelta s 4 p.toInt full] } }) ∧
  (∀ (a : Fin 5) (p : BitVec 16) (full : Bool) (i : Word) (s : State), s.rfi.mode ≠ 1 ∨ fastFreeze s a = false →
    exec (.agcGridPoint a p full i) s = .next s) ∧
  (∀ (a : Fin 5) (s : State), s.rfi.mode = 1 → fastFreeze s a = true → freezeSrc s a 1 = true →
    ∃ t, exec (.agcFreezeDelay a) s = .next t ∧ t = { s with regs := t.regs } ∧ RegsBut [R.RFI_AGC_STAT a] s t ∧
      t.reg (R.RFI_AGC_STAT a) = F.RFI_AGC_STAT_FROZEN.put (s.reg (R.RFI_AGC_STAT a)) 1) ∧
  (∀ (a : Fin 5) (s : State), s.rfi.mode ≠ 1 ∨ fastFreeze s a = false ∨ freezeSrc s a 1 = false →
    exec (.agcFreezeDelay a) s = .next s) ∧
  (∀ (a : Fin 5) (p : BitVec 16) (i : Word) (s : State), s.rfi.mode = 1 → s.fld (R.RFI_AGC_CTL a) F.RFI_AGC_CTL_MODE = 2 →
    (a.val = 4 → s.rfi.capRun = false) →
    ∃ t, exec (.agcWindowEnd a p i) s = .next t ∧ t.bel = s.bel ∧ t.pending = s.pending ∧
      (∀ k, k < 5 → k ≠ a.val → gainOf t k = gainOf s k) ∧
      (signed 8 (s.fld (R.RFI_AGC_STEPD a) F.RFI_AGC_STEPD_UP_THR) < p.toInt →
        gainOf t a = gainOf s a - 4 / stepQuarters (s.fld (R.RFI_AGC_LIM a) F.RFI_AGC_LIM_STEP)) ∧
      (p.toInt ≤ signed 8 (s.fld (R.RFI_AGC_STEPD a) F.RFI_AGC_STEPD_UP_THR) →
        p.toInt < signed 8 (s.fld (R.RFI_AGC_STEPD a) F.RFI_AGC_STEPD_DN_THR) →
        gainOf t a = min 63 (gainOf s a + 4 / stepQuarters (s.fld (R.RFI_AGC_LIM a) F.RFI_AGC_LIM_STEP))) ∧
      (p.toInt ≤ signed 8 (s.fld (R.RFI_AGC_STEPD a) F.RFI_AGC_STEPD_UP_THR) →
        signed 8 (s.fld (R.RFI_AGC_STEPD a) F.RFI_AGC_STEPD_DN_THR) ≤ p.toInt → t = s)) ∧
  (∀ (g : Agent) (a : Fin 5) (v : Word) (s : State), reaches g (R.RFI_AGC_CTL a) s = true → expertOn s 1 = true →
    F.RFI_AGC_CTL_MODE.get v < 3 →
    ∃ t, exec (.agcModeWrite g a v) s = .next t ∧ t = { s with regs := t.regs } ∧ RegsBut [R.RFI_AGC_CTL a, R.RFI_AGC_STAT a] s t ∧
      (if F.RFI_AGC_CTL_MODE.get v = 2 ∧
          signed 8 (s.fld (R.RFI_AGC_STEPD a) F.RFI_AGC_STEPD_UP_THR) ≤ signed 8 (s.fld (R.RFI_AGC_STEPD a) F.RFI_AGC_STEPD_DN_THR)
        then t.fld (R.RFI_AGC_CTL a) F.RFI_AGC_CTL_MODE = s.fld (R.RFI_AGC_CTL a) F.RFI_AGC_CTL_MODE ∧
          t.flag (R.RFI_AGC_STAT a) F.RFI_AGC_STAT_CFG_ERR = true
        else t.fld (R.RFI_AGC_CTL a) F.RFI_AGC_CTL_MODE = F.RFI_AGC_CTL_MODE.get v ∧
          t.reg (R.RFI_AGC_STAT a) = s.reg (R.RFI_AGC_STAT a)) ∧
      t.fld (R.RFI_AGC_CTL a) F.RFI_AGC_CTL_FREEZE_SRC = F.RFI_AGC_CTL_FREEZE_SRC.get v ∧
      t.fld (R.RFI_AGC_CTL a) F.RFI_AGC_CTL_OUT = F.RFI_AGC_CTL_OUT.get v) ∧
  (∀ (i : Word) (a g : Nat) (l : List (Nat × Nat)) (s : State), s.rfi.cnv = (a, g) :: l →
    ∃ t, exec (.cnvSpiFrame i) s = .next t ∧ t.rfi.cnv = l ∧ t.bel = s.bel ∧ t.pending = s.pending ∧
      (s.out ++ [.spi false a (cnvWord s a g)]) <+: t.out ∧
      (s.fld (R.RFI_AGC_CTL a) F.RFI_AGC_CTL_MODE = 0 →
        t = { s with rfi := { s.rfi with cnv := l }, out := s.out ++ [.spi false a (cnvWord s a g)] }) ∧
      (s.fld (R.RFI_AGC_CTL a) F.RFI_AGC_CTL_MODE ≠ 0 →
        (t.agcOf a).nchg = (if (s.agcOf a).nchg < 64 then (s.agcOf a).nchg + 1 else (s.agcOf a).nchg))) ∧
  (∀ (i : Word) (s : State), s.rfi.cnv = [] → exec (.cnvSpiFrame i) s = .next s)

/-- R101 to R106, R110, R111. -/
def Obligations.PreamblesAndMonitor : Prop :=
  (∀ (a : Agent) (c : Fin 4) (v : Word) (s : State), reaches a (R.RFI_PRA_CTL c) s = true → F.RFI_PRA_CTL_EN.get v = 1 →
    (formatOk (F.RFI_PRA_CTL_FORMAT.get v) (F.RFI_PRA_CTL_LEN.get v) = true →
      ∃ t, exec (.prachEnable a c v) s = .next t ∧ t = { s with regs := t.regs, rfi := { s.rfi with cells := t.rfi.cells } } ∧
        RegsBut [R.RFI_PRA_CTL c] s t ∧ t.flag (R.RFI_PRA_CTL c) F.RFI_PRA_CTL_EN = true ∧
        t.fld (R.RFI_PRA_CTL c) F.RFI_PRA_CTL_FORMAT = F.RFI_PRA_CTL_FORMAT.get v ∧
        (s.flag (R.RFI_PRA_CTL c) F.RFI_PRA_CTL_EN = false → t.radioCell c = { s.radioCell c with ndet := 0, nwr := 0 }) ∧
        ∀ k, k < 16 → k ≠ c.val → t.radioCell k = s.radioCell k) ∧
    (formatOk (F.RFI_PRA_CTL_FORMAT.get v) (F.RFI_PRA_CTL_LEN.get v) = false →
      ∃ t, exec (.prachEnable a c v) s = .next t ∧ t = { s with regs := t.regs } ∧ RegsBut [R.RFI_PRA_CTL c, R.RFI_STAT] s t ∧
        t.flag (R.RFI_PRA_CTL c) F.RFI_PRA_CTL_EN = false ∧ t.reg R.RFI_STAT = F.RFI_STAT_CFG_ERR.put (s.reg R.RFI_STAT) 1)) ∧
  (∀ (c : Fin 4) (s : State), s.rfi.mode = 1 → s.flag (R.RFI_PRA_CTL c) F.RFI_PRA_CTL_EN = true →
    bitOf (s.fld (R.BEL_CMP_CTL (s.fld (R.RFI_PRA_OCC c) F.RFI_PRA_OCC_CMP)) F.BEL_CMP_CTL_DEST) 2 = true →
    exec (.prachOccasion c) s = .next (s.setRadioCell c { s.radioCell c with
      occ := some (s.pair (R.BEL_CMP_FIRE_LO (s.fld (R.RFI_PRA_OCC c) F.RFI_PRA_OCC_CMP))
        (R.BEL_CMP_FIRE_HI (s.fld (R.RFI_PRA_OCC c) F.RFI_PRA_OCC_CMP))) })) ∧
  (∀ (c : Fin 4) (s : State), s.rfi.mode ≠ 1 ∨ s.flag (R.RFI_PRA_CTL c) F.RFI_PRA_CTL_EN = false →
    exec (.prachOccasion c) s = .next s) ∧
  (∀ (c : Fin 16) (peaks : List Peak) (d : Nat) (s : State), s.rfi.mode = 1 → c.val < 4 → (s.radioCell c).occ = some d →
    ∃ t, exec (.preambleDetection c peaks) s = .next t ∧ (t.radioCell c).occ = none ∧ t.bel = s.bel ∧ t.pending = s.pending ∧
      (t.radioCell c).ndet = ((s.radioCell c).ndet + (detected (s.fld (R.RFI_PRA_THR c) F.RFI_PRA_THR_THR) peaks).length) % 2 ^ 32 ∧
      (s.rfi.pdrOff = true → t.hbm = s.hbm ∧ t.reg R.RFI_PDR_PIDX = s.reg R.RFI_PDR_PIDX ∧
        t.fld R.RFI_PDR_DROP F.RFI_PDR_DROP_CNT = min F.RFI_PDR_DROP_CNT.max
          (s.fld R.RFI_PDR_DROP F.RFI_PDR_DROP_CNT + (detected (s.fld (R.RFI_PRA_THR c) F.RFI_PRA_THR_THR) peaks).length)) ∧
      (detected (s.fld (R.RFI_PRA_THR c) F.RFI_PRA_THR_THR) peaks ≠ [] → ∀ k, k < 4 →
        bitOf (s.fld (R.RFI_PRA_CTL c) F.RFI_PRA_CTL_MASK) k = true → fastFreeze s k = true → freezeSrc s k 0 = true →
        t.flag (R.RFI_AGC_STAT k) F.RFI_AGC_STAT_FROZEN = true)) ∧
  (∀ (c : Fin 16) (peaks : List Peak) (s : State), s.rfi.mode = 2 → startBlocked s (rfiSg s) = false →
    ∃ t, exec (.preambleDetection c peaks) s = .next t ∧ t.bel = s.bel ∧ t.pending = s.pending ∧
      (t.radioCell c).ndet = ((s.radioCell c).ndet + (detected 0 peaks).length) % 2 ^ 32) ∧
  (∀ (c : Fin 16) (peaks : List Peak) (s : State), s.rfi.mode = 0 ∨ (s.rfi.mode = 1 ∧ (s.radioCell c).occ = none) →
    exec (.preambleDetection c peaks) s = .next s) ∧
  (∀ (k : Fin 5) (f e : Word) (s : State), s.rfi.mode = 1 → s.fld (R.RFI_AGC_CTL k) F.RFI_AGC_CTL_MODE = 2 →
    s.flag (R.RFI_MON k) F.RFI_MON_EN = true →
    ∃ t, exec (.monitorMeasurement k f e) s = .next t ∧ t = { s with rfi := { s.rfi with cells := t.rfi.cells } } ∧
      (t.radioCell (s.fld (R.RFI_MON k) F.RFI_MON_CELL)).terr = e ∧
      (F.RFI_SYN_CTL_SRC.get s.rfi.synCtl = 0 → (t.radioCell (s.fld (R.RFI_MON k) F.RFI_MON_CELL)).avg =
        (s.radioCell (s.fld (R.RFI_MON k) F.RFI_MON_CELL)).avg) ∧
      (F.RFI_SYN_CTL_SRC.get s.rfi.synCtl = 1 → F.RFI_SYN_CTL_AVG_SHIFT.get s.rfi.synCtl = 0 →
        (s.radioCell (s.fld (R.RFI_MON k) F.RFI_MON_CELL)).avg = 0 →
        (t.radioCell (s.fld (R.RFI_MON k) F.RFI_MON_CELL)).avg = f.toInt) ∧
      ∀ x, x < 16 → x ≠ s.fld (R.RFI_MON k) F.RFI_MON_CELL → t.radioCell x = s.radioCell x) ∧
  (∀ (k : Fin 5) (f e : Word) (s : State), s.rfi.mode ≠ 1 ∨ s.flag (R.RFI_MON k) F.RFI_MON_EN = false →
    exec (.monitorMeasurement k f e) s = .next s)

/-- What an issued bundle leaves of the device: `n` cycles beside its own, of which `o` for operands and `e` for external accesses. -/
def issuedAt (c n o e : Nat) (r : Issued) (s t : State) : Prop :=
  t = { s with regs := t.regs, clo := t.clo, se := { s.se with csl := t.se.csl }, host := (markStartedOpt (s.core c).item s).host } ∧
  (s.flag (R.SE_CSL c) F.SE_CSL_EN = false → t.se = s.se) ∧ t.core c = r.core ∧ (∀ k, k < 16 → k ≠ c → t.core k = s.core k) ∧
  RegsBut [R.CLO_EVP c, R.CLO_STAT c, R.CLO_PERF_CYC c, R.CLO_PERF_OPND c, R.CLO_PERF_EXT c] s t ∧
  evpOf t c = evpOf s c - Nat.land (evpOf s c) r.clear ∧ coreState t c = (if r.ended then cHalted else cRunning) ∧
  t.flag (R.CLO_STAT c) F.CLO_STAT_AOVF = (s.flag (R.CLO_STAT c) F.CLO_STAT_AOVF || r.aovf) ∧
  (t.reg (R.CLO_PERF_CYC c)).toNat = ((s.reg (R.CLO_PERF_CYC c)).toNat + n + r.cycles) % 2 ^ 32 ∧
  (t.reg (R.CLO_PERF_OPND c)).toNat = ((s.reg (R.CLO_PERF_OPND c)).toNat + o) % 2 ^ 32 ∧
  (t.reg (R.CLO_PERF_EXT c)).toNat = ((s.reg (R.CLO_PERF_EXT c)).toNat + e) % 2 ^ 32

/-- R120, R121, R123, R126, R139 to R142, R146. -/
def Obligations.CoresIssue : Prop :=
  (∀ (c : Fin 16) (o e : BitVec 8) (r : Issued) (s : State), coreState s c = cRunning → stopAsked (s.core c) = false → (s.core c).wait = none →
    issue (s.core c) (evpOf s c) = .ok r → (r.ended = true → (s.core c).item = none) →
    ∃ t, exec (.bundleIssue c o e) s = .next t ∧ issuedAt c (o.toNat + e.toNat) o.toNat e.toNat r s t) ∧
  (∀ (c : Fin 16) (o e : BitVec 8) (code : Nat) (s : State), coreState s c = cRunning → stopAsked (s.core c) = false → (s.core c).wait = none → (s.core c).item = none →
    issue (s.core c) (evpOf s c) = .error code → ∃ t, exec (.bundleIssue c o e) s = .next t ∧
      EventsOnly [R.CLO_STAT c, R.CLO_PERF_CYC c, R.CLO_PERF_OPND c, R.CLO_PERF_EXT c] s t ∧ coreState t c = cFaulted ∧
      t.fld (R.CLO_STAT c) F.CLO_STAT_FAULT = code % 2 ^ (F.CLO_STAT_FAULT.hi + 1 - F.CLO_STAT_FAULT.lo) ∧
      t.fld (R.CLO_STAT c) F.CLO_STAT_FAULT_PC = (s.core c).ctx.pc % 2 ^ 12) ∧
  (∀ (c : Fin 16) (o e : BitVec 8) (s : State), coreState s c ≠ cRunning ∨ (s.core c).stopping = true ∨ (s.core c).halting = true ∨ (s.core c).wait ≠ none →
    exec (.bundleIssue c o e) s = .next s) ∧
  (∀ (c : Fin 16) (m : Nat) (r : Issued) (s : State), (s.core c).wait = some m → coreState s c = cRunning → stopAsked (s.core c) = false → Nat.land (evpOf s c) m ≠ 0 →
    issue (s.core c) (evpOf s c) = .ok r → (r.ended = true → (s.core c).item = none) →
    ∃ t, exec (.waitevWake c) s = .next t ∧ issuedAt c 0 0 0 r s t) ∧
  (∀ (c : Fin 16) (s : State), (∀ m, (s.core c).wait = some m → Nat.land (evpOf s c) m = 0 ∨ coreState s c ≠ cRunning) →
    exec (.waitevWake c) s = .next s) ∧
  (∀ (c : Fin 16) (s : State), interruptDue s c = true → exec (.interruptEntry c) s = .next (s.setCore c { s.core c with
    shadow := (s.core c).ctx, handler := true, wait := none
    ctx := { (s.core c).ctx with pc := s.fld (R.CLO_IVEC c) F.CLO_IVEC_BUNDLE, loops := [] } })) ∧
  (∀ (c : Fin 16) (s : State), interruptDue s c = false → exec (.interruptEntry c) s = .next s) ∧
  (∀ (c : Fin 16) (ev : Fin 19) (s : State),
    16 ≤ ev.val ∨ (bitOf (s.fld (R.CLO_STI c) F.CLO_STI_MASK) ev = true ∧ bitOf (s.fld (R.BEL_CMP_CTL ev) F.BEL_CMP_CTL_DEST) 0 = true) →
    ∃ t, exec (.evpEvent c ev) s = .next t ∧ t = { s with regs := t.regs } ∧ bitOf (evpOf t c) ev = true ∧
      (bitOf (evpOf s c) ev = false → RegsBut [R.CLO_EVP c] s t ∧ ∀ k, k < 19 → k ≠ ev.val → bitOf (evpOf t c) k = bitOf (evpOf s c) k) ∧
      (bitOf (evpOf s c) ev = true → RegsBut [R.CLO_EVLOST c, R.CLO_STAT c] s t ∧ t.flag (R.CLO_STAT c) F.CLO_STAT_EVOVF = true ∧
        t.fld (R.CLO_EVLOST c) F.CLO_EVLOST_CNT = min F.CLO_EVLOST_CNT.max (s.fld (R.CLO_EVLOST c) F.CLO_EVLOST_CNT + 1))) ∧
  (∀ (c : Fin 16) (ev : Fin 19) (s : State), ev.val < 16 → bitOf (s.fld (R.CLO_STI c) F.CLO_STI_MASK) ev = false ∨
    bitOf (s.fld (R.BEL_CMP_CTL ev) F.BEL_CMP_CTL_DEST) 0 = false → exec (.evpEvent c ev) s = .next s) ∧
  (∀ (c : Fin 16) (ch : Fin 192) (addr : BitVec 19) (data : List Byte) (w : BitVec 4) (s : State),
    addr.toNat + data.length ≤ dmemSize → mergeBad (s.core c) addr.toNat data.length = false →
    ∃ t, exec (.externalDmemAccess c ch true addr data w) s = .next t ∧ t = { s with regs := t.regs, clo := t.clo } ∧
      t.core c = dmemStore (s.core c) addr.toNat data ∧ (∀ k, k < 16 → k ≠ c.val → t.core k = s.core k) ∧
      RegsBut [R.CLO_PERF_CYC c, R.CLO_PERF_EXT c] s t ∧
      (t.reg (R.CLO_PERF_EXT c)).toNat = ((s.reg (R.CLO_PERF_EXT c)).toNat +
        (if w = 15 ∧ coreState s c = cRunning then 1 else 0)) % 2 ^ 32) ∧
  (∀ (c : Fin 16) (ch : Fin 192) (addr : BitVec 19) (data : List Byte) (w : BitVec 4) (s : State), coreState s c ≠ cRunning ∨ w ≠ 15 →
    (dmemRead (s.core c) addr.toNat data.length 1).toOption.isSome = true →
    exec (.externalDmemAccess c ch false addr data w) s = .next s)

/-- Does a MEM operation store? -/
def memStores : Option MemOp → Bool
  | some (.stvp _ _ _) => true
  | some (.ldstv _ _ _ _) => true
  | some (.sts _ _ _) => true
  | some (.sta _ _) => true
  | _ => false

/-- The bundle at the core's PC is `b`, and issues with events `evp`. -/
def issuesAs (x : Core) (evp : Nat) (b : Bundle) (r : Issued) : Prop :=
  x.bundle x.ctx.pc = some b ∧ issue x evp = .ok r ∧ r.waiting = false

/-- R116, R123, R128 to R142. -/
def Obligations.BundleEffects : Prop :=
  (∀ (x : Core) (evp : Nat) (b : Bundle) (m : Nat), x.bundle x.ctx.pc = some b → b.legal = true → b.sb = .waitev m →
    Nat.land evp m = 0 → ∃ r, issue x evp = .ok r ∧ r.waiting = true ∧ r.core = { x with wait := some m } ∧ r.clear = 0 ∧ r.stores = []) ∧
  ∀ (x : Core) (evp : Nat) (b : Bundle) (r : Issued), issuesAs x evp b r →
    (b.legal = true ∧ r.core.imem = x.imem ∧ r.core.item = x.item ∧ r.core.stopping = x.stopping ∧ r.core.halting = x.halting ∧ r.core.shadow = x.shadow ∧
      (memStores b.mem = false → r.core.dmem = x.dmem ∧ r.core.bad = x.bad ∧ r.stores = [])) ∧
    (∀ k, k ∉ memSWrites b.mem ++ sbSWrites b.sb → r.core.sReg k = x.sReg k) ∧
    (∀ k j, j < 32 → k ∉ (memVWrites b.mem ++ vecVWrites b.va ++ vecVWrites b.vb).map (physV x.ctx.rrb) →
      Tab.get (fun _ => 0) r.core.v (32 * k + j) = Tab.get (fun _ => 0) x.v (32 * k + j)) ∧
    (∀ d g i, b.mem = some (.lds d g i) → ∃ bs, dmemRead x (ea x g i) 4 4 = .ok bs ∧ r.core.sReg d.val = BitVec.ofNat 32 (leNat bs)) ∧
    (∀ d g i, b.mem = some (.sts d g i) → r.core.dmem = x.dmem.write (ea x g i) (leBytes 4 (x.sReg d.val).toNat) ∧
      r.stores = [(ea x g i, 4)]) ∧
    (∀ a d j, b.va = .mova a d → d < 32 → j < 32 → Tab.get (fun _ => 0) r.core.v (32 * physV x.ctx.rrb d + j) =
      narrow x.ctx.scale (x.aLane a j)) ∧
    (∀ m j, b.va = .mac m → m.scalar = false → b.vb = .nop → j < 32 → r.core.aLane m.acc.val j =
      (BitVec.ofInt 40 ((if m.mpy then 0 else x.aLane m.acc.val j) + (x.vLane m.x.val j).toInt * (x.vLane m.y.val j).toInt)).toInt) ∧
    (∀ src n, b.sb = .setscale src n → r.core.ctx.scale = (if src then min 24 (x.sReg n).toNat else n)) ∧
    (∀ wr d, b.sb = .blkend wr d →
      r.core.ctx.scale = (if x.ctx.bfp then nextScale x.ctx.maxmag x.ctx.head else x.ctx.scale) ∧
      (wr = true → r.core.sReg d = BitVec.ofNat 32 x.ctx.scale)) ∧
    (∀ n, b.sb = .rpt false n → 0 < n → r.core.rpt = n ∧ r.core.ctx.pc = (x.ctx.pc + 1) % 4096) ∧
    (∀ len rot n, b.sb = .loop false len rot n → 0 < n → x.rpt ≤ 1 → r.core.ctx.pc = (x.ctx.pc + 1) % 4096 ∧
      r.core.ctx.loops = { count := n, start := (x.ctx.pc + 1) % 4096, last := (x.ctx.pc + len) % 4096, rot := rot } :: x.ctx.loops) ∧
    (∀ m, b.sb = .clrev m → r.clear = m) ∧
    (b.sb = .reti → r.core.ctx = x.shadow ∧ r.core.handler = false ∧ r.core.rpt = 0) ∧
    (r.ended = true ↔ b.sb = .halt) ∧
    (b.sb = .nop → x.rpt ≤ 1 → x.ctx.loops = [] → r.core.ctx.pc = (x.ctx.pc + 1) % 4096 ∧ r.core.rpt = 0) ∧
    (b.sb = .nop → 1 < x.rpt → r.core.ctx.pc = x.ctx.pc ∧ r.core.rpt = x.rpt - 1)

/-- The bits of a value written to CLO_CTL. -/
def cloCtl (v : Word) (en halt step resume clr : Nat) : Prop :=
  F.CLO_CTL_EN.get v = en ∧ F.CLO_CTL_HALT.get v = halt ∧ F.CLO_CTL_STEP.get v = step ∧ F.CLO_CTL_RESUME.get v = resume ∧
  F.CLO_CTL_CLR.get v = clr

/-- R139, R149, R478, R557, R558. -/
def Obligations.CoreControl : Prop :=
  (∀ (a : Agent) (c : Fin 16) (v : Word) (s : State), reaches a (R.CLO_CTL c) s = true →
    (cloCtl v 1 0 0 0 0 → coreState s c = cReset → coreUp s c = true → (s.core c).zeroing = false →
      ∃ t, exec (.coreEnable a c v) s = .next t ∧ RegsBut [R.CLO_CTL c, R.CLO_STAT c] s t ∧
        t = { (s.setCore c ((s.core c).start (s.fld (R.CLO_ENTRY c) F.CLO_ENTRY_BUNDLE))) with regs := t.regs } ∧
        coreState t c = cRunning ∧ t.flag (R.CLO_CTL c) F.CLO_CTL_EN = true) ∧
    (cloCtl v 0 0 0 0 0 → coreState s c = cRunning ∨ coreState s c = cHalted →
      ∃ t, exec (.coreDisable a c v) s = .next t ∧ RegsBut [R.CLO_CTL c] s t ∧
        t = { (s.setCore c { s.core c with stopping := true }) with regs := t.regs } ∧ t.flag (R.CLO_CTL c) F.CLO_CTL_EN = false) ∧
    (cloCtl v 1 1 0 0 0 → expertOn s 2 = true → coreState s c = cRunning →
      ∃ t, exec (.coreHalt a c v) s = .next t ∧ t = { (s.setCore c { s.core c with halting := true }) with regs := t.regs } ∧
        RegsBut [R.CLO_CTL c] s t) ∧
    (cloCtl v 1 0 1 0 0 → expertOn s 2 = true → coreState s c = cHalted → ∀ r, issue (s.core c) (evpOf s c) = .ok r →
      (r.ended = true → (s.core c).item = none) →
      ∃ t, exec (.coreStep a c v) s = .next t ∧ t.core c = r.core ∧ coreState t c = cHalted ∧
        (∀ k, k < 16 → k ≠ c.val → t.core k = s.core k) ∧ RegsBut [R.CLO_CTL c, R.CLO_STAT c, R.CLO_EVP c, R.CLO_PERF_CYC c] s t) ∧
    (cloCtl v 1 0 0 1 0 → expertOn s 2 = true → coreState s c = cHalted →
      ∃ t, exec (.coreResume a c v) s = .next t ∧ t = { s with regs := t.regs } ∧ RegsBut [R.CLO_CTL c, R.CLO_STAT c] s t ∧
        coreState t c = cRunning) ∧
    (F.CLO_CTL_CLR.get v = 1 → coreState s c = cFaulted → expertOn s 2 = true ∨ cloCtl v (F.CLO_CTL_EN.get v) 0 0 0 1 →
      ∃ t, exec (.cloClr a c v) s = .next t ∧ t = { s with regs := t.regs } ∧ RegsBut [R.CLO_CTL c, R.CLO_STAT c] s t ∧
        coreState t c = cReset ∧ t.flag (R.CLO_CTL c) F.CLO_CTL_EN = false)) ∧
  (∀ (c : Fin 16) (s : State), (s.core c).stopping = true → (s.core c).item = none →
    coreState s c = cRunning ∨ coreState s c = cHalted → ∃ t, exec (.coreStop c) s = .next t ∧ RegsBut [R.CLO_STAT c] s t ∧ coreState t c = cReset ∧
      t = { (s.setCore c { s.core c with stopping := false, halting := false, wait := none }) with regs := t.regs }) ∧
  (∀ (c : Fin 16) (s : State), (s.core c).stopping = false → (s.core c).halting = true → coreState s c = cRunning →
    ∃ t, exec (.coreStop c) s = .next t ∧ RegsBut [R.CLO_STAT c] s t ∧ coreState t c = cHalted ∧
      t = { (s.setCore c { s.core c with halting := false }) with regs := t.regs }) ∧
  (∀ (c : Fin 16) (s : State), coreState s c = cReset ∨ coreState s c = cFaulted ∨ ((s.core c).stopping = false ∧ (s.core c).halting = false) →
    exec (.coreStop c) s = .next s) ∧
  (∀ (a : Agent) (c : Fin 16) (w : Word) (s : State), reaches a (R.CLO_IMD c) s = true → expertOn s 2 = true →
    (coreState s c ≠ cRunning → ∃ t, exec (.imemIndirectAccess a c (some w)) s = .next t ∧ RegsBut [R.CLO_IMA c] s t ∧
      t = { (s.setCore c { s.core c with imem := Tab.set (fun _ => 0) (s.core c).imem (s.fld (R.CLO_IMA c) F.CLO_IMA_ADDR) w }) with
            regs := t.regs } ∧
      t.fld (R.CLO_IMA c) F.CLO_IMA_ADDR = (s.fld (R.CLO_IMA c) F.CLO_IMA_ADDR + 1) % 2 ^ 14) ∧
    (coreState s c = cRunning → ∃ t, exec (.imemIndirectAccess a c (some w)) s = .next t ∧ RegsBut [R.CLO_STAT c] s t ∧
      t = { s with regs := t.regs } ∧ t.flag (R.CLO_STAT c) F.CLO_STAT_IMWR = true)) ∧
  (∀ (a : Agent) (c : Fin 16) (s : State), answers a (R.CLO_IMD c) s = true →
    ∃ t, exec (.imemIndirectAccess a c none) s = .next t ∧ RegsBut [R.CLO_IMA c] s t ∧ t = { s with regs := t.regs } ∧
      t.fld (R.CLO_IMA c) F.CLO_IMA_ADDR = (s.fld (R.CLO_IMA c) F.CLO_IMA_ADDR + 1) % 2 ^ 14) ∧
  (∀ (a : Agent) (c : Fin 16) (w : Word) (s : State), reaches a (R.CLO_DMD c) s = true → expertOn s 2 = true →
    (mergeBad (s.core c) (4 * s.fld (R.CLO_DMA c) F.CLO_DMA_ADDR) 4 = false →
      ∃ t, exec (.dmemIndirectAccess a c (some w)) s = .next t ∧ RegsBut [R.CLO_DMA c] s t ∧
        t = { (s.setCore c (dmemStore (s.core c) (4 * s.fld (R.CLO_DMA c) F.CLO_DMA_ADDR) (leBytes 4 w.toNat))) with regs := t.regs } ∧
        t.fld (R.CLO_DMA c) F.CLO_DMA_ADDR = (s.fld (R.CLO_DMA c) F.CLO_DMA_ADDR + 1) % 2 ^ 17) ∧
    (mergeBad (s.core c) (4 * s.fld (R.CLO_DMA c) F.CLO_DMA_ADDR) 4 = true →
      ∃ t, exec (.dmemIndirectAccess a c (some w)) s = .next t ∧ RegsBut [R.CLO_STAT c] s t ∧ t = { s with regs := t.regs } ∧
        t.flag (R.CLO_STAT c) F.CLO_STAT_DMECC = true)) ∧
  (∀ (a : Agent) (c : Fin 16) (s : State), answers a (R.CLO_DMD c) s = true →
    ∃ t, exec (.dmemIndirectAccess a c none) s = .next t ∧ RegsBut [R.CLO_DMA c, R.CLO_STAT c] s t ∧ t = { s with regs := t.regs } ∧
      t.fld (R.CLO_DMA c) F.CLO_DMA_ADDR = (s.fld (R.CLO_DMA c) F.CLO_DMA_ADDR + 1) % 2 ^ 17) ∧
  (∀ (a : Agent) (v : Word) (s : State), reaches a R.CHM_CORE_SIG s = true →
    ∃ t, exec (.chmCoreSig a v) s = .next t ∧ t = { s with regs := t.regs } ∧
      RegsBut ((List.range 16).flatMap fun c => [R.CLO_EVP c, R.CLO_EVLOST c, R.CLO_STAT c]) s t ∧
      ∀ c, c < 16 → (bitOf v.toNat c = true → bitOf (evpOf t c) 17 = true) ∧ (bitOf v.toNat c = false → evpOf t c = evpOf s c))

/-- The state a strobe of cell `c` reads the plan in use in: the strobe noted, the slot's epoch open. -/
def strobed (c : Nat) (s : State) : State :=
  (s.setCell c { s.cell c with seen := ((s.reg (R.BEL_SG_COUNT (fwSg s c))).toNat,
    s.pair (R.BEL_SG_DNC_LO (fwSg s c)) (R.BEL_SG_DNC_HI (fwSg s c))) }).setFld (R.FWL_CELL_EPOCH c) F.FWL_CELL_EPOCH_EPOCH
      ((s.reg (R.BEL_SG_COUNT (fwSg s c))).toNat % 65536)

/-- A strobe of cell `c` that has not been seen comes, after the start. -/
def strobeDue (c : Nat) (s : State) : Prop :=
  startOf s < 2 ∧ (s.cell c).seen ≠ ((s.reg (R.BEL_SG_COUNT (fwSg s c))).toNat, s.pair (R.BEL_SG_DNC_LO (fwSg s c)) (R.BEL_SG_DNC_HI (fwSg s c)))

/-- The Freewheel and the cell are enabled and the pair is not halted. -/
def cellOn (c : Nat) (s : State) : Prop :=
  s.flag R.FWL_CTL F.FWL_CTL_EN = true ∧ s.flag (R.FWL_CELL_CTL c) F.FWL_CELL_CTL_EN = true ∧ twinHalted s = false

/-- R28, R151, R153 to R157. -/
def Obligations.PlansAndAdmission : Prop :=
  (∀ (a : Agent) (c : Fin 16) (v : Word) (s : State), answers a (R.FWL_CELL_NEXT_LO c) s = true →
    ∃ t, exec (.planArm a c v) s = .next t ∧ t = { s with regs := t.regs, fwl := t.fwl } ∧ RegsBut [R.FWL_CELL_NEXT_LO c] s t ∧
      t.reg (R.FWL_CELL_NEXT_LO c) = v ∧ (∀ k, k ≠ c.val → t.cell k = s.cell k) ∧
      t.cell c = { s.cell c with arm := some (v.toNat + 2 ^ 32 * (s.reg (R.FWL_CELL_NEXT_HI c)).toNat, false) }) ∧
  (∀ (c : Fin 16) (addr : Nat) (s s1 : State) (h : List Byte) (st : List (List Byte)), (s.cell c).arm = some (addr, false) →
    readPlan c addr s = (s1, some (h, st)) →
    ∃ t, exec (.planValidationEnd c false) s = .next t ∧ t = { s with regs := t.regs, fwl := t.fwl, mem := s1.mem } ∧
      RegsBut ((List.range 16).map R.CLO_STI) s t ∧ (∀ k, k ≠ c.val → t.cell k = s.cell k) ∧
      t.cell c = { s.cell c with arm := some (addr, true) } ∧
      (∀ k, k < 16 → ∀ b, b < 16 → bitOf (t.fld (R.CLO_STI k) F.CLO_STI_MASK) b = (bitOf (s.fld (R.CLO_STI k) F.CLO_STI_MASK) b ||
        st.any fun e => sgValid e && bitOf (sgCores e) k && sgCmp e == b))) ∧
  (∀ (c : Fin 16) (roleB : Bool) (addr : Nat) (s s1 : State) (r : Option (List Byte × List (List Byte))),
    (s.cell c).arm = some (addr, false) → readPlan c addr s = (s1, r) → roleB = true ∨ r = none →
    ∃ t, exec (.planValidationEnd c roleB) s = .next t ∧ t = { s1 with regs := t.regs, fwl := t.fwl } ∧ RegsBut [R.FWL_ERR] s1 t ∧
      t.flag R.FWL_ERR F.FWL_ERR_PLAN_ERR = true ∧ (∀ k, k ≠ c.val → t.cell k = s.cell k) ∧ t.cell c = { s.cell c with arm := none }) ∧
  (∀ (c : Fin 16) (roleB : Bool) (s : State), (∀ addr, (s.cell c).arm ≠ some (addr, false)) →
    exec (.planValidationEnd c roleB) s = .next s) ∧
  (∀ (c : Fin 16) (s : State), ¬ strobeDue c s → exec (.fwlSlotStrobe c) s = .next s) ∧
  (∀ (c : Fin 16) (s : State), strobeDue c s → ¬ cellOn c s → (s.cell c).slots = [] → (∀ addr, (s.cell c).arm ≠ some (addr, true)) →
    exec (.fwlSlotStrobe c) s = .next (s.setCell c { s.cell c with seen := ((s.reg (R.BEL_SG_COUNT (fwSg s c))).toNat,
      s.pair (R.BEL_SG_DNC_LO (fwSg s c)) (R.BEL_SG_DNC_HI (fwSg s c))) })) ∧
  (∀ (c : Fin 16) (addr : Nat) (s : State), strobeDue c s → (s.cell c).arm = some (addr, true) → (s.cell c).slots = [] →
    ∃ t, exec (.fwlSlotStrobe c) s = .next t ∧ (t.cell c).arm = none ∧ (t.cell c).plan = some addr ∧
      t.pair (R.FWL_CELL_PLAN_LO c) (R.FWL_CELL_PLAN_HI c) = addr % 2 ^ 64 ∧
      (¬ cellOn c s → RegsBut [R.FWL_CELL_PLAN_LO c, R.FWL_CELL_PLAN_HI c] s t ∧ (t.cell c).slots = []) ∧
      (cellOn c s → t.fld (R.FWL_CELL_EPOCH c) F.FWL_CELL_EPOCH_EPOCH = (s.reg (R.BEL_SG_COUNT (fwSg s c))).toNat % 65536)) ∧
  (∀ (c : Fin 16) (addr : Nat) (s s1 s2 : State) (h tb : List Byte) (st : List (List Byte)), strobeDue c s → cellOn c s →
    (s.cell c).arm = none → (s.cell c).plan = some addr → (s.cell c).slots = [] → twinRunning s = false →
    s.flag R.CRY_RPL_CTL F.CRY_RPL_CTL_EN = false → readPlan c addr (strobed c s) = (s1, some (h, st)) →
    vaRead 16 (plItemAddr h) (64 * plItems h) s1 = (s2, .ok tb) →
    ∃ t y, exec (.fwlSlotStrobe c) s = .next t ∧ (t.cell c).slots = [y] ∧ y.epoch = (s.reg (R.BEL_SG_COUNT (fwSg s c))).toNat % 65536 ∧
      y.header = h ∧ y.stages = st ∧ y.items.length = plItems h ∧ t.nav = s.nav ∧ t.clo = s.clo ∧ t.hbm = s.hbm ∧
      t.fld (R.FWL_CELL_EPOCH c) F.FWL_CELL_EPOCH_EPOCH = y.epoch ∧ (∀ k, k ≠ c.val → t.cell k = s.cell k) ∧
      ∀ i, i < plItems h → ∃ it, y.items[i]? = some it ∧ it.idx = i ∧ it.ent = (tb.drop (64 * i)).take 64 ∧
        (itemOk it.ent (tblSize s) = false → it.state = .done ∧
          ∃ x, x ∈ t.host.formed ∧ x.slot = some (c.val, y.epoch, i) ∧ x.status = stRejected) ∧
        (itemOk it.ent (tblSize s) = true → startBlocked s (fwSg s c) = true → it.state = .done ∧
          ∃ x, x ∈ t.host.formed ∧ x.slot = some (c.val, y.epoch, i) ∧ x.status = stUntested) ∧
        (itemOk it.ent (tblSize s) = true → startBlocked s (fwSg s c) = false →
          it.state = .nonspec ∨ (it.state = .predict ∧ it.blocks = itBlocks it.ent ∧ it.resv = it.blocks ∧
            s.flag (R.FWL_CELL_CTL c) F.FWL_CELL_CTL_SPEC = true ∧ itNoSpec it.ent = false ∧
            s.fld (R.FWL_CELL_CTL c) F.FWL_CELL_CTL_MIN_HIST ≤ it.snap))) ∧
  (∀ (c : Fin 16) (addr : Nat) (s s1 s2 : State) (h tb : List Byte) (st : List (List Byte)), strobeDue c s → cellOn c s →
    (s.cell c).arm = none → (s.cell c).plan = some addr → (s.cell c).slots = [] →
    s.flag R.CRY_RPL_CTL F.CRY_RPL_CTL_EN = false → readPlan c addr (strobed c s) = (s1, some (h, st)) →
    plItems h = 1 → vaRead 16 (plItemAddr h) 64 s1 = (s2, .ok tb) → itemOk tb (tblSize s) = true → startBlocked s (fwSg s c) = false →
    s.flag (R.FWL_CELL_CTL c) F.FWL_CELL_CTL_SPEC = true → itNoSpec tb = false → s.flag R.FWL_ERR F.FWL_ERR_PRED_FAULT = false →
    poolOff s = false → twinRunning s = false →
    ∃ t y it, exec (.fwlSlotStrobe c) s = .next t ∧ (t.cell c).slots = [y] ∧ y.items = [it] ∧
      (t.flag R.FWL_ERR F.FWL_ERR_PRED_FAULT = false → s.fld (R.FWL_CELL_CTL c) F.FWL_CELL_CTL_MIN_HIST ≤ it.snap →
        (s.fld R.FWL_STAT F.FWL_STAT_USED + itBlocks tb ≤ s.fld R.FWL_SHADOW_SIZE F.FWL_SHADOW_SIZE_BLOCKS →
          it.state = .predict ∧ t.fld R.FWL_STAT F.FWL_STAT_USED = s.fld R.FWL_STAT F.FWL_STAT_USED + itBlocks tb ∧
          t.fld R.FWL_STAT F.FWL_STAT_PEAK = max (s.fld R.FWL_STAT F.FWL_STAT_USED + itBlocks tb) (s.fld R.FWL_STAT F.FWL_STAT_PEAK)) ∧
        (s.fld R.FWL_SHADOW_SIZE F.FWL_SHADOW_SIZE_BLOCKS < s.fld R.FWL_STAT F.FWL_STAT_USED + itBlocks tb →
          it.state = .nonspec ∧ t.fld R.FWL_STAT F.FWL_STAT_USED = s.fld R.FWL_STAT F.FWL_STAT_USED ∧
          t.flag R.FWL_ERR F.FWL_ERR_SHADOW_FULL = true ∧
          t.reg (R.FWL_CELL_CNT_NOSPEC c) = s.reg (R.FWL_CELL_CNT_NOSPEC c) + 1))) ∧
  (∀ (c : Fin 16) (y : FwSlot) (s : State), strobeDue c s → ¬ cellOn c s → (s.cell c).slots = [y] → twinRunning s = false →
    (∀ x ∈ s.host.formed, x.slot.map (fun p => (p.1, p.2.1)) ≠ some (c.val, y.epoch)) →
    2 ≤ ((s.reg (R.BEL_SG_COUNT (fwSg s c))).toNat % 65536 + 65536 - y.epoch) % 65536 → (y.items.map (·.idx)).Nodup →
    ∃ t, exec (.fwlSlotStrobe c) s = .next t ∧ (t.cell c).slots = [] ∧
      t.fld R.FWL_STAT F.FWL_STAT_USED = s.fld R.FWL_STAT F.FWL_STAT_USED - ((y.items.filter fwLive).map (·.blocks)).sum ∧
      t.host.formed.length = s.host.formed.length + (y.items.filter fwLive).length ∧
      (t.reg (R.FWL_CELL_CNT_DROP c)).toNat = ((s.reg (R.FWL_CELL_CNT_DROP c)).toNat + (y.items.filter fwLive).length) % 2 ^ 32)

/-- No live item but the one named changes. -/
def otherItems (c e i : Nat) (s t : State) : Prop :=
  ∀ c' e' i', c' ≠ c ∨ e' ≠ e ∨ i' ≠ i → liveItem t c' e' i' = liveItem s c' e' i'

/-- FWL_STAT when `n` blocks go back to the pool. -/
def statLess (s : State) (n : Nat) : Word := F.FWL_STAT_USED.put (s.reg R.FWL_STAT) (s.fld R.FWL_STAT F.FWL_STAT_USED - n)

/-- The item's test against the measured grid is decided. -/
def settled (c e i : Nat) (it : FwItem) (p m : List GridEl) (s t : State) : Prop :=
  t = { s with regs := t.regs, fwl := t.fwl } ∧ otherItems c e i s t ∧
  t.reg R.FWL_STAT = statLess s it.blocks ∧
  if it.force = false ∧ commitTest p m it.thr = true then
    liveItem t c e i = some { it with state := .committed, committed := true, replayed := false, pred := some p, meas := some m, started := true,
                                      blocks := 0 } ∧
    RegsBut [R.FWL_STAT, R.FWL_CELL_CNT_COMMIT c] s t ∧ t.reg (R.FWL_CELL_CNT_COMMIT c) = s.reg (R.FWL_CELL_CNT_COMMIT c) + 1
  else
    liveItem t c e i = some { it with state := .replaying, committed := false, replayed := true, pred := none, meas := some m, started := true,
                                      blocks := 0 } ∧
    RegsBut [R.FWL_STAT, R.FWL_CELL_CNT_REPLAY c] s t ∧ t.reg (R.FWL_CELL_CNT_REPLAY c) = s.reg (R.FWL_CELL_CNT_REPLAY c) + 1

/-- R157 to R167, R526. -/
def Obligations.PredictionsAndCommit : Prop :=
  (∀ (c : Fin 16) (e : BitVec 16) (i : Fin 1024) (grid : List GridEl) (it : FwItem) (s : State),
    liveItem s c e.toNat i = some it → it.state = .predict → it.meas = none →
    ∃ t, exec (.predictionLanded c e i grid) s = .next t ∧ t = { s with fwl := t.fwl } ∧ otherItems c e.toNat i s t ∧
      liveItem t c e.toNat i = some { it with state := .speculating, pred := some grid, started := true }) ∧
  (∀ (c : Fin 16) (e : BitVec 16) (i : Fin 1024) (grid m : List GridEl) (it : FwItem) (s : State),
    liveItem s c e.toNat i = some it → it.state = .predict → it.meas = some m →
    ∃ t, exec (.predictionLanded c e i grid) s = .next t ∧ settled c e.toNat i it grid m s t) ∧
  (∀ (c : Fin 16) (e : BitVec 16) (i : Fin 1024) (grid : List GridEl) (s : State), (∀ it, liveItem s c e.toNat i = some it → it.state ≠ .predict) →
    exec (.predictionLanded c e i grid) s = .next s ∧ exec (.predictionFault c e i) s = .next s) ∧
  (∀ (c : Fin 16) (e : BitVec 16) (i : Fin 1024) (grid p : List GridEl) (it : FwItem) (s : State),
    liveItem s c e.toNat i = some it → it.state = .speculating → it.pred = some p →
    ∃ t, exec (.estimateReady c e i grid) s = .next t ∧ settled c e.toNat i it p grid s t) ∧
  (∀ (c : Fin 16) (e : BitVec 16) (i : Fin 1024) (grid : List GridEl) (it : FwItem) (s : State),
    liveItem s c e.toNat i = some it → it.state = .predict → twinRunning s = false →
    ∃ t, exec (.estimateReady c e i grid) s = .next t ∧ t = { s with regs := t.regs, fwl := t.fwl } ∧ otherItems c e.toNat i s t ∧
      liveItem t c e.toNat i = some { it with state := .nonspec, pred := none, meas := some grid, started := true, blocks := 0 } ∧
      RegsBut [R.FWL_STAT, R.FWL_CELL_CNT_NOSPEC c] s t ∧ t.reg R.FWL_STAT = statLess s it.blocks ∧
      t.reg (R.FWL_CELL_CNT_NOSPEC c) = s.reg (R.FWL_CELL_CNT_NOSPEC c) + 1) ∧
  (∀ (c : Fin 16) (e : BitVec 16) (i : Fin 1024) (grid : List GridEl) (it : FwItem) (s : State), liveItem s c e.toNat i = some it →
    (it.state = .predict ∧ twinRunning s = true) ∨ (it.state ≠ .predict ∧ (it.state = .speculating → it.pred = none)) →
    ∃ t, exec (.estimateReady c e i grid) s = .next t ∧ t = { s with fwl := t.fwl } ∧ otherItems c e.toNat i s t ∧
      liveItem t c e.toNat i = some { it with meas := some grid, started := true }) ∧
  (∀ (c : Fin 16) (e : BitVec 16) (i : Fin 1024) (grid : List GridEl) (s : State), liveItem s c e.toNat i = none →
    exec (.estimateReady c e i grid) s = .next s) ∧
  (∀ (c : Fin 16) (e : BitVec 16) (i : Fin 1024) (it : FwItem) (s : State), liveItem s c e.toNat i = some it → it.state = .predict →
    ∃ t, exec (.predictionFault c e i) s = .next t ∧
      t = { s with regs := t.regs, fwl := t.fwl, host := t.host, hostMem := t.hostMem, out := t.out } ∧ otherItems c e.toNat i s t ∧
      liveItem t c e.toNat i = some { it with state := .nonspec, pred := none, blocks := 0 } ∧
      EventRegsBut [R.FWL_STAT, R.FWL_CELL_CNT_NOSPEC c, R.FWL_ERR] s t ∧ t.flag R.FWL_ERR F.FWL_ERR_PRED_FAULT = true ∧
      t.reg R.FWL_STAT = statLess s it.blocks ∧
      t.reg (R.FWL_CELL_CNT_NOSPEC c) = s.reg (R.FWL_CELL_CNT_NOSPEC c) + 1)

/-- The completion that asks for the append of an item. -/
def appendOf (c e i : Nat) (s : State) : Option Cpl := s.host.formed.find? fun x => x.append && !x.held && x.slot == some (c, e, i)

/-- Item `it` of slot `y` may append to its sequence, whose entry reads as `r`. -/
def appendDue (c e i : Nat) (y : FwSlot) (it : FwItem) (s s1 : State) (r : List Byte) : Prop :=
  slotOf s c e = some y ∧ y.item i = some it ∧ appendWaits s c e i (itSeq it.ent) = false ∧ seqRead (itSeq it.ent) s = (s1, .ok r)

/-- R26, R157, R170, R172, R291 to R295, R448. -/
def Obligations.SlotItemsEnd : Prop :=
  (∀ (c : Fin 16) (e : BitVec 16) (i : Fin 1024) (out soft el : List Byte) (y : FwSlot) (it : FwItem) (s : State),
    slotOf s c e.toNat = some y → y.item i = some it → it.state = .nonspec ∨ it.state = .committed ∨ it.state = .replaying →
    twinRunning s = false →
    ∃ t x, exec (.itemFinal c e i out soft el) s = .next t ∧ liveItem t c e.toNat i = none ∧ (∀ k, k ≠ c.val → t.cell k = s.cell k) ∧
      (∀ tl, it.tile = some tl → (t.tile tl).slot = none) ∧ t.fld R.FWL_STAT F.FWL_STAT_USED = s.fld R.FWL_STAT F.FWL_STAT_USED - it.blocks ∧
      t.host.nextId = s.host.nextId + 1 ∧ x ∈ t.host.formed ∧ x.id = s.host.nextId ∧ x.held = false ∧
      x.status = (firstStatus ([(if it.late then stLate else stDone, 0)] ++ (it.lost.map fun p => (stLink, unitDetail kFh p 0)).toList ++
        (if twinHalted s then [(stTwin, 0)] else []))).1 ∧
      x.flags % 4 = it.committed.toNat + 2 * it.replayed.toNat ∧ x.itemId = itId it.ent ∧ x.func = itFunc it.ent ∧ x.cq = itRing it.ent ∧
      x.origin = 0xF0 + c.val ∧ x.bytes = out.length ∧ x.slot = some (c.val, y.epoch, i.val) ∧
      x.append = ((x.status == stDone || x.status == stLate) && it.active && !y.replay)) ∧
  (∀ (c : Fin 16) (e : BitVec 16) (i : Fin 1024) (out soft el : List Byte) (y : FwSlot) (it : FwItem) (s : State),
    slotOf s c e.toNat = some y → y.item i = some it → it.state = .nonspec ∨ it.state = .committed ∨ it.state = .replaying →
    twinRunning s = true → (∀ r ∈ s.cry.partner, r.key.toNat ≠ slotKeyOf c y.sec y.slot i) →
    ∃ t x, exec (.itemFinal c e i out soft el) s = .next t ∧ liveItem t c e.toNat i = none ∧ x ∈ t.host.formed ∧ x.id = s.host.nextId ∧
      x.held = true ∧ x.key = slotKeyOf c y.sec y.slot i ∧ x.result = sha256 out ∧
      t.fld R.FWL_STAT F.FWL_STAT_USED = s.fld R.FWL_STAT F.FWL_STAT_USED - it.blocks) ∧
  (∀ (c : Fin 16) (e : BitVec 16) (i : Fin 1024) (out soft el : List Byte) (s : State),
    (∀ it, liveItem s c e.toNat i = some it → it.state = .predict ∨ it.state = .speculating) →
    exec (.itemFinal c e i out soft el) s = .next s) ∧
  (∀ (c : Fin 16) (y : FwSlot) (s : State), (s.cell c).slots.find? (fun y => !y.dl) = some y → slotOf s c y.epoch = some y →
    (y.items.map (·.idx)).Nodup → twinRunning s = false →
    ∃ t, exec (.deadlineEvent c) s = .next t ∧ (∀ k, k ≠ c.val → t.cell k = s.cell k) ∧
      t.host.formed.length = s.host.formed.length + (y.items.filter fun it => fwLive it && itDropLate it.ent).length ∧
      (t.reg (R.FWL_CELL_CNT_DROP c)).toNat =
        ((s.reg (R.FWL_CELL_CNT_DROP c)).toNat + (y.items.filter fun it => fwLive it && itDropLate it.ent).length) % 2 ^ 32 ∧
      (t.reg (R.FWL_CELL_CNT_LATE c)).toNat =
        ((s.reg (R.FWL_CELL_CNT_LATE c)).toNat + (y.items.filter fun it => fwLive it && !itDropLate it.ent).length +
          (s.host.formed.filter fun x => x.wait && x.status == stDone && (x.slot.map fun p => (p.1, p.2.1)) == some (c.val, y.epoch)).length) % 2 ^ 32 ∧
      ∀ it ∈ y.items, fwLive it = true →
        liveItem t c y.epoch it.idx = (if itDropLate it.ent then none else some { it with late := true }) ∧
        (itDropLate it.ent = true → ∃ x ∈ t.host.formed, x.slot = some (c.val, y.epoch, it.idx) ∧ x.append = false ∧ x.status =
          (firstStatus ([(stDropped, 0)] ++ (it.lost.map fun p => (stLink, unitDetail kFh p 0)).toList ++
            (if twinHalted s then [(stTwin, 0)] else []))).1)) ∧
  (∀ (c : Fin 16) (s : State), (s.cell c).slots.all (·.dl) = true → exec (.deadlineEvent c) s = .next s) ∧
  (∀ (c : Fin 16) (e : BitVec 16) (i : Fin 1024) (recs : List (List Byte)) (x : Cpl) (y : FwSlot) (it : FwItem) (s s1 s2 s3 : State)
    (r : List Byte), appendOf c e.toNat i s = some x → appendDue c e.toNat i y it s s1 r →
    seqLen r + 1 ≤ capacity (groupOf s (seqGroup r)) r →
    writeLayers (groupOf s (seqGroup r)) r (seqLen r) 1 0
      ((recs ++ List.replicate (groupOf s (seqGroup r)).layers []).take (groupOf s (seqGroup r)).layers) s1 = (s2, none) →
    seqWrite (itSeq it.ent) 0 4 (seqLen r + 1) s2 = (s3, none) →
    ∃ t, exec (.kvAppend c e i recs) s = .next t ∧ t.hbm = s3.hbm ∧ t.hostMem = s3.hostMem ∧ RegsBut [R.SEQ_CNT_APPEND] s t ∧
      t.reg R.SEQ_CNT_APPEND = s.reg R.SEQ_CNT_APPEND + 1 ∧ t.host.formed.length = s.host.formed.length ∧
      ∀ z ∈ t.host.formed, z.id = x.id → z.append = false) ∧
  (∀ (c : Fin 16) (e : BitVec 16) (i : Fin 1024) (recs : List (List Byte)) (x : Cpl) (y : FwSlot) (it : FwItem) (s s1 : State)
    (r : List Byte), appendOf c e.toNat i s = some x → appendDue c e.toNat i y it s s1 r →
    capacity (groupOf s (seqGroup r)) r < seqLen r + 1 →
    ∃ t, exec (.kvAppend c e i recs) s = .next t ∧ t.hbm = (seqPut (itSeq it.ent) 6 1 1 s1).hbm ∧
      t.reg R.SEQ_CNT_FULL = s.reg R.SEQ_CNT_FULL + 1 ∧ t.reg R.SEQ_CNT_APPEND = s.reg R.SEQ_CNT_APPEND ∧
      (∀ z ∈ t.host.formed, z.id = x.id → z.append = false) ∧ t.host.formed.map (·.status) = s.host.formed.map (·.status)) ∧
  (∀ (c : Fin 16) (e : BitVec 16) (i : Fin 1024) (recs : List (List Byte)) (x : Cpl) (y : FwSlot) (it : FwItem) (s s1 s2 : State)
    (r : List Byte) (err : AccErr), appendOf c e.toNat i s = some x → appendDue c e.toNat i y it s s1 r →
    seqLen r + 1 ≤ capacity (groupOf s (seqGroup r)) r →
    writeLayers (groupOf s (seqGroup r)) r (seqLen r) 1 0
      ((recs ++ List.replicate (groupOf s (seqGroup r)).layers []).take (groupOf s (seqGroup r)).layers) s1 = (s2, some err) →
    err.status ≠ stPower →
    ∃ t z, exec (.kvAppend c e i recs) s = .next t ∧ t.hbm = s2.hbm ∧ t.reg R.SEQ_CNT_APPEND = s.reg R.SEQ_CNT_APPEND ∧
      z ∈ t.host.formed ∧ z.id = x.id ∧ z.append = false ∧
      z.status = (if statusRank err.status < statusRank x.status then err.status else x.status)) ∧
  (∀ (c : Fin 16) (e : BitVec 16) (i : Fin 1024) (recs : List (List Byte)) (s : State),
    appendOf c e.toNat i s = none ∨ (∀ y it, slotOf s c e.toNat = some y → y.item i = some it → appendWaits s c e.toNat i (itSeq it.ent) = true) →
    exec (.kvAppend c e i recs) s = .next s)

/-- A stage may not run: cores outside the reserve, or a binding tile that slot work may not use. -/
def stageBarred (e : List Byte) (s : State) : Prop :=
  (∃ k, k < 16 ∧ bitOf (sgCores e) k = true ∧ rtCore s k = false) ∨
  (naveStage e = true ∧ ∃ k, k < 32 ∧ bitOf (sgTiles e) k = true ∧ rtTile s k = false ∧ preEff s k = false)

/-- None of the tiles a binding stage names has power. -/
def stageDark (e : List Byte) (s : State) : Prop := naveStage e = true ∧ ∀ k, k < 32 → bitOf (sgTiles e) k = true → tileUp s k = false

/-- The state a pre-emption leaves a tile in. -/
def preempted (st : Nat) : Nat := if st = nvBusy then nvYielding else if st = nvIdle ∨ st = nvRestoring then nvLent else st

/-- Every live item of the slot ends with a status, unless R11 puts its own first. -/
def slotEnds (c : Nat) (y : FwSlot) (status : Nat) (s t : State) : Prop :=
  (∀ k, k ≠ c → t.cell k = s.cell k) ∧ t.host.formed.length = s.host.formed.length + (y.items.filter fwLive).length ∧
  ∀ it ∈ y.items, fwLive it = true → liveItem t c y.epoch it.idx = none ∧
    ∃ x ∈ t.host.formed, x.slot = some (c, y.epoch, it.idx) ∧ x.append = false ∧ x.status =
      (firstStatus ([(status, 0)] ++ (it.lost.map fun p => (stLink, unitDetail kFh p 0)).toList ++
        (if twinHalted s then [(stTwin, 0)] else []))).1

/-- R143, R206, R208, R458, R524. -/
def Obligations.StagesAndPlacement : Prop :=
  (∀ (c st : Fin 16) (y : FwSlot) (s : State),
    (s.cell c).slots.find? (fun y => st.val < y.stages.length && !y.trig.contains st.val) = some y → slotOf s c y.epoch = some y →
    (y.items.map (·.idx)).Nodup → twinRunning s = false →
    (stageBarred (y.stages.getD st []) s → ∃ t, exec (.stageTrigger c st) s = .next t ∧ slotEnds c y stRejected s t) ∧
    (¬ stageBarred (y.stages.getD st []) s → stageDark (y.stages.getD st []) s →
      ∃ t, exec (.stageTrigger c st) s = .next t ∧ slotEnds c y stPower s t)) ∧
  (∀ (c st : Fin 16) (y : FwSlot) (s : State),
    (s.cell c).slots.find? (fun y => st.val < y.stages.length && !y.trig.contains st.val) = some y → slotOf s c y.epoch = some y →
    ¬ stageBarred (y.stages.getD st []) s → ¬ stageDark (y.stages.getD st []) s →
    ∃ t, exec (.stageTrigger c st) s = .next t ∧ t = { s with regs := t.regs, fwl := t.fwl, nav := t.nav } ∧
      (∀ k, k ≠ c.val → t.cell k = s.cell k) ∧ (slotOf t c y.epoch).map (fun z => (z.trig, z.items)) =
        some (y.trig ++ [st.val], y.items.map fun it => if fwLive it then { it with started := true } else it) ∧
      RegsBut ((List.range 32).map R.NAV_STAT) s t ∧
      (∀ k, k < 32 → tileState t k = (if bitOf (sgTiles (y.stages.getD st [])) k = true ∧ rtTile s k = false ∧ preEff s k = true ∧
        startBlocked s (fwSg s c) = false then preempted (tileState s k) else tileState s k)) ∧
      (∀ k, k < 32 → t.tile k = (if bitOf (sgTiles (y.stages.getD st [])) k = true ∧ rtTile s k = false ∧ preEff s k = true ∧
        startBlocked s (fwSg s c) = false ∧ tileState s k = nvRestoring then { s.tile k with engine := none } else s.tile k))) ∧
  (∀ (c st : Fin 16) (s : State), (∀ y ∈ (s.cell c).slots, y.stages.length ≤ st.val ∨ st.val ∈ y.trig) →
    exec (.stageTrigger c st) s = .next s) ∧
  (∀ (c st : Fin 16) (y : FwSlot) (it : FwItem) (tl : Nat) (s : State),
    (s.cell c).slots.find? (fun y => y.trig.contains st.val && (y.items.find? fun it => fwLive it && it.stage != some st.val).isSome &&
      naveStage (y.stages.getD st [])) = some y → y.items.find? (fun it => fwLive it && it.stage != some st.val) = some it →
    liveItem s c y.epoch it.idx = some it →
    (tilesOf (sgTiles (y.stages.getD st []))).find? (slotFree (freeSlotTile it s)) = some tl →
    ∃ t, exec (.stageItemPlacement c st) s = .next t ∧ t = { s with regs := t.regs, fwl := t.fwl, nav := t.nav } ∧
      otherItems c y.epoch it.idx s t ∧
      liveItem t c y.epoch it.idx = some { it with tile := some tl, stage := some st.val, started := true } ∧
      (it.tile = none → RegsBut [R.NAV_STAT tl] s t) ∧ (t.tile tl).slot = some (c.val, y.epoch, it.idx) ∧ (t.tile tl).sram = (s.tile tl).sram ∧
      tileState t tl = (if tileState (freeSlotTile it s) tl = nvIdle then nvBusy else nvLent) ∧
      ∀ k, k < 32 → k ≠ tl → it.tile ≠ some k → t.tile k = s.tile k ∧ tileState t k = tileState s k) ∧
  (∀ (c st : Fin 16) (s : State), (∀ y ∈ (s.cell c).slots, ∀ it ∈ y.items, st.val ∈ y.trig → naveStage (y.stages.getD st []) = true →
    fwLive it = true → it.stage = some st.val) → exec (.stageItemPlacement c st) s = .next s) ∧
  (∀ (tl : Fin 32) (s : State), tileState s tl = nvLent → tileNamed s tl = false → (s.tile tl).preHeld = false →
    ∃ t, exec (.lendingEnd tl) s = .next t ∧ t = { s with regs := t.regs, nav := t.nav } ∧ RegsBut [R.NAV_STAT tl] s t ∧
      (∀ k, k ≠ tl.val → t.tile k = s.tile k) ∧
      ((s.tile tl).copy = none → tileState t tl = nvIdle ∧ t.tile tl = { s.tile tl with slot := none }) ∧
      ((s.tile tl).copy.isSome = true → tileState t tl = nvRestoring ∧ t.tile tl = { s.tile tl with slot := none, engine := freePreEngine s })) ∧
  (∀ (tl : Fin 32) (s : State), tileState s tl ≠ nvLent ∨ tileNamed s tl = true ∨ (s.tile tl).preHeld = true →
    exec (.lendingEnd tl) s = .next s)

/-- Of the tiles, only tile `k` changes, and of the registers only those given. -/
def tileOnly (k : Nat) (l : List Nat) (s t : State) : Prop :=
  t = { s with regs := t.regs, nav := t.nav } ∧ RegsBut l s t ∧ ∀ j, j ≠ k → t.tile j = s.tile j

/-- A request has reached tile `k`; `h` says whether NAV_CTL holds it. -/
def requested (k : Nat) (h : Bool) (s t : State) : Prop :=
  tileOnly k [R.NAV_STAT k] s t ∧ tileState t k = preempted (tileState s k) ∧
  t.tile k = { s.tile k with engine := if tileState s k = nvRestoring then none else (s.tile k).engine, preHeld := h }

/-- R208 to R215, R461, R478. -/
def Obligations.PreemptionAndErrors : Prop :=
  (∀ (k : Fin 32) (s : State), preEff s k = true → rtTile s k = false →
    ∃ t, exec (.preemptionRequest k) s = .next t ∧ requested k (s.tile k).preHeld s t) ∧
  (∀ (k : Fin 32) (s : State), preEff s k = false ∨ rtTile s k = true → exec (.preemptionRequest k) s = .next s) ∧
  (∀ (k : Fin 32) (e : Nat) (s : State), tileState s k = nvYielding → freePreEngine s = some e →
    ∃ t, exec (.spillStart k) s = .next t ∧ tileOnly k [R.NAV_STAT k] s t ∧ tileState t k = nvSpilling ∧
      t.tile k = { s.tile k with engine := some e }) ∧
  (∀ (k : Fin 32) (s : State), tileState s k ≠ nvYielding ∨ freePreEngine s = none → exec (.spillStart k) s = .next s) ∧
  (∀ (k : Fin 32) (took : BitVec 16) (s : State), tileState s k = nvSpilling →
    ∃ t, exec (.spillDone k took) s = .next t ∧ tileOnly k [R.NAV_STAT k, R.NAV_CNT_PRE k, R.NAV_PRE_MAX k] s t ∧ tileState t k = nvLent ∧
      t.reg (R.NAV_CNT_PRE k) = s.reg (R.NAV_CNT_PRE k) + 1 ∧
      t.fld (R.NAV_PRE_MAX k) F.NAV_PRE_MAX_NS = max took.toNat (s.fld (R.NAV_PRE_MAX k) F.NAV_PRE_MAX_NS) ∧
      ∃ m, t.tile k = { s.tile k with copy := some (m, (s.tile k).acc), engine := none } ∧
        ∀ a, Mem.byte m a = (if roleBase s k 0 ≤ a ∧ a < roleBase s k 0 + 0x200000 then (s.tile k).sram.byte a else 0)) ∧
  (∀ (k : Fin 32) (took : BitVec 16) (s : State), tileState s k ≠ nvSpilling → exec (.spillDone k took) s = .next s) ∧
  (∀ (k : Fin 32) (s : State), exec (.preOver k) s = .next (if tileState s k = nvYielding ∨ tileState s k = nvSpilling then
    s.setReg (R.NAV_STAT k) (F.NAV_STAT_PRE_OVER.put (s.reg (R.NAV_STAT k)) 1) else s)) ∧
  (∀ (k : Fin 32) (m : Mem) (acc : Tab Word) (s : State), tileState s k = nvRestoring → restoreServed s k = true → (s.tile k).copy = some (m, acc) → m.wf = true →
    (∀ a, m.byte a ≠ 0 → roleBase s k 0 ≤ a ∧ a < roleBase s k 0 + 0x200000) →
    ∃ t, exec (.restoreDone k) s = .next t ∧
      tileOnly k (R.NAV_STAT k :: (List.range 8).flatMap fun j => [R.NAV_STR_STAT k j, R.NAV_STR_AGE k j]) s t ∧ tileState t k = nvBusy ∧
      t.tile k = { s.tile k with sram := (t.tile k).sram, acc := acc, copy := none, engine := none, ctxs := (t.tile k).ctxs } ∧
      (∀ j, j < 8 → (t.tile k).ctx j = holdAgain ((s.tile k).ctx j)) ∧
      ∀ a, (t.tile k).sram.byte a = (if roleBase s k 0 ≤ a ∧ a < roleBase s k 0 + 0x200000 then m.byte a else (s.tile k).sram.byte a)) ∧
  (∀ (k : Fin 32) (s : State), tileState s k ≠ nvRestoring ∨ restoreServed s k = false → exec (.restoreDone k) s = .next s) ∧
  (∀ (a : Agent) (k : Fin 32) (v : Word) (s : State), answers a (R.NAV_CTL k) s = true → expertOn s 4 = true → preEff s k = true →
    rtTile s k = false → F.NAV_CTL_CLR.get v = 0 →
    (F.NAV_CTL_PRE_REQ.get v = 1 → F.NAV_CTL_PRE_REL.get v = 0 → ∃ t, exec (.preReq a k v) s = .next t ∧ requested k true s t) ∧
    (F.NAV_CTL_PRE_REQ.get v = 0 → F.NAV_CTL_PRE_REL.get v = 1 →
      ∃ t, exec (.preRel a k v) s = .next t ∧ tileOnly k [] s t ∧ t.tile k = { s.tile k with preHeld := false })) ∧
  (∀ (a : Agent) (k : Fin 32) (v : Word) (s : State), answers a (R.NAV_CTL k) s = true →
    expertOn s 4 = false ∨ preEff s k = false ∨ rtTile s k = true → F.NAV_CTL_CLR.get v = 0 →
    ∃ t, exec (.preReq a k v) s = .next t ∧ exec (.preRel a k v) s = .next t ∧ t.nav = s.nav ∧ (∀ j, j < 32 → tileState t j = tileState s j) ∧
      (expertOn s 4 = false → F.NAV_CTL_PRE_REQ.get v = 1 ∨ F.NAV_CTL_PRE_REL.get v = 1 → t.flag R.GLB_ERR F.GLB_ERR_EXPERT_WR = true)) ∧
  (∀ (a : Agent) (k : Fin 32) (v : Word) (s : State), answers a (R.NAV_CTL k) s = true → F.NAV_CTL_CLR.get v = 1 →
    F.NAV_CTL_PRE_REQ.get v = 0 → F.NAV_CTL_PRE_REL.get v = 0 →
    ∃ t, exec (.navClr a k v) s = .next t ∧ tileOnly k [R.NAV_STAT k] s t ∧ t.nav = s.nav ∧
      t.reg (R.NAV_STAT k) = (if tileState s k = nvFaulted then F.NAV_STAT_STATE.put (s.reg (R.NAV_STAT k)) nvIdle else s.reg (R.NAV_STAT k))) ∧
  (∀ (k : Fin 32) (part : TilePart) (s : State), (s.tile k).item = none → (s.tile k).swaps = [] → (s.tile k).ctxs = [] → (s.tile k).slot = none →
    ∃ t, exec (.tileSramUe k part) s = .next t ∧ t = { s with regs := t.regs, nav := t.nav, host := t.host, hostMem := t.hostMem, out := t.out } ∧
      EventRegsBut ([R.NAV_STAT k] ++ (List.range 8).flatMap fun j => [R.NAV_STR_STAT k j, R.NAV_STR_AGE k j]) s t ∧ tileState t k = nvFaulted ∧
      (∀ j, j ≠ k.val → t.tile j = s.tile j) ∧ t.tile k = { s.tile k with work := none, copy := none, later := [], engine := none }) ∧
  (∀ (k : Fin 32) (part : TilePart) (s : State), ∃ t, exec (.tileSramUe k part) s = .next t ∧ tileState t k = nvFaulted ∧
    (t.tile k).item = none ∧ (t.tile k).slot = none ∧ (t.tile k).work = none ∧ (t.tile k).copy = none ∧ (t.tile k).swaps = [] ∧
    (t.tile k).sram = (s.tile k).sram ∧ (∀ id, (s.tile k).swaps = [] → (s.tile k).item = some id → itemOf t id = none) ∧
    ∀ c e i it y, (s.tile k).slot = some (c, e, i) → slotOf s c e = some y → liveItem s c e i = some it → twinRunning s = false →
      liveItem t c e i = none ∧ ∃ x ∈ t.host.formed, x.slot = some (c, e, i) ∧ x.append = false ∧ x.status =
        (firstStatus ([(stMem, unitDetail kTile k 0)] ++ (it.lost.map fun p => (stLink, unitDetail kFh p 0)).toList ++
          (if twinHalted s then [(stTwin, 0)] else []))).1)

/-- The sum of the first `j` blocks for one output element. -/
def colSum (h : NavHdr) (m : Mem) (base : Nat) (q : NavReq) (row slice n j : Nat) : Word :=
  (List.range j).foldl (fun acc b => accAdd h b acc (blockSum h m base q row slice b n)) 0

/-- The accumulator word of row i, column n of a tile. -/
def accWord (x : Tile) (i n : Nat) : Word := Tab.get (fun _ => 0) x.acc (64 * i + n)

/-- The entries in a cell row's queue. -/
def queueLevel (x : Tile) (r : Nat) : Nat := Tab.get (fun _ => 0) x.queues r

/-- A pass of block b of a slice, over issue `g` of context k of tile t, is due. -/
def passDue (t k : Nat) (h : NavHdr) (g : NavGroup) (gs : List NavGroup) (slice b : Nat) (s : State) : Prop :=
  ((s.tile t).ctx k).hdr = some h ∧ ((s.tile t).ctx k).groups = g :: gs ∧ mayRun s t ((s.tile t).ctx k) = true ∧ g.mvp = false ∧
  (s.tile t).work.getD (k, 0, 0) = (k, slice, b)

/-- R182 to R196. -/
def Obligations.PassesAndVectors : Prop :=
  (∀ (t : Fin 32) (k : Fin 8) (h : NavHdr) (g : NavGroup) (gs : List NavGroup) (slice b : Nat) (s : State), passDue t k h g gs slice b s →
    ∃ u, exec (.arrayPass t k) s = .next u ∧ u.reg (R.NAV_CNT_PASS t) = s.reg (R.NAV_CNT_PASS t) + 1 ∧
      (∀ (i n : Nat) (q : NavReq) (r : Nat × Nat), (groupRows g)[i]? = some r → i < 256 → n < 64 → slice * 64 + n < h.n →
        reqOf ((s.tile t).ctx k) r.1 = some q →
        accWord (u.tile t) i n = accAdd h b (accWord (s.tile t) i n) (blockSum h (s.tile t).sram (roleBase s t 0) q r.2 slice b n) ∧
        (b = 0 ∨ accWord (s.tile t) i n = colSum h (s.tile t).sram (roleBase s t 0) q r.2 slice n b →
          accWord (u.tile t) i n = colSum h (s.tile t).sram (roleBase s t 0) q r.2 slice n (b + 1))) ∧
      (∀ (i n : Nat), (groupRows g).length ≤ i ∨ 256 ≤ i ∨ h.n ≤ slice * 64 + n → n < 64 → accWord (u.tile t) i n = accWord (s.tile t) i n) ∧
      (b + 1 ≠ kBlocks h → (u.tile t).sram = (s.tile t).sram) ∧
      (b + 1 = kBlocks h → (u.tile t).sram = outRows h ((s.tile t).ctx k) (roleBase s t 0) slice (u.tile t).acc g (s.tile t).sram) ∧
      (b + 1 < kBlocks h → (u.tile t).work = some (k.val, slice, b + 1)) ∧
      (b + 1 = kBlocks h → slice + 1 < slices h → (u.tile t).work = some (k.val, slice + 1, 0)) ∧
      (b + 1 < kBlocks h ∨ slice + 1 < slices h → (u.tile t).ctxs = (s.tile t).ctxs ∧ u.hbm = s.hbm ∧ u.se = s.se ∧
        ∀ j, j ≠ t.val → u.tile j = s.tile j)) ∧
  (∀ (h : NavHdr) (m : Mem) (base : Nat) (q : NavReq) (row slice n : Nat),
    rowAcc h m base q row slice n = colSum h m base q row slice n (kBlocks h)) ∧
  (∀ (t : Fin 32) (k : Fin 8) (s : State), (s.tile t).ctx k = {} ∨ mayRun s t ((s.tile t).ctx k) = false →
    exec (.arrayPass t k) s = .next s ∧ exec (.mvpVector t k) s = .next s ∧ exec (.fillTimeout t k) s = .next s) ∧
  (∀ (t : Fin 32) (k : Fin 8) (h : NavHdr) (g : NavGroup) (gs : List NavGroup) (sg : NavSeg) (rest : List NavSeg) (q : NavReq) (s : State),
    ((s.tile t).ctx k).hdr = some h → ((s.tile t).ctx k).groups = g :: gs → mayRun s t ((s.tile t).ctx k) = true → g.mvp = true →
    g.segs = sg :: rest → reqOf ((s.tile t).ctx k) sg.ser = some q →
    ∃ u, exec (.mvpVector t k) s = .next u ∧ u.reg (R.NAV_CNT_MVP t) = s.reg (R.NAV_CNT_MVP t) + 1 ∧ (u.tile t).acc = (s.tile t).acc ∧
      (u.tile t).sram = (s.tile t).sram.write (roleBase s t 0 + q.oOfs + sg.row * h.n * outBytes h.outFmt)
        (mvpRow h (s.tile t).sram (roleBase s t 0) q sg.row)) ∧
  (∀ (t : Fin 32) (k : Fin 8) (h : NavHdr) (old : NavSeg) (rest : List NavSeg) (s : State), ((s.tile t).ctx k).hdr = some h →
    ((s.tile t).ctx k).held = old :: rest → mayRun s t ((s.tile t).ctx k) = true → h.fillTimeout ≠ 0 →
    ∃ u g, exec (.fillTimeout t k) s = .next u ∧
      tileOnly t ((List.range 8).flatMap fun j => [R.NAV_STR_STAT t j, R.NAV_STR_AGE t j]) s u ∧
      u.tile t = { (s.tile t).setCtx k ((u.tile t).ctx k) with cycles := max (s.tile t).cycles (old.cycle + h.fillTimeout) } ∧
      (u.tile t).ctx k = { (s.tile t).ctx k with held := ((u.tile t).ctx k).held, groups := ((s.tile t).ctx k).groups ++ [g] } ∧
      segRows g.segs = min 256 (segRows ((s.tile t).ctx k).held) ∧
      groupRows g ++ groupRows ⟨((u.tile t).ctx k).held, false⟩ = groupRows ⟨((s.tile t).ctx k).held, false⟩ ∧
      g.mvp = (h.mode == 1 || (h.mode == 2 && segRows g.segs < h.mvpThr))) ∧
  (∀ (t : Fin 32) (need spent : BitVec 16) (reqs : List (Fin 16 × Fin 32)) (s : State),
    (∀ r, r < 16 → bitOf need.toNat r = true → 0 < queueLevel (s.tile t) r) →
    ∃ u, exec (.feederRefill t need spent reqs) s = .next u ∧ tileOnly t [] s u ∧ u.tile t = { s.tile t with queues := (u.tile t).queues } ∧
      ∀ r, r < 16 → queueLevel (s.tile t) r - (if bitOf spent.toNat r = true ∧ bitOf need.toNat r = true then 1 else 0) ≤ queueLevel (u.tile t) r ∧
        queueLevel (u.tile t) r ≤ queueLevel (s.tile t) r - (if bitOf spent.toNat r = true ∧ bitOf need.toNat r = true then 1 else 0) +
          min 4 (reqs.filter fun p => p.1.val == r).length) ∧
  (∀ (t : Fin 32) (need spent : BitVec 16) (reqs : List (Fin 16 × Fin 32)) (s : State),
    (∃ r, r < 16 ∧ bitOf need.toNat r = true ∧ queueLevel (s.tile t) r = 0) →
    ∃ u, exec (.feederRefill t need spent reqs) s = .next u ∧ tileOnly t [R.NAV_CNT_STALL t] s u ∧
      u.tile t = { s.tile t with queues := (u.tile t).queues } ∧
      (u.reg (R.NAV_CNT_STALL t)).toNat = min (2 ^ 32 - 1) ((s.reg (R.NAV_CNT_STALL t)).toNat + 1) ∧
      (∀ r, queueLevel (s.tile t) r ≤ queueLevel (u.tile t) r) ∧
      ∀ r b, reqs = [(r, b)] → ∀ j, j < 16 → queueLevel (u.tile t) j =
        (if j = r.val ∧ queueLevel (s.tile t) j < 8 then queueLevel (s.tile t) j + 1 else queueLevel (s.tile t) j))

/-- The lowest `n` of a function's tiles that a task may take, if so many are idle. -/
def tilesFor (s : State) (f n : Nat) : Option (List Nat) := lowest n ((maskTiles s f).filter fun t => tileUp s t && tileIdle s t)

/-- The lowest `n` of a function's cores that a task may take. -/
def coresFor (s : State) (f n : Nat) : Option (List Nat) := lowest n ((maskCores s f).filter fun c => coreUp s c && coreIdle s c)

/-- The lists of a task run on its channels, the lowest free ones. -/
def streamsRun (it : RItem) (ts cs : List Nat) (s t : State) : Prop :=
  (∀ x, itemOf t it.id = some x → x.chans = ((List.range 192).filter (chanFree s)).take it.lists.length) ∧
  ∀ i c a : Nat, ((List.range 192).filter (chanFree s))[i]? = some c → it.lists[i]? = some a →
    t.chan c = { phase := .fetch, cur := a, item := some it.id, place := some (ts, cs) } ∧ chanState t c = 1 ∧ chanOwner t c = it.func ∧
    t.reg (chBytes c) = 0

/-- The tiles hold the item for function `f`. -/
def tilesHeld (f id : Nat) (ts : List Nat) (s t : State) : Prop :=
  (∀ k, k ∈ ts → t.tile k = { s.tile k with item := some id } ∧ tileState t k = nvBusy ∧
    t.fld (R.NAV_STAT k) F.NAV_STAT_OWNER = (if f = 16 then 0 else f) ∧ t.flag (R.NAV_STAT k) F.NAV_STAT_OWNER_PF = (f == 16)) ∧
  ∀ k, k < 32 → k ∉ ts → t.tile k = s.tile k ∧ t.reg (R.NAV_STAT k) = s.reg (R.NAV_STAT k)

/-- The cores run the item's program from ENTRY. -/
def coresHeld (id : Nat) (cs : List Nat) (s t : State) : Prop :=
  (∀ k, k ∈ cs → t.core k = { (s.core k).start (s.fld (R.CLO_ENTRY k) F.CLO_ENTRY_BUNDLE) with item := some id } ∧ coreState t k = cRunning ∧
    t.flag (R.CLO_CTL k) F.CLO_CTL_EN = true) ∧
  ∀ k, k < 16 → k ∉ cs → t.core k = s.core k ∧ t.reg (R.CLO_STAT k) = s.reg (R.CLO_STAT k)

/-- R144, R205, R317, R327. -/
def Obligations.TasksArePlaced : Prop :=
  (∀ (f : Fin 17) (it : RItem) (ts : List Nat) (s : State), waitingTask s f (·.tiles.isNone) = some it → itemOf s it.id = some it →
    it.cores = none → tilesFor s f it.tilesWant = some ts → fenceClear s it = true → chansReady s it = true →
    ∃ t, exec (.taskPlacement f) s = .next t ∧ t = { s with regs := t.regs, nav := t.nav, host := { s.host with items := t.host.items } } ∧
      RegsBut (ts.map R.NAV_STAT) s t ∧ tilesHeld f it.id ts s t ∧
      t.host.items = s.host.items.map fun x => if x.id = it.id then { x with tiles := some ts } else x) ∧
  (∀ (f : Fin 17) (it : RItem) (ts cs : List Nat) (s : State), waitingTask s f (·.tiles.isNone) = some it → itemOf s it.id = some it →
    it.cores = some cs → tilesFor s f it.tilesWant = some ts → fenceClear s it = true → chansReady s it = true →
    s.flag R.SE_CTL F.SE_CTL_EN = true → it.lists ≠ [] → it.chansDone = [] → it.audit = 0 → it.func < 17 →
    ∃ t, exec (.taskPlacement f) s = .next t ∧ tilesHeld f it.id ts s t ∧ streamsRun it ts cs s t ∧ t.hbm = s.hbm ∧ t.clo = s.clo ∧
      t.host.formed = s.host.formed ∧ (itemOf t it.id).map (·.tiles) = some (some ts)) ∧
  (∀ (f : Fin 17) (s : State), (∀ it, waitingTask s f (·.tiles.isNone) = some it →
      tilesFor s f it.tilesWant = none ∨ fenceClear s it = false ∨ chansReady s it = false) → exec (.taskPlacement f) s = .next s) ∧
  (∀ (f : Fin 17) (it : RItem) (cs : List Nat) (s : State), waitingTask s f (·.cores.isNone) = some it → itemOf s it.id = some it →
    it.tiles = none → coresFor s f it.coresWant = some cs → fenceClear s it = true → chansReady s it = true →
    ∃ t, exec (.coreTaskPlacement f) s = .next t ∧ t = { s with regs := t.regs, clo := t.clo, host := { s.host with items := t.host.items } } ∧
      RegsBut (cs.flatMap fun k => [R.CLO_STAT k, R.CLO_CTL k]) s t ∧ coresHeld it.id cs s t ∧
      t.host.items = s.host.items.map fun x => if x.id = it.id then { x with cores := some cs } else x) ∧
  (∀ (f : Fin 17) (it : RItem) (ts cs : List Nat) (s : State), waitingTask s f (·.cores.isNone) = some it → itemOf s it.id = some it →
    it.tiles = some ts → coresFor s f it.coresWant = some cs → fenceClear s it = true → chansReady s it = true →
    s.flag R.SE_CTL F.SE_CTL_EN = true → it.lists ≠ [] → it.chansDone = [] → it.audit = 0 → it.func < 17 →
    ∃ t, exec (.coreTaskPlacement f) s = .next t ∧ coresHeld it.id cs s t ∧ streamsRun it ts cs s t ∧ t.hbm = s.hbm ∧ t.nav = s.nav ∧
      t.host.formed = s.host.formed ∧ (itemOf t it.id).map (·.cores) = some (some cs)) ∧
  (∀ (f : Fin 17) (s : State), (∀ it, waitingTask s f (·.cores.isNone) = some it →
      coresFor s f it.coresWant = none ∨ fenceClear s it = false ∨ chansReady s it = false) → exec (.coreTaskPlacement f) s = .next s)

/-- A channel is idle after a stream item that ended with a status. -/
def chanIdle (c status : Nat) (t : State) : Prop :=
  t.chan c = {} ∧ chanState t c = 0 ∧ t.fld (chStat c) F.SE_CH_STAT_STATUS = status ∧ swapPend t c = false

/-- A stream item has failed: its channel is idle, and its ring item, if any, has completed (a comparison of the pair may follow). -/
def chanFailed (c status : Nat) (s t : State) : Prop :=
  (s.chan c).item = none ∨ twinRunning s = false → chanIdle c status t ∧ ∀ id, (s.chan c).item = some id → itemOf t id = none

/-- A SIGNAL of channel `c` on pair `p`: its counter rises by one below DEPTH, else SEM_OVF. -/
def signalled (c p : Nat) (s t : State) : Prop :=
  if semFull s p + semEmpty s p < semDepth s p then
    semFull t p = semFull s p + (if semProd s p = c then 1 else 0) ∧ semEmpty t p = semEmpty s p + (if semProd s p = c then 0 else 1)
  else t.flag R.SE_ERR F.SE_ERR_SEM_OVF = true ∧ t.reg (R.SE_SEM_CNT p) = s.reg (R.SE_SEM_CNT p)

/-- A descriptor of a channel with none outstanding is over: it has signalled, and the channel goes on at `next` or ends. -/
def descMoved (c next : Nat) (s t : State) : Prop :=
  (sdEol (s.chan c).desc = false → t.chan c = { s.chan c with phase := .fetch, cur := next, did := (s.chan c).did + 1, barrier := false } ∧
    chanState t c = 1 ∧ t.reg (R.SE_CH_CUR (c / 8) (c % 8)) = BitVec.ofNat 32 next) ∧
  (sdEol (s.chan c).desc = true → (s.chan c).item = none ∨ twinRunning s = false → chanIdle c stDone t) ∧
  (sdSigEn (s.chan c).desc = true → signalled c (sdSigPair (s.chan c).desc) s t) ∧
  (∀ p, p < 256 → sdSigEn (s.chan c).desc = false ∨ p ≠ sdSigPair (s.chan c).desc → t.reg (R.SE_SEM_CNT p) = s.reg (R.SE_SEM_CNT p))

/-- Channel `c` runs a descriptor of an opcode, with none outstanding. -/
def chanRuns (c op : Nat) (s : State) : Prop :=
  (s.chan c).phase = .run ∧ sdOpcode (s.chan c).desc = op ∧ (s.chan c).outst = []

/-- The descriptor at the channel's current address is read. -/
def fetched (c : Nat) (s s1 : State) (d : List Byte) : Prop :=
  mayFetch s c = true ∧ (s.chan c).cur % 64 = 0 ∧ vaRead (chanOwner s c) (s.chan c).cur 64 s = (s1, .ok d)

/-- The channel with that descriptor, ready to run. -/
def withDesc (c : Nat) (d : List Byte) (s s1 : State) : State :=
  markStartedOpt (s.chan c).item (s1.setChan c { s.chan c with begun := true, desc := d, phase := .run })

/-- A WAIT of the channel on pair `p` is granted at once: its counter is positive and no one of its side waits. -/
def pairFree (s : State) (p c : Nat) : Bool := semReady s p (sideOf s p c) && (s.sem p).waiters.all (·.2 != sideOf s p c)

/-- The commands that take up a fetched descriptor, with their opcodes (Table STR-2). -/
def takers (ch : Fin 192) : List (Nat × Instr) := [(0, .streamNop ch), (1, .copy ch), (2, .header ch), (3, .rows ch), (0xF, .link ch)]

/-- Rows of a context, held and issued. -/
def ctxRows (c : NavCtx) : Nat := segRows c.held + (c.groups.map fun g => segRows g.segs).foldl (· + ·) 0

/-- R217 to R221, R226 to R228, R232, R241, R560. -/
def Obligations.ChannelsAndDescriptors : Prop :=
  (∀ (a : Agent) (ch : Fin 192) (v : Word) (s : State), answers a (R.SE_CH_CTL (ch.val / 8) (ch.val % 8)) s = true → expertOn s 5 = true →
    F.SE_CH_CTL_GO.get v = 1 →
    (preEngine s (ch.val / 8) = false → s.flag R.SE_CTL F.SE_CTL_EN = true → (s.chan ch).phase = .idle → engineUp s (ch.val / 8) = true →
      ∃ t, exec (.channelGo a ch v) s = .next t ∧ t = { s with regs := t.regs, se := { s.se with chans := t.se.chans } } ∧
        RegsBut [R.SE_CH_CTL (ch.val / 8) (ch.val % 8), chStat ch, chBytes ch, R.SE_CH_CUR (ch.val / 8) (ch.val % 8)] s t ∧
        t.chan ch = { phase := .fetch, cur := s.pair (R.SE_CH_LIST_LO (ch.val / 8) (ch.val % 8)) (R.SE_CH_LIST_HI (ch.val / 8) (ch.val % 8)) } ∧
        (∀ k, k ≠ ch.val → t.chan k = s.chan k) ∧ chanState t ch = 1 ∧ t.reg (chBytes ch) = 0) ∧
    (preEngine s (ch.val / 8) = true → ∃ t, exec (.channelGo a ch v) s = .next t ∧ t = { s with regs := t.regs } ∧
        RegsBut [R.SE_CH_CTL (ch.val / 8) (ch.val % 8), R.SE_ERR] s t ∧ t.flag R.SE_ERR F.SE_ERR_RESV_START = true) ∧
    (preEngine s (ch.val / 8) = false → s.flag R.SE_CTL F.SE_CTL_EN = false ∨ (s.chan ch).phase ≠ .idle ∨ engineUp s (ch.val / 8) = false →
      ∃ t, exec (.channelGo a ch v) s = .next t ∧ t = { s with regs := t.regs } ∧ RegsBut [R.SE_CH_CTL (ch.val / 8) (ch.val % 8)] s t)) ∧
  (∀ (ch : Fin 192) (s : State), mayFetch s ch = true → (s.chan ch).cur % 64 ≠ 0 →
    ∀ c ∈ (takers ch).map (·.2) ++ [.undefinedStreamOpcode ch], ∃ t, exec c s = .next t ∧ chanFailed ch stRejected s t) ∧
  (∀ (ch : Fin 192) (s s1 : State) (e : AccErr), mayFetch s ch = true → (s.chan ch).cur % 64 = 0 →
    vaRead (chanOwner s ch) (s.chan ch).cur 64 s = (s1, .error e) → e.status < 256 → e.status ≠ stDone →
    ∀ c ∈ (takers ch).map (·.2) ++ [.undefinedStreamOpcode ch], ∃ t, exec c s = .next t ∧ chanFailed ch e.status s t) ∧
  (∀ (ch : Fin 192) (s s1 : State) (d : List Byte), fetched ch s s1 d → ∀ p ∈ takers ch,
    (sdOpcode d ≠ p.1 → exec p.2 s = .next s) ∧
    (sdOpcode d = p.1 → descOk (withDesc ch d s s1) (s.chan ch) d = true → pairsOk s ch d = true →
      (sdWaitEn d = false → exec p.2 s = exec p.2 (withDesc ch d s s1)) ∧
      (sdWaitEn d = true → pairFree s (sdWaitPair d) ch = true →
        exec p.2 s = exec p.2 (semTake (sdWaitPair d) (sideOf s (sdWaitPair d) ch) (withDesc ch d s s1))) ∧
      (sdWaitEn d = true → pairFree s (sdWaitPair d) ch = false →
        ∃ t, exec p.2 s = .next t ∧ chanState t ch = 2 ∧ t.chan ch = { s.chan ch with begun := true, desc := d, phase := .wait } ∧
          (t.sem (sdWaitPair d)).waiters = (s.sem (sdWaitPair d)).waiters ++ [(ch.val, sideOf s (sdWaitPair d) ch)])) ∧
    (sdOpcode d = p.1 → descOk (withDesc ch d s s1) (s.chan ch) d = false ∨ pairsOk s ch d = false →
      ∃ t, exec p.2 s = .next t ∧ chanFailed ch stRejected s t)) ∧
  (∀ (ch : Fin 192) (s s1 : State) (d : List Byte), fetched ch s s1 d →
    (knownOpcode (sdOpcode d) = false → ∃ t, exec (.undefinedStreamOpcode ch) s = .next t ∧ chanFailed ch stRejected s t) ∧
    (knownOpcode (sdOpcode d) = true → exec (.undefinedStreamOpcode ch) s = .next s)) ∧
  (∀ (ch : Fin 192) (s : State), (s.chan ch).phase = .idle ∨ (s.chan ch).phase = .wait ∨ (s.chan ch).phase = .drain →
    ∀ c ∈ (takers ch).map (·.2) ++ [.undefinedStreamOpcode ch], exec c s = .next s) ∧
  (∀ (ch : Fin 192) (s : State), chanRuns ch 0 s → ∃ t, exec (.streamNop ch) s = .next t ∧ descMoved ch ((s.chan ch).cur + 64) s t) ∧
  (∀ (ch : Fin 192) (s : State), chanRuns ch 0xF s → ∃ t, exec (.link ch) s = .next t ∧ descMoved ch (lkNext (s.chan ch).desc) s t) ∧
  (∀ (ch : Fin 192) (tl : Nat) (s s1 : State) (m : List Byte), chanRuns ch 2 s → tl = tileOfRank (s.chan ch) (hdTile (s.chan ch).desc) →
    tileOpen s tl = true → vaRead (chanOwner s ch) (msMult (hdBytes (s.chan ch).desc))
      (4 * (if msPerCh (hdBytes (s.chan ch).desc) then msN (hdBytes (s.chan ch).desc) else 1)) s = (s1, .ok m) →
    let mults := wordsOf (if msPerCh (hdBytes (s.chan ch).desc) then msN (hdBytes (s.chan ch).desc) else 1) m
    (((s.tile tl).ctx (msCtx (hdBytes (s.chan ch).desc))).hdr = none → mults.all multOk = true → sdEol (s.chan ch).desc = false →
      ∃ t, exec (.header ch) s = .next t ∧ (t.tile tl).ctx (msCtx (hdBytes (s.chan ch).desc)) =
        { hdr := some (hdrOf (hdBytes (s.chan ch).desc) (expertOn s 4) mults), ring := (s.chan ch).item.isSome } ∧
        t.flag (R.NAV_STR_STAT tl (msCtx (hdBytes (s.chan ch).desc))) F.NAV_STR_STAT_OPEN = true ∧
        (sdSwap (s.chan ch).desc = false → descMoved ch ((s.chan ch).cur + 64) s t)) ∧
    (((s.tile tl).ctx (msCtx (hdBytes (s.chan ch).desc))).hdr.isSome = true ∨ mults.all multOk = false →
      ∃ t, exec (.header ch) s = .next t ∧ chanFailed ch stRejected s t)) ∧
  (∀ (ch : Fin 192) (s : State), chanRuns ch 2 s → tileOpen s (tileOfRank (s.chan ch) (hdTile (s.chan ch).desc)) = false →
    ∃ t, exec (.header ch) s = .next t ∧ chanFailed ch stTrans s t) ∧
  (∀ (ch : Fin 192) (tl : Nat) (h : NavHdr) (s : State), chanRuns ch 3 s → tl = tileOfRank (s.chan ch) (rwTile (s.chan ch).desc) →
    tileOpen s tl = true → ((s.tile tl).ctx (rwCtx (s.chan ch).desc)).hdr = some h →
    ((rowsRanges h (s.chan ch).desc).all (fun r => r.2 ≤ 0x200000) = true → queuedReqs (s.tile tl) (rwCtx (s.chan ch).desc) < 4 →
      (s.tile tl).swaps = [] →
      ∃ t q, exec (.rows ch) s = .next t ∧ ((t.tile tl).ctx (rwCtx (s.chan ch).desc)).reqs = ((s.tile tl).ctx (rwCtx (s.chan ch).desc)).reqs ++ [q] ∧
        q = { ser := (s.tile tl).nextSer, chan := ch.val, did := (s.chan ch).did, m := rwM (s.chan ch).desc, aOfs := rwA (s.chan ch).desc,
              wOfs := rwW (s.chan ch).desc, oOfs := rwO (s.chan ch).desc, last := sdLast (s.chan ch).desc, close := sdClose (s.chan ch).desc,
              left := rwM (s.chan ch).desc } ∧
        ctxRows ((t.tile tl).ctx (rwCtx (s.chan ch).desc)) = ctxRows ((s.tile tl).ctx (rwCtx (s.chan ch).desc)) + rwM (s.chan ch).desc ∧
        (t.chan ch).phase = (if sdEol (s.chan ch).desc then .drain else .fetch) ∧ (t.chan ch).outst.length = 1 ∧
        ∀ p, p < 256 → t.reg (R.SE_SEM_CNT p) = s.reg (R.SE_SEM_CNT p)) ∧
    ((rowsRanges h (s.chan ch).desc).all (fun r => r.2 ≤ 0x200000) = true → 4 ≤ queuedReqs (s.tile tl) (rwCtx (s.chan ch).desc) →
      exec (.rows ch) s = .next s) ∧
    ((rowsRanges h (s.chan ch).desc).all (fun r => r.2 ≤ 0x200000) = false → ∃ t, exec (.rows ch) s = .next t ∧ chanFailed ch stRejected s t)) ∧
  (∀ (ch : Fin 192) (s : State), chanRuns ch 3 s →
    (tileOpen s (tileOfRank (s.chan ch) (rwTile (s.chan ch).desc)) = false → ∃ t, exec (.rows ch) s = .next t ∧ chanFailed ch stTrans s t) ∧
    (tileOpen s (tileOfRank (s.chan ch) (rwTile (s.chan ch).desc)) = true →
      ((s.tile (tileOfRank (s.chan ch) (rwTile (s.chan ch).desc))).ctx (rwCtx (s.chan ch).desc)).hdr = none →
      ∃ t, exec (.rows ch) s = .next t ∧ chanFailed ch stRejected s t))

/-- The source of the next burst of a COPY at index entry `xi`, and its destination. -/
def srcAt (x : Chan) (xi : Nat) : Side :=
  { mkSide x false (copyPos x).1 xi with addr := (mkSide x false (copyPos x).1 xi).addr + (copyPos x).2 }
def dstAt (x : Chan) (xi : Nat) : Side :=
  { mkSide x true (copyPos x).1 xi with addr := (mkSide x true (copyPos x).1 xi).addr + (copyPos x).2 }

/-- How many bytes that burst moves. -/
def burstSize (x : Chan) (xi : Nat) : Nat := burstLen (cpElem x.desc) (copyPos x).2 (srcAt x xi).addr (dstAt x xi).addr

/-- Engine `e` has given the turn to its channel `c`. -/
def turned (e c : Nat) (s : State) : State := { s with se := { s.se with turn := Tab.set (fun _ => 0) s.se.turn e ((c + 1) % 8) } }

/-- The channel that engine `e` serves next. -/
def turnOf (s : State) (e : Nat) : Option Nat :=
  ((List.range 8).map fun i => 8 * e + (Tab.get (fun _ => 0) s.se.turn e + i) % 8).find? (burstable s)

/-- A linear COPY of one element of `n` bytes, within a page of each side. -/
def oneElement (c n : Nat) (s : State) : Prop :=
  chanRuns c 1 s ∧ cpMode (s.chan c).desc = 0 ∧ cpCount (s.chan c).desc = 1 ∧ cpElem (s.chan c).desc = n ∧ 1 ≤ n

/-- Where endpoint address `a` lies in tile `tl`'s memory, and whether its half is spilled under ring work (R33, log 47). -/
def tileAddr (tl a : Nat) (s : State) : Nat := roleBase s tl (epTileRole a) + epTileOfs a
abbrev toSpilled (c tl a : Nat) (s : State) : Prop := epTileRole a = 0 ∧ (s.chan c).item.isSome = true ∧ (s.tile tl).copy.isSome = true

/-- R216, R222 to R226, R231. -/
def Obligations.CopiesAndBursts : Prop :=
  (∀ (ch : Fin 192) (n tl : Nat) (s s1 : State) (bs : List Byte), oneElement ch n s → cpSrcSpace (s.chan ch).desc = 0 →
    cpDstSpace (s.chan ch).desc = 1 → tl = tileOfRank (s.chan ch) (epTileRank (cpDst (s.chan ch).desc)) → tileOpen s tl = true →
    cpSrc (s.chan ch).desc + n ≤ 2 ^ 48 → epTileOfs (cpDst (s.chan ch).desc) + n ≤ 0x200000 →
    cpSrc (s.chan ch).desc % 4096 + n ≤ 4096 → epTileOfs (cpDst (s.chan ch).desc) % 4096 + n ≤ 4096 →
    vaRead (chanOwner s ch) (cpSrc (s.chan ch).desc) n s = (s1, .ok bs) →
    ∃ t, exec (.copy ch) s = .next t ∧ t.hbm = s.hbm ∧ (∀ k, k ≠ tl → (t.tile k).sram = (s.tile k).sram) ∧
      (t.tile tl).sram = (if toSpilled ch tl (cpDst (s.chan ch).desc) s then (s.tile tl).sram else (s.tile tl).sram.write (tileAddr tl (cpDst (s.chan ch).desc) s) bs) ∧
      (sdSwap (s.chan ch).desc = false → sdEol (s.chan ch).desc = false → ∀ p, toSpilled ch tl (cpDst (s.chan ch).desc) s → (s.tile tl).copy = some p →
        (t.tile tl).copy = some (p.1.write (tileAddr tl (cpDst (s.chan ch).desc) s) bs, p.2)) ∧
      (sdSwap (s.chan ch).desc = false → sdEol (s.chan ch).desc = false →
        (t.reg (chBytes ch)).toNat = min (2 ^ 32 - 1) ((s.reg (chBytes ch)).toNat + n) ∧ (t.chan ch).phase = .fetch ∧
        (t.chan ch).cur = (s.chan ch).cur + 64)) ∧
  (∀ (ch : Fin 192) (n tl : Nat) (s s1 : State), oneElement ch n s → cpSrcSpace (s.chan ch).desc = 1 →
    cpDstSpace (s.chan ch).desc = 0 → tl = tileOfRank (s.chan ch) (epTileRank (cpSrc (s.chan ch).desc)) → tileOpen s tl = true →
    cpDst (s.chan ch).desc + n ≤ 2 ^ 48 → epTileOfs (cpSrc (s.chan ch).desc) + n ≤ 0x200000 →
    cpDst (s.chan ch).desc % 4096 + n ≤ 4096 → epTileOfs (cpSrc (s.chan ch).desc) % 4096 + n ≤ 4096 →
    vaWrite (chanOwner s ch) (cpDst (s.chan ch).desc)
      ((s.tile tl).sram.read (roleBase s tl (epTileRole (cpSrc (s.chan ch).desc)) + epTileOfs (cpSrc (s.chan ch).desc)) n) s = (s1, none) →
    sdEol (s.chan ch).desc = false → sdSwap (s.chan ch).desc = false → (s.tile tl).copy = none →
    ∃ t, exec (.copy ch) s = .next t ∧ t.hbm = s1.hbm ∧ t.hostMem = s1.hostMem ∧ t.nav = s.nav ∧ t.clo = s.clo ∧
      (t.chan ch).phase = .fetch ∧ (t.chan ch).cur = (s.chan ch).cur + 64) ∧
  (∀ (ch : Fin 192) (n : Nat) (s s1 : State) (e : AccErr), oneElement ch n s → cpSrcSpace (s.chan ch).desc = 0 →
    cpDstSpace (s.chan ch).desc = 1 → cpSrc (s.chan ch).desc + n ≤ 2 ^ 48 → cpSrc (s.chan ch).desc % 4096 + n ≤ 4096 →
    epTileOfs (cpDst (s.chan ch).desc) % 4096 + n ≤ 4096 → vaRead (chanOwner s ch) (cpSrc (s.chan ch).desc) n s = (s1, .error e) →
    e.status ≠ stDone → e.status < 256 →
    ∃ t, exec (.copy ch) s = .next t ∧ t.hbm = s.hbm ∧ chanFailed ch e.status s t) ∧
  (∀ (ch : Fin 192) (n : Nat) (s : State), oneElement ch n s → cpSrcSpace (s.chan ch).desc = 1 →
    tileOpen s (tileOfRank (s.chan ch) (epTileRank (cpSrc (s.chan ch).desc))) = false →
    ∃ t, exec (.copy ch) s = .next t ∧ t.hbm = s.hbm ∧ chanFailed ch stTrans s t) ∧
  (∀ (e : Fin 24) (c xi : Nat) (bs : List Byte) (s s1 s2 s3 : State), turnOf s e = some c →
    ((s.chan c).phase = .run ∨ ∃ i o, (s.chan c).phase = .move i o) → writeHeld (s.chan c) = false →
    indexOf c (copyPos (s.chan c)).1 (turned e c s) = (s1, .ok xi) →
    hazard (s.chan c) (srcAt (s.chan c) xi) (dstAt (s.chan c) xi) (burstSize (s.chan c) xi) = false →
    readSide c (burstSize (s.chan c) xi) (srcAt (s.chan c) xi) s1 = (s2, .ok bs) → writeSide c bs (dstAt (s.chan c) xi) s2 = (s3, none) →
    ((copyPos (s.chan c)).2 + burstSize (s.chan c) xi < cpElem (s.chan c).desc ∨ (copyPos (s.chan c)).1 + 1 < cpCount (s.chan c).desc) →
    ((copyPos (s.chan c)).1 < cpCount (s.chan c).desc) →
    ∃ t, exec (.seBurst e) s = .next t ∧ t.hbm = s3.hbm ∧ t.hostMem = s3.hostMem ∧ t.nav = s3.nav ∧ t.clo = s3.clo ∧
      t.se.turn = (turned e c s).se.turn ∧ (∀ k, k ≠ c → t.chan k = s.chan k) ∧
      RegsBut [chBytes c, R.SE_PERF_BYTES (c / 8)] s3 t ∧
      (t.reg (chBytes c)).toNat = min (2 ^ 32 - 1) ((s.reg (chBytes c)).toNat + bs.length) ∧
      t.reg (R.SE_PERF_BYTES (c / 8)) = s.reg (R.SE_PERF_BYTES (c / 8)) + BitVec.ofNat 32 bs.length ∧
      (t.chan c).phase = (if (copyPos (s.chan c)).2 + burstSize (s.chan c) xi < cpElem (s.chan c).desc then
        .move (copyPos (s.chan c)).1 ((copyPos (s.chan c)).2 + burstSize (s.chan c) xi) else .move ((copyPos (s.chan c)).1 + 1) 0)) ∧
  (∀ (e : Fin 24) (c xi : Nat) (s s1 : State), turnOf s e = some c →
    ((s.chan c).phase = .run ∨ ∃ i o, (s.chan c).phase = .move i o) → writeHeld (s.chan c) = false →
    indexOf c (copyPos (s.chan c)).1 (turned e c s) = (s1, .ok xi) →
    hazard (s.chan c) (srcAt (s.chan c) xi) (dstAt (s.chan c) xi) (burstSize (s.chan c) xi) = true →
    ∃ t, exec (.seBurst e) s = .next t ∧ t.hbm = s.hbm ∧ t.nav = s.nav ∧ t.clo = s.clo ∧ t.chan c = { s.chan c with hazard := true } ∧
      RegsBut [chHaz c] s t ∧
      t.fld (chHaz c) F.SE_CH_HAZ_CNT = (if (s.chan c).hazard then s.fld (chHaz c) F.SE_CH_HAZ_CNT
        else min F.SE_CH_HAZ_CNT.max (s.fld (chHaz c) F.SE_CH_HAZ_CNT + 1))) ∧
  (∀ (e : Fin 24) (s : State), turnOf s e = none → exec (.seBurst e) s = .next s)

/-- SE_SEMp_CNT of a pair that has just been configured with DEPTH `d`. -/
def pairFresh (p d : Nat) (t : State) : Prop := semFull t p = 0 ∧ semEmpty t p = d ∧ (t.sem p).conf = true

/-- Where word `w` of a core's semaphore line lies. -/
def lineAddr (s : State) (c w : Nat) : Nat := s.fld (R.SE_CSL c) F.SE_CSL_LINE * 64 + 4 * w

/-- The word of a core's oldest command. -/
def cslWord (s : State) (c w : Nat) : Nat := leNat ((s.core c).dmem.read (lineAddr s c w) 4)

/-- Word `w` of core `c`'s line is written back: VALID 0, GRANTED as given, bit 30 and the pair as they were. -/
def wordBack (c w v : Nat) (granted : Bool) (s t : State) : Prop :=
  t.core c = { s.core c with dmem := (s.core c).dmem.write (lineAddr s c w) (leBytes 4 (v % 2 ^ 29 + v / 2 ^ 30 % 2 * 2 ^ 30 + granted.toNat * 2 ^ 29)) }

/-- The counter a side waits on has fallen by one; the other stands. -/
def pairTaken (p : Nat) (consumer : Bool) (s t : State) : Prop :=
  semFull t p = semFull s p - (if consumer then 1 else 0) ∧ semEmpty t p = semEmpty s p - (if consumer then 0 else 1)

/-- Core `c`'s oldest command, on word `w`, names pair `p` and is one the core may make. -/
def cslDue (c w p : Nat) (ws : List Nat) (s : State) : Prop :=
  cslOf s c = w :: ws ∧ cslWord s c w % 256 = p ∧ (s.sem p).waiters.any (·.1 == 0xC0 + c) = false ∧
  bitOf (cslWord s c w) 31 = true ∧ ∃ f, coreOwner s c = some f ∧ semAllowed s p (0xC0 + c) f = true

/-- Core `c` sees event 16, SEMA: pending, or lost when it already was. -/
def semaRaised (c : Nat) (s t : State) : Prop :=
  bitOf (t.fld (R.CLO_EVP c) F.CLO_EVP_EVP) 16 = true ∧
  (bitOf (s.fld (R.CLO_EVP c) F.CLO_EVP_EVP) 16 = true → t.flag (R.CLO_STAT c) F.CLO_STAT_EVOVF = true)

/-- R236 to R243. -/
def Obligations.SemaphoresAndSwaps : Prop :=
  (∀ (a : Agent) (p : Fin 256) (v : Word) (s : State), answers a (R.SE_SEM_CFG p) s = true →
    ((s.sem p).waiters ≠ [] → exec (.semCfgWrite a p v) s = .next (s.setReg R.SE_ERR (F.SE_ERR_SEM_BUSY.put (s.reg R.SE_ERR) 1))) ∧
    ((s.sem p).waiters = [] → F.SE_SEM_CFG_PROD.get v = F.SE_SEM_CFG_CONS.get v →
      exec (.semCfgWrite a p v) s = .next (s.setReg R.SE_ERR (F.SE_ERR_SEM_AGENT.put (s.reg R.SE_ERR) 1))) ∧
    ((s.sem p).waiters = [] → F.SE_SEM_CFG_PROD.get v ≠ F.SE_SEM_CFG_CONS.get v →
      ∃ t, exec (.semCfgWrite a p v) s = .next t ∧ t = { s with regs := t.regs, se := { s.se with sems := t.se.sems } } ∧
        semProd t p = F.SE_SEM_CFG_PROD.get v ∧ semCons t p = F.SE_SEM_CFG_CONS.get v ∧
        semDepth t p = max 1 (min 256 (F.SE_SEM_CFG_DEPTH.get v)) ∧ (∀ k, k ≠ p.val → t.sem k = s.sem k) ∧
        RegsBut [R.SE_SEM_CFG p, R.SE_SEM_CNT p] s t ∧
        (s.flag (R.SE_SEM_OWN p) F.SE_SEM_OWN_EN = true → pairFresh p (max 1 (min 256 (F.SE_SEM_CFG_DEPTH.get v))) t) ∧
        (s.flag (R.SE_SEM_OWN p) F.SE_SEM_OWN_EN = false → t.sem p = s.sem p ∧ t.reg (R.SE_SEM_CNT p) = s.reg (R.SE_SEM_CNT p)))) ∧
  (∀ (a : Agent) (p : Fin 256) (v : Word) (s : State), answers a (R.SE_SEM_OWN p) s = true →
    ∃ t, exec (.semOwnWrite a p v) s = .next t ∧ t = { s with regs := t.regs, se := { s.se with sems := t.se.sems } } ∧
      RegsBut [R.SE_SEM_OWN p] s t ∧ F.SE_SEM_OWN_VI.get (t.reg (R.SE_SEM_OWN p)) = F.SE_SEM_OWN_VI.get v ∧
      F.SE_SEM_OWN_PF.get (t.reg (R.SE_SEM_OWN p)) = F.SE_SEM_OWN_PF.get v ∧
      t.flag (R.SE_SEM_OWN p) F.SE_SEM_OWN_EN = (F.SE_SEM_OWN_EN.get v == 1) ∧ t.sem p = { s.sem p with conf := false } ∧
      ∀ k, k ≠ p.val → t.sem k = s.sem k) ∧
  (∀ (a : Agent) (p : Fin 256) (s : State), answers a (R.SE_SEM_OP p) s = true →
    (expertOn s 5 = true → (s.sem p).conf = true → semProd s p = 0xFF → semFull s p + semEmpty s p < semDepth s p →
      ∃ t, exec (.semOpProducer a p) s = .next t ∧ t = { s with regs := t.regs } ∧ RegsBut [R.SE_SEM_CNT p] s t ∧
        semFull t p = semFull s p + 1 ∧ semEmpty t p = semEmpty s p) ∧
    (expertOn s 5 = true → (s.sem p).conf = true → semCons s p = 0xFF → semFull s p + semEmpty s p < semDepth s p →
      ∃ t, exec (.semOpConsumer a p) s = .next t ∧ t = { s with regs := t.regs } ∧ RegsBut [R.SE_SEM_CNT p] s t ∧
        semFull t p = semFull s p ∧ semEmpty t p = semEmpty s p + 1) ∧
    (expertOn s 5 = true → (s.sem p).conf = false ∨ semProd s p ≠ 0xFF →
      ∃ t, exec (.semOpProducer a p) s = .next t ∧ t = { s with regs := t.regs } ∧ RegsBut [] s t) ∧
    (expertOn s 5 = true → (s.sem p).conf = false ∨ semCons s p ≠ 0xFF →
      ∃ t, exec (.semOpConsumer a p) s = .next t ∧ t = { s with regs := t.regs } ∧ RegsBut [] s t) ∧
    (expertOn s 5 = true → (s.sem p).conf = true → semProd s p = 0xFF → semDepth s p ≤ semFull s p + semEmpty s p →
      ∃ t, exec (.semOpProducer a p) s = .next t ∧ EventsOnly [R.SE_ERR] s t ∧ t.flag R.SE_ERR F.SE_ERR_SEM_OVF = true)) ∧
  (∀ (p : Fin 256) (cons : Bool) (c : Fin 192) (s : State), semReady s p cons = true →
    (s.sem p).waiters.find? (·.2 == cons) = some (c.val, cons) →
    ∃ t, exec (.semWaitGrant p cons) s = .next t ∧ t = { s with regs := t.regs, se := { s.se with chans := t.se.chans, sems := t.se.sems } } ∧
      RegsBut [R.SE_SEM_CNT p, chStat c] s t ∧ pairTaken p cons s t ∧ t.chan c = { s.chan c with phase := .run } ∧ chanState t c = 1 ∧
      (∀ k, k ≠ c.val → t.chan k = s.chan k) ∧ (t.sem p).waiters = (s.sem p).waiters.erase (c.val, cons) ∧
      ∀ k, k ≠ p.val → t.sem k = s.sem k) ∧
  (∀ (p : Fin 256) (cons : Bool) (c : Fin 16) (w : Nat) (ws : List Nat) (s : State), semReady s p cons = true →
    (s.sem p).waiters.find? (·.2 == cons) = some (0xC0 + c.val, cons) → cslOf s c = w :: ws →
    ∃ t, exec (.semWaitGrant p cons) s = .next t ∧ pairTaken p cons s t ∧ cslOf t c = ws ∧ semaRaised c s t ∧
      wordBack c w (cslWord s c w) true s t ∧ (t.sem p).waiters = (s.sem p).waiters.erase (0xC0 + c.val, cons) ∧
      RegsBut [R.SE_SEM_CNT p, R.CLO_EVP c, R.CLO_EVLOST c, R.CLO_STAT c] s t) ∧
  (∀ (p : Fin 256) (cons : Bool) (s : State), semReady s p cons = false ∨ (s.sem p).waiters.all (·.2 != cons) = true →
    exec (.semWaitGrant p cons) s = .next s) ∧
  (∀ (c : Fin 16) (w p : Nat) (ws : List Nat) (s : State), cslDue c w p ws s →
    (bitOf (cslWord s c w) 30 = true →
      ∃ t, exec (.cslCommand c) s = .next t ∧ cslOf t c = ws ∧ signalled (0xC0 + c.val) p s t ∧ wordBack c w (cslWord s c w) false s t) ∧
    (bitOf (cslWord s c w) 30 = false → pairFree s p (0xC0 + c.val) = true →
      ∃ t, exec (.cslCommand c) s = .next t ∧ cslOf t c = ws ∧ pairTaken p (sideOf s p (0xC0 + c.val)) s t ∧ semaRaised c s t ∧
        wordBack c w (cslWord s c w) true s t ∧ (t.sem p).waiters = (s.sem p).waiters) ∧
    (bitOf (cslWord s c w) 30 = false → pairFree s p (0xC0 + c.val) = false →
      exec (.cslCommand c) s = .next (s.setSem p { s.sem p with waiters := (s.sem p).waiters ++ [(0xC0 + c.val, sideOf s p (0xC0 + c.val))] }))) ∧
  (∀ (c : Fin 16) (w : Nat) (ws : List Nat) (s : State), cslOf s c = w :: ws →
    ((s.sem (cslWord s c w % 256)).waiters.any (·.1 == 0xC0 + c.val) = true → exec (.cslCommand c) s = .next s) ∧
    ((s.sem (cslWord s c w % 256)).waiters.any (·.1 == 0xC0 + c.val) = false → bitOf (cslWord s c w) 31 = false →
      exec (.cslCommand c) s = .next (setCsl c ws s)) ∧
    ((s.sem (cslWord s c w % 256)).waiters.any (·.1 == 0xC0 + c.val) = false → bitOf (cslWord s c w) 31 = true →
      (∀ f, coreOwner s c = some f → semAllowed s (cslWord s c w % 256) (0xC0 + c.val) f = false) →
      ∃ t, exec (.cslCommand c) s = .next t ∧ t = { s with regs := t.regs, se := { s.se with csl := t.se.csl } } ∧ cslOf t c = ws ∧
        RegsBut [R.SE_ERR] s t ∧ t.flag R.SE_ERR F.SE_ERR_SEM_AGENT = true)) ∧
  (∀ (c : Fin 16) (s : State), cslOf s c = [] → exec (.cslCommand c) s = .next s) ∧
  (∀ (tl : Fin 32) (c : Nat) (cs : List Nat) (s : State), (s.tile tl).swaps = c :: cs → tileState s tl = nvBusy ∨ tileState s tl = nvIdle →
    roleFree (s.tile tl) = true → c < 192 →
    ∃ t, exec (.swapEffect tl) s = .next t ∧ t.fld (R.NAV_STAT tl) F.NAV_STAT_ROLE = 1 - s.fld (R.NAV_STAT tl) F.NAV_STAT_ROLE ∧
      (t.tile tl).sram = (s.tile tl).sram ∧ ((s.chan c).phase ≠ .drain → (s.chan c).outst = [] →
        (t.tile tl).swaps = cs ∧ swapPend t c = false ∧ ((s.tile tl).later = [] → t.tile tl = { s.tile tl with swaps := cs })) ∧
      ((s.chan c).phase = .drain → (s.chan c).outst = [] → (s.chan c).item = none → chanIdle c stDone t)) ∧
  (∀ (tl : Fin 32) (s : State), (s.tile tl).swaps = [] ∨ (tileState s tl ≠ nvBusy ∧ tileState s tl ≠ nvIdle) ∨ roleFree (s.tile tl) = false →
    exec (.swapEffect tl) s = .next s)

/-- A ring item ends with one more outcome: its completion takes the first status that applies (a comparison of the pair may follow). -/
def ringEnds (it : RItem) (status detail : Nat) (s t : State) : Prop :=
  itemOf t it.id = none ∧ (twinRunning s = false → ∃ x ∈ t.host.formed, x.func = it.func ∧ x.sq = it.sq ∧ x.sqIdx = it.idx ∧ x.cq = it.cq ∧
    x.tag = dTag it.desc ∧ x.itemId = dItemId it.desc ∧
    x.status = (firstStatus (it.outcomes ++ [(status, detail)] ++ if twinHalted s then [(stTwin, 0)] else [])).1 ∧
    (x.status = stLink ∨ x.status = stAborted ∨ x.status = stMem ∨ x.status = stTrans →
      x.detail = (firstStatus (it.outcomes ++ [(status, detail)] ++ if twinHalted s then [(stTwin, 0)] else [])).2))

/-- The item that a COLLECTIVE, and only it, takes up next. -/
def collNext (f q : Nat) (it : RItem) (s : State) : Prop := frontItem s f q = some it ∧ dOpcode it.desc = 3 ∧ itemOf s it.id = some it

/-- The function may submit it, and its plan reads as `p`. -/
def collReads (it : RItem) (p : List Byte) (s s1 : State) : Prop :=
  collFn s it.func = true ∧ ownedChans (updItem it.id (fun x => { x with active := true }) s) it.func ≤
    s.fld (R.VIS_QUOTA (visPage it.func)) F.VIS_QUOTA_CHANNELS ∧ collPlan it.desc % 64 = 0 ∧ s.spk.off = false ∧
  vaRead it.func (collPlan it.desc) 64 (updItem it.id (fun x => { x with active := true }) s) = (s1, .ok p)

/-- A COLL descriptor of one kind of step, in range and allowed. -/
def stepGood (c step : Nat) (s : State) : Prop :=
  chanRuns c 7 s ∧ collOk (s.chan c).desc = true ∧ expertOn s 9 = true ∧ collFn s (chanOwner s c) = true ∧ clStep (s.chan c).desc = step

/-- The peer of a step can be reached. -/
def peerUp (c : Nat) (s : State) : Prop :=
  s.spk.off = false ∧ discSettled s = true ∧ nodeThere s (clPeer (s.chan c).desc) = true

/-- The message of a SEND step: a head flit and its data. -/
def stepTx (c plane : Nat) (bs : List Byte) (s : State) : SpkTx :=
  let d := (s.chan c).desc
  ⟨clClass d, (2, c), headFlit (clPeer d) (ownNode s) (clClass d) plane (clCollId d) (clMsg d) bs.length 0 0 ::
    dataFlits (clClass d) (flitCount bs.length) bs⟩

/-- The commands of the three kinds of step. -/
def stepCmds (ch : Fin 192) : List (Nat × Instr) := [(0, .collSend ch), (1, .collRecv ch), (2, .collRecvSum ch)]

/-- R326, R393, R400, R410 to R423. -/
def Obligations.Collectives : Prop :=
  (∀ (f : Fin 17) (q : Fin 8) (it : RItem) (s : State), collNext f q it s →
    (collFn s it.func = false ∨ collPlan it.desc % 64 ≠ 0 ∨ s.fld (R.VIS_QUOTA (visPage it.func)) F.VIS_QUOTA_CHANNELS <
        ownedChans (updItem it.id (fun x => { x with active := true }) s) it.func →
      ∃ t, exec (.collective f q) s = .next t ∧ ringEnds it stRejected 0 s t) ∧
    (collFn s it.func = true → collPlan it.desc % 64 = 0 → ownedChans (updItem it.id (fun x => { x with active := true }) s) it.func ≤
        s.fld (R.VIS_QUOTA (visPage it.func)) F.VIS_QUOTA_CHANNELS → s.spk.off = true →
      ∃ t, exec (.collective f q) s = .next t ∧ ringEnds it stPower 0 s t) ∧
    (∀ p s1, collReads it p s s1 → planOk p = false ∨ collLen it.desc % elSize (cvDtype p) ≠ 0 →
      ∃ t, exec (.collective f q) s = .next t ∧ ringEnds it stRejected 0 s t) ∧
    (∀ p s1, collReads it p s s1 → planOk p = true → collLen it.desc % elSize (cvDtype p) = 0 →
      (discSettled s = false → ∃ t, exec (.collective f q) s = .next t ∧ t = { s with host := t.host, spk := t.spk, mem := s1.mem } ∧
        t.spk = { s.spk with runs := s.spk.runs ++ [{ item := it.id, func := it.func, plan := p, buf := collBuf it.desc, len := collLen it.desc }] } ∧
        t.host = { s.host with items := s.host.items.map fun x => if x.id = it.id then { x with active := true } else x }) ∧
      (runOf s it.id = none → discSettled s = true → discState s ≠ dExcluded →
        (cvMembers p).contains (ownNode s) = false ∨ (cvKind p = 3 ∧ (cvMembers p).contains (cvRoot p) = false) →
        ∃ t, exec (.collective f q) s = .next t ∧ ringEnds it stRejected 0 s t) ∧
      (runOf s it.id = none → discSettled s = true → (cvMembers p).contains (ownNode s) = true →
        cvKind p ≠ 3 ∨ (cvMembers p).contains (cvRoot p) = true → (cvMembers p).all (nodeThere s) = false →
        ∃ t, exec (.collective f q) s = .next t ∧ ringEnds it stLink (unitDetail kSpoke 0xFF 3) s t) ∧
      (∀ s2 bs, runOf s it.id = none → s.spk.early = [] → discSettled s = true → cvMembers p = [ownNode s] → nodeThere s (ownNode s) = true →
        cvKind p = 3 → cvRoot p = ownNode s → anyQueued s (1, it.id) = false → vaRead it.func (collBuf it.desc) (collLen it.desc) s1 = (s2, .ok bs) →
        ∃ t, exec (.collective f q) s = .next t ∧ ringEnds it stDone 0 s t ∧ t.hbm = s.hbm ∧ t.spk.runs = s.spk.runs))) ∧
  (∀ (i : BitVec 32) (r : CollRun) (it : RItem) (s : State), runOf s i.toNat = some r → itemOf s i.toNat = some it →
    (r.started = false → ∃ t, exec (.discoveryWaitTimeout i) s = .next t ∧ ringEnds it stLink (unitDetail kSpoke 0xFF 4) s t ∧ runOf t i.toNat = none) ∧
    (r.started = true → ∃ t, exec (.collTimeout i) s = .next t ∧ ringEnds it stAborted (unitDetail kSpoke 0xFF 5) s t ∧ runOf t i.toNat = none)) ∧
  (∀ (i : BitVec 32) (s : State), ((∀ r, runOf s i.toNat = some r → r.started = true) → exec (.discoveryWaitTimeout i) s = .next s) ∧
    ((∀ r, runOf s i.toNat = some r → r.started = false) → exec (.collTimeout i) s = .next s)) ∧
  (∀ (id : Word) (reason : Byte) (s : State), ∃ t, exec (.abortReceive id reason) s = .next t ∧
    (∀ r ∈ s.spk.runs, cvCollId r.plan = id.toNat → itemOf t r.item = none ∧ runOf t r.item = none) ∧
    (∀ r ∈ s.spk.runs, (∀ x ∈ s.spk.runs, cvCollId x.plan = id.toNat → x.item ≠ r.item) → r ∈ t.spk.runs) ∧
    ∀ r it, s.spk.runs.filter (fun x => cvCollId x.plan == id.toNat) = [r] → itemOf s r.item = some it →
      ringEnds it stAborted (unitDetail kSpoke 0xFF 6) s t) ∧
  (∀ (ch : Fin 192) (s : State), ∀ p ∈ stepCmds ch,
    (chanRuns ch 7 s → collOk (s.chan ch).desc = false ∨ expertOn s 9 = false ∨ collFn s (chanOwner s ch) = false →
      ∃ t, exec p.2 s = .next t ∧ chanFailed ch stRejected s t) ∧
    (∀ k, stepGood ch k s → k ≠ p.1 → exec p.2 s = .next s) ∧
    (stepGood ch p.1 s → s.spk.off = true → ∃ t, exec p.2 s = .next t ∧ chanFailed ch stPower s t) ∧
    (stepGood ch p.1 s → s.spk.off = false → discSettled s = false → exec p.2 s = .next s) ∧
    (stepGood ch p.1 s → s.spk.off = false → discSettled s = true →
      nodeThere s (clPeer (s.chan ch).desc) = false ∨ portTo s (clPeer (s.chan ch).desc) (clPlane (s.chan ch).desc) = none →
      ∃ t, exec p.2 s = .next t ∧ chanFailed ch stLink s t)) ∧
  (∀ (ch : Fin 192) (p : Nat) (s s1 : State) (bs : List Byte), stepGood ch 0 s → peerUp ch s →
    portTo s (clPeer (s.chan ch).desc) (clPlane (s.chan ch).desc) = some p → clLen (s.chan ch).desc ≤ 65536 →
    vaRead (chanOwner s ch) (clSrc (s.chan ch).desc) (clLen (s.chan ch).desc) s = (s1, .ok bs) →
    ∃ t, exec (.collSend ch) s = .next t ∧ t = { s with mem := s1.mem, se := t.se, spk := t.spk } ∧ t.chan ch = { s.chan ch with phase := .coll } ∧
      (∀ k, k ≠ p → t.port k = s.port k) ∧ (t.port p).queue = (s.port p).queue ++ [stepTx ch (planeOf p) bs s]) ∧
  (∀ (ch : Fin 192) (c : Instr) (s : State), (c = .collRecv ch ∧ stepGood ch 1 s) ∨ (c = .collRecvSum ch ∧ stepGood ch 2 s) → peerUp ch s →
    (portTo s (clPeer (s.chan ch).desc) (clPlane (s.chan ch).desc)).isSome = true → s.spk.early = [] →
    ∃ t, exec c s = .next t ∧ t = { s with se := t.se, spk := { s.spk with steps := s.spk.steps ++ [{ chan := ch.val }] } } ∧
      t.chan ch = { s.chan ch with phase := .coll } ∧ ∀ k, k ≠ ch.val → t.chan k = s.chan k) ∧
  (∀ (p : Fin 17) (m : SpkMsg) (x : CollStep) (v src : List Byte) (s s1 s2 : State), isActive s p = true → m.dst.toNat = ownNode s → 2 ≤ m.cls.val →
    s.spk.runs.all (fun r => !(r.started && cvCollId r.plan == m.collId.toNat)) = true → s.spk.steps.find? (stepMatch s m) = some x → x.got = [] → m.offset = 0 → m.data.length = clLen (s.chan x.chan).desc →
    (s.chan x.chan).outst = [] → sdEol (s.chan x.chan).desc = false →
    (clStep (s.chan x.chan).desc = 1 ∧ v = m.data ∧ s1 = s) ∨ (clStep (s.chan x.chan).desc = 2 ∧
      vaRead (chanOwner s x.chan) (clSrc (s.chan x.chan).desc) (clLen (s.chan x.chan).desc) s = (s1, .ok src) ∧
      v = combine (clDtype (s.chan x.chan).desc) (clOp (s.chan x.chan).desc) (clLen (s.chan x.chan).desc / elSize (clDtype (s.chan x.chan).desc)) src m.data) →
    vaWrite (chanOwner s x.chan) (clDst (s.chan x.chan).desc) v s1 = (s2, none) →
    ∃ t, exec (.spkMessageReceive p m) s = .next t ∧ t.hbm = s2.hbm ∧ t.hostMem = s2.hostMem ∧ (t.chan x.chan).phase = .fetch ∧
      (t.chan x.chan).cur = (s.chan x.chan).cur + 64 ∧ t.spk.steps = s.spk.steps.filter (·.chan != x.chan)) ∧
  (∀ (p : Fin 17) (m : SpkMsg) (s : State), isActive s p = true →
    (m.dst.toNat ≠ ownNode s → ∃ t, exec (.spkMessageReceive p m) s = .next t ∧ t = { s with regs := t.regs, spk := { s.spk with ports := t.spk.ports } } ∧
      RegsBut [R.SPK_MISROUTE] s t ∧ t.fld R.SPK_MISROUTE F.SPK_MISROUTE_CNT = min F.SPK_MISROUTE_CNT.max (s.fld R.SPK_MISROUTE F.SPK_MISROUTE_CNT + 1)) ∧
    (m.dst.toNat = ownNode s → 2 ≤ m.cls.val → s.spk.runs.all (fun r => !(r.started && cvCollId r.plan == m.collId.toNat)) = true →
      s.spk.steps.all (fun x => !stepMatch s m x) = true →
      exec (.spkMessageReceive p m) s = .next { s with spk := { s.spk with early := s.spk.early ++ [(p.val, m)] } })) ∧
  (∀ (p : Fin 17) (m : SpkMsg) (s : State), isActive s p = false → exec (.spkMessageReceive p m) s = .next s)

/-- A command's access on behalf of channel `ch` failed: an active channel's stream ends with the status. -/
def readerFails (ch status : Nat) (s t : State) : Prop := (s.chan ch).phase ≠ .idle → chanFailed ch status s t

/-- The stack of a 32-byte block (R249). -/
def blockStack (b : Nat) : Nat := 4 * (b / 2 ^ 31 % 2) + b / 8 % 4

/-- Block `b` has met an uncorrectable error. -/
def blockLost (b : Nat) (s t : State) : Prop :=
  isPoisoned t b = true ∧ (∀ k, k ≠ b → isPoisoned t k = isPoisoned s k) ∧
  (t.reg (R.MEM_HBM_UE (blockStack b))).toNat = min (2 ^ 32 - 1) ((s.reg (R.MEM_HBM_UE (blockStack b))).toNat + 1) ∧
  t.flag (R.MEM_HBM_UE_ADDR_HI (blockStack b)) F.MEM_HBM_UE_ADDR_HI_VALID = true ∧
  (s.flag (R.MEM_HBM_UE_ADDR_HI (blockStack b)) F.MEM_HBM_UE_ADDR_HI_VALID = false →
    (t.reg (R.MEM_HBM_UE_ADDR_LO (blockStack b))).toNat = 32 * b % 2 ^ 32 ∧
    t.fld (R.MEM_HBM_UE_ADDR_HI (blockStack b)) F.MEM_HBM_UE_ADDR_HI_PA = 32 * b / 2 ^ 32) ∧
  (s.flag (R.MEM_HBM_UE_ADDR_HI (blockStack b)) F.MEM_HBM_UE_ADDR_HI_VALID = true →
    t.reg (R.MEM_HBM_UE_ADDR_LO (blockStack b)) = s.reg (R.MEM_HBM_UE_ADDR_LO (blockStack b)))

/-- The upper half of device memory answers no access. -/
def upperDark (s : State) : Bool := s.mem.upperDenied || s.fld R.MEM_STAT F.MEM_STAT_SELFREF != 0

/-- R249 to R257, R274, R557. -/
def Obligations.DeviceMemory : Prop :=
  (∀ (b : BitVec 32) (n : Fin 65) (ch : Fin 192) (s : State), upperDark s = true ∧ 2 ^ 31 ≤ b.toNat ∨ isPoisoned s b.toNat = true →
    ∃ t, exec (.hbmRead b n ch) s = .next t ∧ t.hbm = s.hbm ∧ t.mem.poison = s.mem.poison ∧
      readerFails ch (if upperDark s ∧ 2 ^ 31 ≤ b.toNat then stPower else stMem) s t ∧ ((s.chan ch).phase = .idle → t = s)) ∧
  (∀ (b : BitVec 32) (ch : Fin 192) (s : State), upperDark s = false ∨ b.toNat < 2 ^ 31 → isPoisoned s b.toNat = false →
    exec (.hbmRead b 0 ch) s = .next s ∧
    (∃ t, exec (.hbmRead b 1 ch) s = .next t ∧
      t = { s with regs := t.regs, mem := { s.mem with corrected := t.mem.corrected }, host := t.host, hostMem := t.hostMem, out := t.out } ∧
      EventRegsBut [R.MEM_HBM_CE (blockStack b.toNat)] s t ∧ b.toNat ∈ t.mem.corrected ∧ (∀ x ∈ s.mem.corrected, x ∈ t.mem.corrected) ∧
      (t.reg (R.MEM_HBM_CE (blockStack b.toNat))).toNat = min (2 ^ 32 - 1) ((s.reg (R.MEM_HBM_CE (blockStack b.toNat))).toNat + 1) ∧
      ((s.reg R.MEM_CE_THR).toNat = 0 ∨ (t.reg (R.MEM_HBM_CE (blockStack b.toNat))).toNat % (s.reg R.MEM_CE_THR).toNat ≠ 0 →
        t.host = s.host ∧ t.hostMem = s.hostMem ∧ t.out = s.out)) ∧
    (∃ t, exec (.hbmRead b 2 ch) s = .next t ∧ t.hbm = s.hbm ∧ blockLost b.toNat s t ∧ readerFails ch stMem s t) ∧
    (∀ n : Fin 65, 3 ≤ n.val → ∃ t, exec (.hbmRead b n ch) s = .next t ∧ t.hbm = s.hbm ∧ t.free = s.free + 1 ∧
      ((blockLost b.toNat s t ∧ readerFails ch stMem s t) ∨ t = { s with free := s.free + 1 }))) ∧
  (∀ (a : BitVec 37) (data : List Byte) (bad : Bool) (ch : Fin 192) (s : State), upperDark s = false ∨ a.toNat < 2 ^ 36 →
    (a.toNat % 32 = 0 → 32 ≤ data.length → ∃ t, exec (.hbmWrite a data bad ch) s = .next t ∧
      t = { s with hbm := s.hbm.write a.toNat (data.take 32), mem := { s.mem with poison := t.mem.poison } } ∧
      isPoisoned t (a.toNat / 32) = false ∧ ∀ k, k ≠ a.toNat / 32 → isPoisoned t k = isPoisoned s k) ∧
    (a.toNat % 32 ≠ 0 ∨ data.length < 32 →
      (isPoisoned s (a.toNat / 32) = false → bad = false →
        exec (.hbmWrite a data bad ch) s = .next { s with hbm := s.hbm.write a.toNat (data.take (32 - a.toNat % 32)) }) ∧
      (isPoisoned s (a.toNat / 32) = false → bad = true →
        ∃ t, exec (.hbmWrite a data bad ch) s = .next t ∧ t.hbm = s.hbm ∧ blockLost (a.toNat / 32) s t ∧ readerFails ch stMem s t) ∧
      (isPoisoned s (a.toNat / 32) = true →
        ∃ t, exec (.hbmWrite a data bad ch) s = .next t ∧ t.hbm = s.hbm ∧ t.mem.poison = s.mem.poison ∧ readerFails ch stMem s t))) ∧
  (∀ (a : BitVec 37) (data : List Byte) (bad : Bool) (ch : Fin 192) (s : State), upperDark s = true → 2 ^ 36 ≤ a.toNat → data ≠ [] →
    ∃ t, exec (.hbmWrite a data bad ch) s = .next t ∧ t.hbm = s.hbm ∧ t.mem.poison = s.mem.poison ∧ readerFails ch stPower s t) ∧
  (∀ (b : BitVec 32) (s : State), ∃ t, exec (.hbmRefresh b) s = .next t ∧ t = { s with mem := { s.mem with corrected := t.mem.corrected } } ∧
    ∀ x, x ∈ t.mem.corrected ↔ x ∈ s.mem.corrected ∧ x ≠ b.toNat) ∧
  (∀ (k : Fin 8) (temp : BitVec 8) (s : State), ∃ t, exec (.hbmHotChange k temp) s = .next t ∧ t = { s with regs := t.regs } ∧
    RegsBut [R.MEM_HBM_TEMP k, R.MEM_STAT] s t ∧ t.fld (R.MEM_HBM_TEMP k) F.MEM_HBM_TEMP_TEMP = temp.toNat ∧
    (∀ j, j < 8 → bitOf (t.fld R.MEM_STAT F.MEM_STAT_HOT) j = (if j = k.val ∧ 85 < temp.toNat then true
      else if j = k.val ∧ temp.toNat < 80 then false else bitOf (s.fld R.MEM_STAT F.MEM_STAT_HOT) j)) ∧
    t.fld R.MEM_STAT F.MEM_STAT_SELFREF = s.fld R.MEM_STAT F.MEM_STAT_SELFREF ∧ t.fld R.MEM_STAT F.MEM_STAT_SLOTS = s.fld R.MEM_STAT F.MEM_STAT_SLOTS) ∧
  (∀ s : State, s.mem.upperDenied = true → s.fld R.MEM_STAT F.MEM_STAT_SELFREF = 0 →
    ∃ t, exec .selfRefreshEntry s = .next t ∧ t = { s with regs := t.regs, mem := { s.mem with lines := t.mem.lines } } ∧
      t.reg R.MEM_STAT = F.MEM_STAT_SELFREF.put (s.reg R.MEM_STAT) 0xF ∧ RegsBut [R.MEM_STAT] s t ∧
      ∀ l, t.line l = (if 128 * l < 2 ^ 36 then s.line l else none)) ∧
  (∀ s : State, s.mem.upperDenied = false ∨ s.fld R.MEM_STAT F.MEM_STAT_SELFREF ≠ 0 → exec .selfRefreshEntry s = .next s) ∧
  (∀ s : State, (s.mem.upperDenied = false → exec .selfRefreshExit s =
      .next (s.setReg R.MEM_STAT (F.MEM_STAT_SELFREF.put (s.reg R.MEM_STAT) 0))) ∧
    (s.mem.upperDenied = true → exec .selfRefreshExit s = .next s)) ∧
  (∀ (a : DWord) (bs : List Byte) (ch : Fin 192) (s : State),
    exec (.hostReadCompletion a (.data bs) ch) s = .next { s with hostMem := s.hostMem.write a.toNat bs }) ∧
  (∀ (a : DWord) (ch : Fin 192) (s : State), ∀ c ∈ [Instr.hostReadCompletion a .error ch, .hostReadCompletion a .poisoned ch, .hostReadTimeout ch],
    ∃ t, exec c s = .next t ∧ t.hbm = s.hbm ∧ readerFails ch stMem s t ∧ ((s.chan ch).phase = .idle → t = s))

/-- Register `off` of line `l`'s slice. -/
def sliceReg (off : Nat → Nat) (l : Nat) : Nat := off (l % 24)

/-- One request for line `l` that did not hit. -/
def cacheReq (space : Fin 17) (write : Bool) (attr : CacheAttr) : CacheReq := { space := space.val, write := write, alloc := attr = .alloc }

/-- Only the cache and the registers given change. -/
def cacheOnly (l : List Nat) (s t : State) : Prop := t = { s with regs := t.regs, mem := t.mem } ∧ RegsBut l s t ∧ t.mem.tlb = s.mem.tlb

/-- A tile that GLB_NAV_PRE offers: fused on, not in the reserve. -/
def offered (s : State) (k : Nat) : Bool := bitOf (s.reg R.GLB_NAV_PRE).toNat k && !rtTile s k && tileFused s k

/-- The effective pre-emptible mask is as the registers of `t` say. -/
def preFormed (t : State) : Prop :=
  (∀ k, k < 32 → preEff t k = (offered t k && decide (((List.range k).filter (offered t)).length <
    t.fld R.MEM_CTL F.MEM_CTL_SPILL_WAYS * 49152 / 16896))) ∧
  t.fld R.MEM_STAT F.MEM_STAT_SLOTS = t.fld R.MEM_CTL F.MEM_CTL_SPILL_WAYS * 49152 / 16896 ∧
  (t.fld R.MEM_CTL F.MEM_CTL_SPILL_WAYS * 49152 / 16896 < ((List.range 32).filter (offered t)).length → t.flag R.MEM_STAT F.MEM_STAT_SPILL_SHORT = true)

/-- A fault of a space has been recorded, with a reason at a level, for an address. -/
def faultNoted (sp : Nat) (agent : Byte) (reason level va : Nat) (s t : State) : Prop :=
  EventRegsBut [R.MMU_FAULT_VA_LO sp, R.MMU_FAULT_VA_HI sp, R.MMU_FAULT_INFO sp, R.MMU_FAULT_CNT sp] s t ∧ t.hbm = s.hbm ∧
  t.fld (R.MMU_FAULT_CNT sp) F.MMU_FAULT_CNT_CNT = min F.MMU_FAULT_CNT_CNT.max (s.fld (R.MMU_FAULT_CNT sp) F.MMU_FAULT_CNT_CNT + 1) ∧
  t.flag (R.MMU_FAULT_INFO sp) F.MMU_FAULT_INFO_VALID = true ∧
  (s.flag (R.MMU_FAULT_INFO sp) F.MMU_FAULT_INFO_VALID = true → t.reg (R.MMU_FAULT_INFO sp) = s.reg (R.MMU_FAULT_INFO sp)) ∧
  (s.flag (R.MMU_FAULT_INFO sp) F.MMU_FAULT_INFO_VALID = false →
    t.reg (R.MMU_FAULT_INFO sp) = BitVec.ofNat 32 (reason + 16 * level + 256 * agent.toNat + 65536) ∧
    t.pair (R.MMU_FAULT_VA_LO sp) (R.MMU_FAULT_VA_HI sp) = va)

/-- R258 to R277. -/
def Obligations.CacheAndTranslation : Prop :=
  (∀ (a : BitVec 37) (sp : Fin 17) (write full bad : Bool) (attr : CacheAttr) (x : CacheLine) (s : State),
    upperDark s = false ∨ a.toNat < 2 ^ 36 → s.line (a.toNat / 128) = some x →
    (bad = false ∨ (write && full) = true →
      ∃ t, exec (.cacheAccess a sp write full attr bad) s = .next t ∧ cacheOnly [sliceReg R.MEM_TC_HIT (a.toNat / 128)] s t ∧
        t.reg (sliceReg R.MEM_TC_HIT (a.toNat / 128)) = s.reg (sliceReg R.MEM_TC_HIT (a.toNat / 128)) + 1 ∧
        t.line (a.toNat / 128) = some { x with used := s.mem.clock, hit := true, dirty := x.dirty || write } ∧
        (∀ k, k ≠ a.toNat / 128 → t.line k = s.line k) ∧ t.mem.misses = s.mem.misses ∧ t.mem.poison = s.mem.poison) ∧
    (bad = true → (write && full) = false →
      ∃ t, exec (.cacheAccess a sp write full attr bad) s = .next t ∧
        (t.reg (sliceReg R.MEM_TC_UE (a.toNat / 128))).toNat = min (2 ^ 32 - 1) ((s.reg (sliceReg R.MEM_TC_UE (a.toNat / 128))).toNat + 1) ∧
        (x.dirty = true → isPoisoned t (a.toNat / 32) = true ∧ t.mem.lines = s.mem.lines) ∧
        (x.dirty = false → t.mem.poison = s.mem.poison ∧ t.line (a.toNat / 128) = none))) ∧
  (∀ (a : BitVec 37) (sp : Fin 17) (write full bad : Bool) (attr : CacheAttr) (s : State),
    upperDark s = false ∨ a.toNat < 2 ^ 36 → s.line (a.toNat / 128) = none →
    (∀ m, s.mem.misses.find? (·.1 == a.toNat / 128) = some m →
      (m.2.length < 32 → ∃ t, exec (.cacheAccess a sp write full attr bad) s = .next t ∧ cacheOnly [sliceReg R.MEM_TC_MERGE (a.toNat / 128)] s t ∧
        t.reg (sliceReg R.MEM_TC_MERGE (a.toNat / 128)) = s.reg (sliceReg R.MEM_TC_MERGE (a.toNat / 128)) + 1 ∧ t.mem.lines = s.mem.lines ∧
        t.mem.misses.find? (·.1 == a.toNat / 128) = some (a.toNat / 128, m.2 ++ [cacheReq sp write attr])) ∧
      (32 ≤ m.2.length → exec (.cacheAccess a sp write full attr bad) s =
        .next { s with mem := { s.mem with waiting := s.mem.waiting ++ [(a.toNat / 128, cacheReq sp write attr)] } })) ∧
    (s.mem.misses.find? (·.1 == a.toNat / 128) = none →
      (write = true → full = true → attr = .alloc → allowedWays s sp ≠ [] →
        ∃ t w, exec (.cacheAccess a sp write full attr bad) s = .next t ∧ t = { s with regs := t.regs, mem := t.mem } ∧ w ∈ allowedWays s sp ∧
          t.line (a.toNat / 128) = some ⟨w, sp.val, true, s.mem.clock, false⟩ ∧ t.mem.misses = s.mem.misses ∧
          t.reg (sliceReg R.MEM_TC_MISS (a.toNat / 128)) = s.reg (sliceReg R.MEM_TC_MISS (a.toNat / 128)) + 1) ∧
      (write = true → attr = .noalloc ∨ allowedWays s sp = [] → ∃ t, exec (.cacheAccess a sp write full attr bad) s = .next t ∧
        cacheOnly [sliceReg R.MEM_TC_MISS (a.toNat / 128)] s t ∧ t.mem = s.mem ∧
        t.reg (sliceReg R.MEM_TC_MISS (a.toNat / 128)) = s.reg (sliceReg R.MEM_TC_MISS (a.toNat / 128)) + 1) ∧
      (write = false ∨ (full = false ∧ attr = .alloc ∧ allowedWays s sp ≠ []) →
        ((s.mem.misses.filter fun e => e.1 % 24 == a.toNat / 128 % 24).length < 128 →
          ∃ t, exec (.cacheAccess a sp write full attr bad) s = .next t ∧ cacheOnly [sliceReg R.MEM_TC_MISS (a.toNat / 128)] s t ∧
            t.mem.lines = s.mem.lines ∧ t.reg (sliceReg R.MEM_TC_MISS (a.toNat / 128)) = s.reg (sliceReg R.MEM_TC_MISS (a.toNat / 128)) + 1 ∧
            t.mem.misses = s.mem.misses ++ [(a.toNat / 128, [⟨sp.val, write, decide (attr = .alloc) && !(allowedWays s sp).isEmpty⟩])]) ∧
        (128 ≤ (s.mem.misses.filter fun e => e.1 % 24 == a.toNat / 128 % 24).length → exec (.cacheAccess a sp write full attr bad) s =
          .next { s with mem := { s.mem with waiting := s.mem.waiting ++ [(a.toNat / 128, cacheReq sp write attr)] } })))) ∧
  (∀ (a : BitVec 37) (sp : Fin 17) (write full bad : Bool) (attr : CacheAttr) (s : State), upperDark s = true → 2 ^ 36 ≤ a.toNat →
    exec (.cacheAccess a sp write full attr bad) s = .next s) ∧
  (∀ (l : BitVec 30) (m : Nat × List CacheReq) (s : State), s.mem.misses.find? (·.1 == l.toNat) = some m →
    (s.mem.waiting.all fun e => e.1 % 24 != l.toNat % 24) = true →
    ∃ t, exec (.cacheFill l) s = .next t ∧ t = { s with regs := t.regs, mem := t.mem } ∧ t.mem.misses = s.mem.misses.filter (·.1 != l.toNat) ∧
      (∀ q, m.2.find? (·.alloc) = some q → allowedWays s q.space ≠ [] →
        ∃ w, w ∈ allowedWays s q.space ∧ t.line l.toNat = some ⟨w, q.space, m.2.any (·.write), s.mem.clock, false⟩) ∧
      (m.2.all (fun q => !q.alloc) = true → t.mem.lines = s.mem.lines)) ∧
  (∀ (l : BitVec 30) (s : State), s.mem.misses.find? (·.1 == l.toNat) = none → exec (.cacheFill l) s = .next s) ∧
  (∀ (a : Agent) (v : Word) (s : State), reaches a R.MEM_CTL s = true →
    ∃ t, exec (.spillWaysWrite a v) s = .next t ∧ t = { s with regs := t.regs } ∧ RegsBut [R.MEM_CTL, R.MEM_STAT, R.MEM_STAT_PRE_EFF] s t ∧
      t.fld R.MEM_CTL F.MEM_CTL_SPILL_WAYS = min 11 (F.MEM_CTL_SPILL_WAYS.get v) ∧ preFormed t ∧
      (11 < F.MEM_CTL_SPILL_WAYS.get v → t.flag R.MEM_STAT F.MEM_STAT_SPILL_CLAMP = true)) ∧
  (∀ (a : Agent) (pre : Bool) (v : Word) (s : State), reaches a (if pre then R.GLB_NAV_PRE else R.GLB_NAV_RT) s = true →
    ∃ t, exec (.navRoleMaskWrite a pre v) s = .next t ∧ t = { s with regs := t.regs } ∧
      RegsBut [if pre then R.GLB_NAV_PRE else R.GLB_NAV_RT, R.MEM_STAT, R.MEM_STAT_PRE_EFF] s t ∧
      t.reg (if pre then R.GLB_NAV_PRE else R.GLB_NAV_RT) = v ∧ preFormed t) ∧
  (∀ (sp : Fin 17) (va : DWord) (write : Bool) (agent : Byte) (s : State), s.flag R.MMU_CTL F.MMU_CTL_EN = false →
    ∃ t, exec (.translationWalk sp va write agent) s = .next t ∧ faultNoted sp agent 1 0 (va.toNat % 2 ^ 48) s t) ∧
  (∀ (sp : Fin 17) (va : DWord) (write : Bool) (agent : Byte) (e : TlbEnt) (s : State), s.flag R.MMU_CTL F.MMU_CTL_EN = true →
    (s.tlbOf sp).find? (tlbHit (va.toNat % 2 ^ 48)) = some e →
    (e.used.any (fun u => leNat (s.hbm.read u.1 8) != u.2) = true → e.host = true → (if write then e.w else e.r) = true →
      2 ^ 37 ≤ spaceRoot s sp → ∃ t, exec (.translationWalk sp va write agent) s = .next t ∧ t.free = s.free + 1 ∧
        if Config.newWalk s.free then faultNoted sp agent 5 0 (va.toNat % 2 ^ 48) s t ∧ t.tlbOf sp = (s.tlbOf sp).filter (· != e)
        else t = { s with free := s.free + 1, mem := { s.mem with tlb := t.mem.tlb } } ∧ t.tlbOf sp = e :: (s.tlbOf sp).filter (· != e)) ∧
    (e.host = false → (e.used.all fun u => leNat (s.hbm.read u.1 8) == u.2) = true → upperDark s = true → 2 ^ 36 ≤ e.pa → e.pa + 2 ^ e.bits ≤ 2 ^ 37 →
      ∃ t, exec (.translationWalk sp va write agent) s = .next t ∧ t = { s with mem := { s.mem with tlb := t.mem.tlb } }) ∧
    (e.host = true → (e.used.all fun u => leNat (s.hbm.read u.1 8) == u.2) = true →
     ((if write then e.w else e.r) = true → ∃ t, exec (.translationWalk sp va write agent) s = .next t ∧ t = { s with mem := { s.mem with tlb := t.mem.tlb } } ∧
      t.tlbOf sp = e :: (s.tlbOf sp).filter (· != e) ∧ ∀ k, k ≠ sp.val → t.tlbOf k = s.tlbOf k) ∧
    ((if write then e.w else e.r) = false → ∃ t, exec (.translationWalk sp va write agent) s = .next t ∧
      faultNoted sp agent 4 (if e.bits = 21 then 2 else 3) (va.toNat % 2 ^ 48) s t))) ∧
  (∀ (sp : Fin 17) (va : DWord) (write : Bool) (agent : Byte) (bs : List Byte) (s : State), s.flag R.MMU_CTL F.MMU_CTL_EN = true →
    (s.tlbOf sp).find? (tlbHit (va.toNat % 2 ^ 48)) = none →
    (2 ^ 37 ≤ spaceRoot s sp → ∃ t, exec (.translationWalk sp va write agent) s = .next t ∧ faultNoted sp agent 5 0 (va.toNat % 2 ^ 48) s t) ∧
    (spaceRoot s sp < 2 ^ 37 → windowOk s sp (spaceRoot s sp) = false →
      ∃ t, exec (.translationWalk sp va write agent) s = .next t ∧ faultNoted sp agent 3 0 (va.toNat % 2 ^ 48) s t) ∧
    (spaceRoot s sp < 2 ^ 37 → windowOk s sp (spaceRoot s sp) = true →
      physRead s (spaceRoot s sp + 8 * (va.toNat / 2 ^ 39 % 2 ^ 9)) 8 = .ok bs → leNat bs % 2 = 0 →
      ∃ t, exec (.translationWalk sp va write agent) s = .next t ∧ faultNoted sp agent 1 0 (va.toNat % 2 ^ 48) s t)) ∧
  (∀ (a : Agent) (v : Word) (s : State), answers a R.MMU_INV s = true → F.MMU_INV_GO.get v = 1 →
    (s.flag R.MMU_INV F.MMU_INV_GO = true → exec (.mmuInvGo a v) s = .next (s.setReg R.MMU_ERR (F.MMU_ERR_INV_BUSY.put (s.reg R.MMU_ERR) 1))) ∧
    (s.flag R.MMU_INV F.MMU_INV_GO = false →
      17 ≤ F.MMU_INV_SPACE.get v ∨ (F.MMU_INV_ALL.get v = 0 ∧ s.fld R.MMU_INV_SIZE F.MMU_INV_SIZE_PAGES = 0) →
      exec (.mmuInvGo a v) s = .next (s.setReg R.MMU_ERR (F.MMU_ERR_INV_ARG.put (s.reg R.MMU_ERR) 1))) ∧
    (s.flag R.MMU_INV F.MMU_INV_GO = false → F.MMU_INV_SPACE.get v < 17 →
      F.MMU_INV_ALL.get v = 1 ∨ s.fld R.MMU_INV_SIZE F.MMU_INV_SIZE_PAGES ≠ 0 →
      ∃ t, exec (.mmuInvGo a v) s = .next t ∧ t = { s with regs := t.regs, mem := { s.mem with inval := t.mem.inval } } ∧ RegsBut [R.MMU_INV] s t ∧
        t.flag R.MMU_INV F.MMU_INV_GO = true ∧ t.mem.inval = some (F.MMU_INV_SPACE.get v, F.MMU_INV_ALL.get v == 1,
          s.pair R.MMU_INV_VA_LO R.MMU_INV_VA_HI, s.fld R.MMU_INV_SIZE F.MMU_INV_SIZE_PAGES))) ∧
  (∀ (sp va pages : Nat) (all : Bool) (s : State), s.mem.inval = some (sp, all, va, pages) →
    ∃ t, exec .mmuInvDone s = .next t ∧ t = { s with regs := t.regs, mem := { s.mem with tlb := t.mem.tlb, inval := none } } ∧
      t.reg R.MMU_INV = F.MMU_INV_GO.put (s.reg R.MMU_INV) 0 ∧ RegsBut [R.MMU_INV] s t ∧ (∀ k, k ≠ sp → t.tlbOf k = s.tlbOf k) ∧
      ∀ e, e ∈ t.tlbOf sp ↔ e ∈ s.tlbOf sp ∧ all = false ∧ (va + 65536 * pages ≤ e.va ∨ e.va + 2 ^ e.bits ≤ va)) ∧
  (∀ s : State, s.mem.inval = none → exec .mmuInvDone s = .next s)

/-- A command is taken: it reaches its register, GO is 1, the register is not BUSY. -/
def seqTaken (a : Agent) (p : Option (Fin 17)) (v : Word) (s : State) : Prop :=
  reaches a (seqCmdReg (pageOf p)) s = true ∧ F.SEQ_CMD_GO.get v = 1 ∧ s.flag (seqStatReg (pageOf p)) F.SEQ_CMD_STAT_BUSY = false

/-- The command leaves a RESULT and BUSY; the other registers stay. -/
def seqShows (p : Option (Fin 17)) (busy : Bool) (res : Nat) (s t : State) : Prop :=
  t.flag (seqStatReg (pageOf p)) F.SEQ_CMD_STAT_BUSY = busy ∧ t.fld (seqStatReg (pageOf p)) F.SEQ_CMD_STAT_RESULT = res ∧
  RegsBut [seqCmdReg (pageOf p), seqStatReg (pageOf p)] s t

/-- It fails with a RESULT, and stores nothing; `s1` has read the entry. -/
def seqFails (p : Option (Fin 17)) (res : Nat) (s s1 t : State) : Prop := t = { s1 with regs := t.regs } ∧ seqShows p false res s t

/-- The entry that the command names reads as `e`. -/
def seqNamed (a : Agent) (p : Option (Fin 17)) (v : Word) (e : List Byte) (s s1 : State) : Prop :=
  F.SEQ_CMD_INDEX.get v < tblSize s ∧ seqRead (F.SEQ_CMD_INDEX.get v) (storeReg a (seqCmdReg (pageOf p)) v s) = (s1, .ok e)

/-- R282, R288 to R290, R316. -/
def Obligations.SequencesOpenAndClose : Prop :=
  (∀ (a : Agent) (p : Option (Fin 17)) (v : Word) (s : State), reaches a (seqCmdReg (pageOf p)) s = true → F.SEQ_CMD_GO.get v = 1 →
    s.flag (seqStatReg (pageOf p)) F.SEQ_CMD_STAT_BUSY = true →
    exec (.seqOpen a p v) s = .next (s.setFlag R.SEQ_ERR F.SEQ_ERR_CMD_BUSY true) ∧
    exec (.seqClose a p v) s = .next (s.setFlag R.SEQ_ERR F.SEQ_ERR_CMD_BUSY true) ∧
    exec (.seqBadOp a p v) s = .next (s.setFlag R.SEQ_ERR F.SEQ_ERR_CMD_BUSY true)) ∧
  (∀ (a : Agent) (p : Option (Fin 17)) (v : Word) (s : State), seqTaken a p v s → 2 ≤ F.SEQ_CMD_OP.get v →
    ∃ t, exec (.seqBadOp a p v) s = .next t ∧ seqFails p 6 s s t) ∧
  (∀ (a : Agent) (p : Option (Fin 17)) (v : Word) (s : State), seqTaken a p v s → tblSize s ≤ F.SEQ_CMD_INDEX.get v →
    (F.SEQ_CMD_OP.get v = 0 → ∃ t, exec (.seqOpen a p v) s = .next t ∧ seqFails p 4 s s t) ∧
    (F.SEQ_CMD_OP.get v = 1 → ∃ t, exec (.seqClose a p v) s = .next t ∧ seqFails p 4 s s t)) ∧
  (∀ (a : Agent) (p : Option (Fin 17)) (v : Word) (s s1 : State) (e : List Byte), seqTaken a p v s → F.SEQ_CMD_OP.get v = 0 →
    seqNamed a p v e s s1 →
    (seqState e ≠ 0 → seqState e ≠ 3 → ∃ t, exec (.seqOpen a p v) s = .next t ∧ seqFails p 1 s s1 t) ∧
    (seqState e = 0 ∨ seqState e = 3 →
      ((groupOf s (seqGroup e)).valid = false ∨ (groupOf s (seqGroup e)).owner ≠ (p.map (·.val)).getD 16 →
        ∃ t, exec (.seqOpen a p v) s = .next t ∧ seqFails p 3 s s1 t) ∧
      ((groupOf s (seqGroup e)).valid = true → (groupOf s (seqGroup e)).owner = (p.map (·.val)).getD 16 →
        (seqCap e = 0 ∨ (if (groupOf s (seqGroup e)).list then 32768 else 4096) < seqCap e ∨
            seqBase e % (if (groupOf s (seqGroup e)).list then 64 else 65536) ≠ 0 ∨ capacity (groupOf s (seqGroup e)) e < seqLen e →
          ∃ t, exec (.seqOpen a p v) s = .next t ∧ seqFails p 2 s s1 t) ∧
        (1 ≤ seqCap e → seqCap e ≤ (if (groupOf s (seqGroup e)).list then 32768 else 4096) →
          seqBase e % (if (groupOf s (seqGroup e)).list then 64 else 65536) = 0 → seqLen e ≤ capacity (groupOf s (seqGroup e)) e →
          ∀ u1 u2 u3 u4, seqWrite (F.SEQ_CMD_INDEX.get v) 6 1 0 s1 = (u1, none) → seqWrite (F.SEQ_CMD_INDEX.get v) 20 1 0 u1 = (u2, none) →
            seqWrite (F.SEQ_CMD_INDEX.get v) 24 4 0xFFFFFFFF u2 = (u3, none) → seqWrite (F.SEQ_CMD_INDEX.get v) 4 1 1 u3 = (u4, none) →
            ∃ t, exec (.seqOpen a p v) s = .next t ∧ t = { u4 with regs := t.regs } ∧ seqShows p false 0 s t)))) ∧
  (∀ (a : Agent) (p : Option (Fin 17)) (v : Word) (s s1 : State) (e : List Byte), seqTaken a p v s → F.SEQ_CMD_OP.get v = 1 →
    seqNamed a p v e s s1 →
    (∀ f, p = some f → (groupOf s (seqGroup e)).owner ≠ f.val → ∃ t, exec (.seqClose a p v) s = .next t ∧ seqFails p 3 s s1 t) ∧
    ((∀ f, p = some f → (groupOf s (seqGroup e)).owner = f.val) →
      (seqState e ≠ 1 → ∃ t, exec (.seqClose a p v) s = .next t ∧ seqFails p 5 s s1 t) ∧
      (∀ u, seqState e = 1 → seqWrite (F.SEQ_CMD_INDEX.get v) 4 1 2 s1 = (u, none) → ∃ t, exec (.seqClose a p v) s = .next t ∧
        t = { u with regs := t.regs, seq := { u.seq with closes := t.seq.closes, closing := t.seq.closing } } ∧ seqShows p true 0 s t ∧
        Tab.get (fun _ => none) t.seq.closes (pageNo (pageOf p)) = some (F.SEQ_CMD_INDEX.get v) ∧
        ∀ item, usableBy t (F.SEQ_CMD_INDEX.get v) [0, 0, 0, 0, 2] item = (tblOn s && decide (item < s.host.nextId))))) ∧
  (∀ (p : Option (Fin 17)) (i : Nat) (s u : State), Tab.get (fun _ => none) s.seq.closes (pageNo (pageOf p)) = some i →
    (seqInUse s i ((closedAt s i).getD 0) = true → exec (.seqCloseEnd p) s = .next s) ∧
    (seqInUse s i ((closedAt s i).getD 0) = false → seqWrite i 4 1 3 s = (u, none) → ∃ t, exec (.seqCloseEnd p) s = .next t ∧
      t = { u with regs := t.regs, seq := { u.seq with closes := t.seq.closes, closing := t.seq.closing } } ∧ seqShows p false 0 s t ∧
      t.reg (seqCmdReg (pageOf p)) = s.reg (seqCmdReg (pageOf p)) ∧ Tab.get (fun _ => none) t.seq.closes (pageNo (pageOf p)) = none ∧ closedAt t i = none)) ∧
  (∀ (p : Option (Fin 17)) (s : State), Tab.get (fun _ => none) s.seq.closes (pageNo (pageOf p)) = none → exec (.seqCloseEnd p) s = .next s) ∧
  (∀ (a : Agent) (g : Fin 64) (v : Word) (s : State), reaches a (R.SEQ_GRP_CFG g) s = true →
    ∃ t, exec (.seqGroupConfig a g v) s = .next t ∧ t = { s with regs := t.regs } ∧ RegsBut [R.SEQ_GRP_CFG g, R.SEQ_ERR] s t ∧
      t.fld (R.SEQ_GRP_CFG g) F.SEQ_GRP_CFG_MODE = F.SEQ_GRP_CFG_MODE.get v ∧ t.fld (R.SEQ_GRP_CFG g) F.SEQ_GRP_CFG_USE = F.SEQ_GRP_CFG_USE.get v ∧
      t.fld (R.SEQ_GRP_CFG g) F.SEQ_GRP_CFG_LAYERS = F.SEQ_GRP_CFG_LAYERS.get v ∧ t.fld (R.SEQ_GRP_CFG g) F.SEQ_GRP_CFG_LAYB = F.SEQ_GRP_CFG_LAYB.get v ∧
      (F.SEQ_GRP_CFG_VALID.get v = 0 ∨ ((F.SEQ_GRP_CFG_USE.get v = 1 ∨ (groupOf s g).owner = 16) ∧ 1 ≤ F.SEQ_GRP_CFG_LAYB.get v ∧ F.SEQ_GRP_CFG_LAYB.get v ≤ 1024) →
        t.fld (R.SEQ_GRP_CFG g) F.SEQ_GRP_CFG_VALID = F.SEQ_GRP_CFG_VALID.get v ∧ t.reg R.SEQ_ERR = s.reg R.SEQ_ERR) ∧
      (F.SEQ_GRP_CFG_VALID.get v = 1 → (F.SEQ_GRP_CFG_USE.get v = 0 ∧ (groupOf s g).owner ≠ 16) ∨ F.SEQ_GRP_CFG_LAYB.get v = 0 ∨ 1024 < F.SEQ_GRP_CFG_LAYB.get v →
        t.fld (R.SEQ_GRP_CFG g) F.SEQ_GRP_CFG_VALID = 0 ∧ t.flag R.SEQ_ERR F.SEQ_ERR_GRP_CFG = true)) ∧
  (∀ (a : Agent) (p : Option (Fin 17)) (v : Word) (s : State), answers a (seqCmdReg (pageOf p)) s = false →
    exec (.seqOpen a p v) s = .next s ∧ exec (.seqClose a p v) s = .next s ∧ exec (.seqBadOp a p v) s = .next s)

/-- The item that a STEP takes up next. -/
def stepNext (f q : Nat) (it : RItem) (s : State) : Prop := frontItem s f q = some it ∧ dOpcode it.desc = 2 ∧ itemOf s it.id = some it

/-- The state with the item taken up. -/
def takenUp (it : RItem) (s : State) : State := updItem it.id (fun x => { x with active := true }) s

/-- The owner of a batch context. -/
def ctxOwner (s : State) (b : Nat) : Nat :=
  if s.flag (R.SEQ_BCTX_OWN b) F.SEQ_BCTX_OWN_PF then 16 else s.fld (R.SEQ_BCTX_OWN b) F.SEQ_BCTX_OWN_VI

/-- The sequences and the (length, row offset) pairs of a step's lists. -/
def seqList (n : Nat) (sq : List Byte) : List Nat := (List.range n).map fun i => fieldAt sq (4 * i) 4 % 2 ^ 20
def lenList (n : Nat) (ln : List Byte) : List (Nat × Nat) := (List.range n).map fun i => (fieldAt ln (8 * i) 4, fieldAt ln (8 * i + 4) 4)

/-- The lists of the next step of context `b` are read; `s2` has read them. -/
def listsRead (b : Nat) (it : RItem) (blk sq ln : List Byte) (s s2 : State) : Prop :=
  stepRun s b = none ∧ nextStep s b = some (it, blk) ∧ itemOf s it.id = some it ∧
  ∃ s1, vaRead it.func (sbSeq blk) (4 * sbN blk) s = (s1, .ok sq) ∧ vaRead it.func (sbLen blk) (8 * sbN blk) s1 = (s2, .ok ln)

/-- The step has begun on `s2`: occupancy is sampled and the step counted. -/
def stepStarted (b : Nat) (s2 : State) : State :=
  (s2.draw.2.setFld R.SEQ_OCC F.SEQ_OCC_PCT (Config.readOccupancy s2.free).val).setReg (R.SEQ_BCTX_STEP b) (s2.reg (R.SEQ_BCTX_STEP b) + 1)

/-- The step is saturated (R301). -/
def saturated (s2 : State) : Bool := decide (s2.fld R.SEQ_SAT F.SEQ_SAT_THR ≤ (Config.readOccupancy s2.free).val) && !twinRunning s2

/-- Entry `x`, for sequence `i` with `n` tokens whose entry reads as `e`, is decided. -/
def entryDecided (b : Nat) (it : RItem) (blk : List Byte) (i n : Nat) (e : List Byte) (s2 s3 : State) (x : StepEnt) : Prop :=
  x.snap = seqLen e ∧ (x.joined = true → x.admitted = true) ∧
  (entryReject s3 b it.func it.id (sbAppend blk) i n e = true → x.status = stRejected ∧ x.admitted = false) ∧
  (entryReject s3 b it.func it.id (sbAppend blk) i n e = false →
    (n = 0 → x.status = stDone ∧ x.admitted = false) ∧
    (n ≠ 0 → isCont ((s2.reg (R.SEQ_BCTX_STEP b)).toNat + 1) e = true → x.status = stDone ∧ x.admitted = true ∧ x.joined = false) ∧
    (n ≠ 0 → isCont ((s2.reg (R.SEQ_BCTX_STEP b)).toNat + 1) e = false →
      (x.admitted = true ∧ x.joined = true ∧ x.status = stDone) ∨ (saturated s2 = true ∧ x.admitted = false ∧ x.status = stFlushed)))

/-- R296 to R304, R306, R451. -/
def Obligations.StepsAdmitAndEnd : Prop :=
  (∀ (f : Fin 17) (q : Fin 8) (it : RItem) (s : State), stepNext f q it s →
    (stepBlockAddr it.desc % 64 ≠ 0 → ∃ t, exec (.step f q) s = .next t ∧ ringEnds it stRejected 0 s t) ∧
    (∀ s1 e, stepBlockAddr it.desc % 64 = 0 → vaRead it.func (stepBlockAddr it.desc) 64 (takenUp it s) = (s1, .error e) →
      ∃ t, exec (.step f q) s = .next t ∧ ringEnds it e.status (if e.status = stTrans then unitDetail kMmu 0 e.reason else unitDetail 0 0 e.reason) s t) ∧
    (∀ s1 blk, stepBlockAddr it.desc % 64 = 0 → vaRead it.func (stepBlockAddr it.desc) 64 (takenUp it s) = (s1, .ok blk) →
      (stepBlockOk blk = false ∨ ctxOwner s (sbCtx blk) ≠ it.func → ∃ t, exec (.step f q) s = .next t ∧ ringEnds it stRejected 0 s t) ∧
      (stepBlockOk blk = true → ctxOwner s (sbCtx blk) = it.func → ∃ t, exec (.step f q) s = .next t ∧
        t = { s with host := { s.host with items := t.host.items }, mem := t.mem } ∧ t.mem = s1.mem ∧
        itemOf t it.id = some { it with active := true, image := Config.imageDigest it.func (sbTask blk) } ∧
        ∀ i, i ≠ it.id → itemOf t i = itemOf s i))) ∧
  (∀ (f : Fin 17) (q : Fin 8) (s : State), (∀ it, frontItem s f q = some it → dOpcode it.desc ≠ 2) → exec (.step f q) s = .next s) ∧
  (∀ (b : Fin 64) (it : RItem) (blk sq ln : List Byte) (s s2 : State), listsRead b it blk sq ln s s2 →
    stepListsOk blk (seqList (sbN blk) sq) (lenList (sbN blk) ln) = false →
    ∃ t, exec (.stepBegin b) s = .next t ∧ ringEnds it stRejected 0 s t) ∧
  (∀ (b : Fin 64) (it : RItem) (blk sq ln : List Byte) (s s2 s3 : State) (es : List (Except AccErr (List Byte))), listsRead b it blk sq ln s s2 →
    stepListsOk blk (seqList (sbN blk) sq) (lenList (sbN blk) ln) = true → it.audit = 0 →
    readEntries (seqList (sbN blk) sq) (stepStarted b s2) = (s3, es) →
    ∃ t r, exec (.stepBegin b) s = .next t ∧ stepRun t b = some r ∧ r.item = it.id ∧ r.block = blk ∧ r.ents.length = sbN blk ∧
      (∀ k, k ≠ b.val → stepRun t k = stepRun s k) ∧ (∀ i, i ≠ it.id → itemOf t i = itemOf s i) ∧ t.free = s.free + 1 ∧
      t.reg (R.SEQ_BCTX_STEP b) = s.reg (R.SEQ_BCTX_STEP b) + 1 ∧ t.fld R.SEQ_OCC F.SEQ_OCC_PCT = (Config.readOccupancy s.free).val ∧
      (∀ (k i n o : Nat) (x : StepEnt), (seqList (sbN blk) sq)[k]? = some i → (lenList (sbN blk) ln)[k]? = some (n, o) → r.ents[k]? = some x →
        x.seq = i ∧ x.len = n ∧ x.ofs = o ∧ (∀ e, es[k]? = some (.ok e) → entryDecided b it blk i n e s2 s3 x) ∧
        (∀ e, es[k]? = some (.error e) → x.admitted = false ∧ x.joined = false ∧ x.status = if i < tblSize s then e.status else stRejected)) ∧
      (saturated s2 = true → r.ents.countP (·.joined) ≤ max (s.fld (R.SEQ_BCTX_CTL b) F.SEQ_BCTX_CTL_JOIN_CAP)
        (if r.ents.any (fun x => x.admitted && !x.joined) then 0 else 1)) ∧
      (t.reg (R.SEQ_BCTX_JOIN b)).toNat = ((s.reg (R.SEQ_BCTX_JOIN b)).toNat + r.ents.countP (·.joined)) % 2 ^ 32 ∧
      (t.reg (R.SEQ_BCTX_DEFER b)).toNat = ((s.reg (R.SEQ_BCTX_DEFER b)).toNat + r.ents.countP (·.status == stFlushed)) % 2 ^ 32 ∧
      itemOf t it.id = some { it with started := true, detail := r.ents.countP (·.admitted) + 65536 * r.ents.countP (·.status == stFlushed) } ∧
      (∀ x u, r.ents = [x] → x.admitted = true → sbAppend blk = false →
        seqWrite x.seq 24 4 ((s.reg (R.SEQ_BCTX_STEP b)).toNat + 1) s3 = (u, none) → t.hbm = u.hbm ∧ t.hostMem = u.hostMem)) ∧
  (∀ (b : Fin 64) (s : State), stepRun s b ≠ none ∨ nextStep s b = none → exec (.stepBegin b) s = .next s) ∧
  (∀ (b : Fin 64) (outs : List EntryOut) (r : StepRun) (it : RItem) (e : StepEnt) (o : EntryOut) (s s1 : State), stepRun s b = some r →
    itemOf s r.item = some it → r.ents = [e] → e.admitted = true → outs = [o] →
    vaWrite it.func (sbOut r.block + e.ofs * sbOutRow r.block)
      (if o.status = 0 then fit (e.len * sbOutRow r.block) o.rows else o.rows.take (e.len * sbOutRow r.block)) s = (s1, none) →
    (o.status = 0 → sbAppend r.block = false → ∃ t u, exec (.stepEnd b outs) s = .next t ∧ stepRun t b = none ∧
      (u.hbm = s1.hbm ∧ u.hostMem = s1.hostMem ∧ u.mem = s1.mem ∧ u.regs = s1.regs ∧ u.host.link = s1.host.link) ∧
      ∀ w, vaWrite it.func (sbRes r.block) ([0, BitVec.ofNat 8 (2 * e.joined.toNat), 0, 0] ++ leBytes 4 e.snap) u = (w, none) →
        t.hbm = w.hbm ∧ t.hostMem = w.hostMem ∧ itemOf t it.id = none ∧ (twinRunning s = false → ∃ x ∈ t.host.formed, x.id = s.host.nextId ∧
          x.func = it.func ∧ x.cq = it.cq ∧ x.bytes = e.len * sbOutRow r.block ∧ x.status = (firstStatus (it.outcomes ++ if twinHalted s then [(stTwin, 0)] else [])).1)) ∧
    (o.status ≠ 0 → ∃ t u, exec (.stepEnd b outs) s = .next t ∧ stepRun t b = none ∧
      (u.hbm = s1.hbm ∧ u.hostMem = s1.hostMem ∧ u.mem = s1.mem ∧ u.regs = s1.regs ∧ u.host.link = s1.host.link) ∧
      ∀ w, vaWrite it.func (sbRes r.block) ([BitVec.ofNat 8 o.status, BitVec.ofNat 8 (2 * e.joined.toNat +
          8 * (!(o.rows.take (e.len * sbOutRow r.block)).isEmpty).toNat), 0, 0] ++ leBytes 4 e.snap) u = (w, none) →
        t.hbm = w.hbm ∧ t.hostMem = w.hostMem ∧ itemOf t it.id = none ∧ (twinRunning s = false → it.outcomes = [] → twinHalted s = false →
          o.status.val ≠ stRejected → ∃ x ∈ t.host.formed, x.id = s.host.nextId ∧ x.func = it.func ∧ x.cq = it.cq ∧ x.status = o.status.val)) ∧
    (∀ s2 s3 s4 ent, o.status = 0 → sbAppend r.block = true → seqRead e.seq s1 = (s2, .ok ent) →
      writeLayers (groupOf s (seqGroup ent)) ent e.snap e.len 0
        ((o.records ++ List.replicate (groupOf s (seqGroup ent)).layers []).take (groupOf s (seqGroup ent)).layers) s2 = (s3, none) →
      seqWrite e.seq 0 4 (e.snap + e.len) s3 = (s4, none) → ∃ t u, exec (.stepEnd b outs) s = .next t ∧ stepRun t b = none ∧
        t.reg R.SEQ_CNT_APPEND = s.reg R.SEQ_CNT_APPEND + 1 ∧ (u.hbm = s4.hbm ∧ u.hostMem = s4.hostMem ∧ u.mem = s4.mem ∧ u.host.link = s4.host.link ∧
          u.reg R.MMU_CTL = s4.reg R.MMU_CTL) ∧
        ∀ w, vaWrite it.func (sbRes r.block) ([0, BitVec.ofNat 8 (2 * e.joined.toNat + 4), 0, 0] ++ leBytes 4 (e.snap + e.len)) u = (w, none) →
          t.hbm = w.hbm ∧ t.hostMem = w.hostMem)) ∧
  (∀ (b : Fin 64) (outs : List EntryOut) (s : State), stepRun s b = none → exec (.stepEnd b outs) s = .next s)

/-- Bytes 0 to 7 of ring k's shadow slot are written with an index and a state (a link that is down discards it). -/
def shadowed (f k idx state : Nat) (s t : State) : Prop :=
  let a := (s.pair (R.VIS_SH_LO (visPage f)) (R.VIS_SH_HI (visPage f)) + 64 * k) % 2 ^ 64
  t.hostMem = (if s.host.link then s.hostMem.write a (leBytes 4 idx ++ [BitVec.ofNat 8 state, 0, 0, 0]) else s.hostMem) ∧
  t.out = (if s.host.link then s.out ++ [.hostWrite a (leBytes 4 idx ++ [BitVec.ofNat 8 state, 0, 0, 0])] else s.out)

/-- A CFG word and the stored base enable ring `k` (R318, R320). -/
def ringGood (f k : Nat) (v : Word) (s : State) : Prop :=
  6 ≤ F.VIS_CQ_CFG_LOG2SIZE.get v ∧ F.VIS_CQ_CFG_LOG2SIZE.get v ≤ 16 ∧ ringBase s f k % 4096 = 0 ∧
  (k < 8 ∨ F.VIS_CQ_CFG_VEC.get v < if f = 16 then 64 else 8)

/-- No write to it meets the expert level: FETCH keeps its value, or the host function's bit is set. -/
def fetchKept (f k : Nat) (v : Word) (s : State) : Prop :=
  k < 8 → F.VIS_SQ_CFG_FETCH.get v = s.fld (ringCfg f k) F.VIS_SQ_CFG_FETCH ∨ expertOn s 12 = true

/-- Ring commands with that write. -/
def ringWrites (a : Agent) (f : Fin 17) (k : Fin 18) (v : Word) : List Instr := [.ringEnable a f k v, .ringDisable a f k v, .ringConfigWrite a f k 2 v]

/-- R318, R320, R321, R339, R341. -/
def Obligations.RingsAndVectors : Prop :=
  (∀ (a : Agent) (f : Fin 17) (k : Fin 18) (v : Word) (s : State), (k.val = 17 ∧ f ≠ 16) ∨ reaches a (ringCfg f k) s = false →
    ∀ c ∈ ringWrites a f k v, exec c s = .next s) ∧
  (∀ (a : Agent) (f : Fin 17) (k : Fin 18) (v : Word) (s : State), (k.val = 17 → f = 16) → reaches a (ringCfg f k) s = true → fetchKept f k v s →
    s.flag (ringCfg f k) F.VIS_CQ_CFG_EN = false →
    (F.VIS_CQ_CFG_EN.get v = 1 → ringGood f k v s → ∀ c ∈ ringWrites a f k v, ∃ t, exec c s = .next t ∧
      t = { s with regs := t.regs, host := t.host, hostMem := t.hostMem, out := t.out } ∧ RegsBut [ringCfg f k] s t ∧
      t.flag (ringCfg f k) F.VIS_CQ_CFG_EN = true ∧ t.fld (ringCfg f k) F.VIS_CQ_CFG_LOG2SIZE = F.VIS_CQ_CFG_LOG2SIZE.get v ∧
      (8 ≤ k.val → t.fld (ringCfg f k) F.VIS_CQ_CFG_VEC = F.VIS_CQ_CFG_VEC.get v ∧ t.fld (ringCfg f k) F.VIS_CQ_CFG_INT_EN = F.VIS_CQ_CFG_INT_EN.get v) ∧
      (k.val < 8 → t.fld (ringCfg f k) F.VIS_SQ_CFG_CQ = F.VIS_SQ_CFG_CQ.get v) ∧
      t.ring f k = { state := 1 } ∧ (∀ g j, g < 17 → j < 18 → (g, j) ≠ (f.val, k.val) → t.ring g j = s.ring g j) ∧
      t.host = { s.host with rings := t.host.rings, polls := t.host.polls } ∧ shadowed f k 0 1 s t) ∧
    (F.VIS_CQ_CFG_EN.get v = 1 → ¬ ringGood f k v s → ∀ c ∈ ringWrites a f k v, ∃ t, exec c s = .next t ∧ t = { s with regs := t.regs } ∧
      RegsBut [ringCfg f k, R.VIS_ERR (visPage f)] s t ∧ t.flag (ringCfg f k) F.VIS_CQ_CFG_EN = false ∧
      t.reg (R.VIS_ERR (visPage f)) = F.VIS_ERR_CFG.put (s.reg (R.VIS_ERR (visPage f))) 1) ∧
    (F.VIS_CQ_CFG_EN.get v = 0 → ∀ c ∈ ringWrites a f k v, ∃ t, exec c s = .next t ∧ t = { s with regs := t.regs } ∧ RegsBut [ringCfg f k] s t ∧
      t.flag (ringCfg f k) F.VIS_CQ_CFG_EN = false ∧ t.fld (ringCfg f k) F.VIS_CQ_CFG_LOG2SIZE = F.VIS_CQ_CFG_LOG2SIZE.get v)) ∧
  (∀ (a : Agent) (f : Fin 17) (k : Fin 18) (v : Word) (s : State), (k.val = 17 → f = 16) → reaches a (ringCfg f k) s = true → fetchKept f k v s →
    s.flag (ringCfg f k) F.VIS_CQ_CFG_EN = true →
    (F.VIS_CQ_CFG_EN.get v = 1 → ∀ c ∈ ringWrites a f k v, ∃ t, exec c s = .next t ∧ t = { s with regs := t.regs } ∧
      RegsBut [R.VIS_ERR (visPage f)] s t ∧
      (F.VIS_CQ_CFG_LOG2SIZE.get v ≠ s.fld (ringCfg f k) F.VIS_CQ_CFG_LOG2SIZE → t.flag (R.VIS_ERR (visPage f)) F.VIS_ERR_CFG_WR = true) ∧
      (v = s.reg (ringCfg f k) → t.reg (R.VIS_ERR (visPage f)) = s.reg (R.VIS_ERR (visPage f)))) ∧
    (F.VIS_CQ_CFG_EN.get v = 0 → ∀ c ∈ ringWrites a f k v, ∃ t, exec c s = .next t ∧
      t = { s with regs := t.regs, host := t.host, hostMem := t.hostMem, out := t.out } ∧ RegsBut [ringCfg f k, R.VIS_ERR (visPage f)] s t ∧
      t.reg (ringCfg f k) = F.VIS_CQ_CFG_EN.put (s.reg (ringCfg f k)) 0 ∧ t.ring f k = {} ∧
      (∀ g j, g < 17 → j < 18 → (g, j) ≠ (f.val, k.val) → t.ring g j = s.ring g j) ∧ shadowed f k 0 0 s t ∧
      t.host = { s.host with rings := t.host.rings, items := t.host.items, formed := t.host.formed } ∧
      t.host.items = s.host.items.map (fun it => if 8 ≤ k.val ∧ k.val < 16 ∧ it.func = f.val ∧ it.cq = k.val - 8 then { it with resv := 0 } else it) ∧
      t.host.formed = s.host.formed.map (fun x => if 8 ≤ k.val ∧ k.val < 16 ∧ x.func = f.val ∧ x.cq = k.val - 8 then { x with resv := 0 } else x))) ∧
  (∀ (a : Agent) (f : Fin 17) (k : Fin 18) (hi : Bool) (v : Word) (s : State), (k.val = 17 → f = 16) → reaches a (ringBaseOff f k hi) s = true →
    (s.flag (ringCfg f k) F.VIS_CQ_CFG_EN = false → ∃ t, exec (.ringConfigWrite a f k (if hi then 1 else 0) v) s = .next t ∧ t = { s with regs := t.regs } ∧
      RegsBut [ringBaseOff f k hi] s t ∧ t.reg (ringBaseOff f k hi) = v) ∧
    (s.flag (ringCfg f k) F.VIS_CQ_CFG_EN = true → exec (.ringConfigWrite a f k (if hi then 1 else 0) v) s =
      .next (if v = s.reg (ringBaseOff f k hi) then s else s.setFlag (R.VIS_ERR (visPage f)) F.VIS_ERR_CFG_WR true))) ∧
  (∀ (a : Agent) (f : Fin 17) (vec : Fin 64) (s : State), (f = 16 ∨ vec.val < 8) → reaches a (msixCtl f vec) s = true →
    ∃ t, exec (.msixUnmask a f vec) s = .next t ∧ t = { s with regs := t.regs, out := t.out } ∧ RegsBut [msixCtl f vec, msixPba f vec] s t ∧
      t.reg (msixCtl f vec) = clearBit (s.reg (msixCtl f vec)) 0 ∧ t.reg (msixPba f vec) = clearBit (s.reg (msixPba f vec)) (vec % 32) ∧
      t.out = (if bitOf (s.reg (msixPba f vec)).toNat (vec % 32) && s.host.link then s.out ++ [msixMsg s f vec] else s.out)) ∧
  (∀ (a : Agent) (f : Fin 17) (vec : Fin 64) (s : State), f ≠ 16 → 8 ≤ vec.val → exec (.msixUnmask a f vec) s = .next s) ∧
  (∀ (f : Fin 17) (k : Fin 18) (s : State), 8 ≤ k.val → (k.val = 17 → f = 16) → s.flag (ringCfg f k) F.VIS_CQ_CFG_INT_EN = true →
    s.fld (ringCoal f k) F.VIS_CQ_COAL_COAL_TIME ≠ 0 → (s.ring f k).counted ≠ 0 → s.fld (ringCfg f k) F.VIS_CQ_CFG_VEC < vectors f →
    ∃ t, exec (.coalTimeExpiry f k) s = .next t ∧ t.ring f k = { s.ring f k with counted := 0 } ∧
      t = { s with regs := t.regs, host := { s.host with rings := t.host.rings }, out := t.out } ∧
      RegsBut [msixPba f (s.fld (ringCfg f k) F.VIS_CQ_CFG_VEC)] s t ∧
      (bitOf (s.reg (msixCtl f (s.fld (ringCfg f k) F.VIS_CQ_CFG_VEC))).toNat 0 = true → t.out = s.out ∧
        t.reg (msixPba f (s.fld (ringCfg f k) F.VIS_CQ_CFG_VEC)) = setBit (s.reg (msixPba f (s.fld (ringCfg f k) F.VIS_CQ_CFG_VEC))) (s.fld (ringCfg f k) F.VIS_CQ_CFG_VEC % 32)) ∧
      (bitOf (s.reg (msixCtl f (s.fld (ringCfg f k) F.VIS_CQ_CFG_VEC))).toNat 0 = false → t.regs = s.regs ∧
        t.out = if s.host.link then s.out ++ [msixMsg s f (s.fld (ringCfg f k) F.VIS_CQ_CFG_VEC)] else s.out)) ∧
  (∀ (f : Fin 17) (k : Fin 18) (s : State), k.val < 8 ∨ s.flag (ringCfg f k) F.VIS_CQ_CFG_INT_EN = false ∨
    s.fld (ringCoal f k) F.VIS_CQ_COAL_COAL_TIME = 0 ∨ (s.ring f k).counted = 0 → exec (.coalTimeExpiry f k) s = .next s) ∧
  (∀ (a : Agent) (v : Word) (s : State), answers a R.GLB_SEAL s = true →
    exec (.glbSeal a v) s = .next (if v = 0x5EA1 then s.setFlag R.GLB_STATUS F.GLB_STATUS_SEALED true else s)) ∧
  (∀ (a : Agent) (v : Word) (s : State), answers a R.GLB_SEAL s = false → exec (.glbSeal a v) s = .next s)

/-- Function `f` may poll (R338, R449, R469). -/
def fetchesFor (f : Nat) (s : State) : Prop := s.host.link = true ∧ startOf s < 2 ∧ twinHalted s = false ∧ s.host.fences.all (·.1 != f) = true

/-- Of `f`'s SQs, `q` alone is enabled, and is RUNNING; every consumer ring is at least a quarter free. -/
def oneQueue (f q : Nat) (s : State) : Prop :=
  (∀ j, j < 8 → s.flag (R.VIS_SQ_CFG (visPage f) j) F.VIS_SQ_CFG_EN = decide (j = q)) ∧ (s.ring f q).state = 1 ∧
  ∀ k, k < 10 → (s.ring f (8 + k)).state = 1 → ringSize s f (8 + k) ≤ 4 * freeSlots s f (8 + k)

/-- How far the doorbell is ahead of the device's index, and how many descriptors a fetch takes (R333). -/
def ahead (f q : Nat) (s : State) : Nat := idxSub (doorbell s f q) (s.ring f q).idx
def cqOf (f q : Nat) (s : State) : Nat := s.fld (R.VIS_SQ_CFG (visPage f) q) F.VIS_SQ_CFG_CQ
def takes (f q : Nat) (s : State) : Nat :=
  min (min (ahead f q s) (s.fld (R.VIS_SQ_CFG (visPage f) q) F.VIS_SQ_CFG_FETCH + 1)) (freeSlots s f (8 + cqOf f q s) / 2)

/-- The next poll's due time, from the DNC of the last change seen (R322). -/
def pollDue (f changed : Nat) (s : State) : Nat :=
  let idle := 1000000 * s.fld (R.VIS_POLL_BO (visPage f)) F.VIS_POLL_BO_IDLE
  s.bel.dnc + if idle ≠ 0 ∧ idle ≤ s.bel.dnc - changed then 1000 * s.fld (R.VIS_POLL_BO (visPage f)) F.VIS_POLL_BO_BACKOFF
    else 10 * s.fld (R.VIS_POLL (visPage f)) F.VIS_POLL_INTERVAL

/-- What a poll leaves: one more late poll where it was late, and the time of the next. -/
def polled (f q : Nat) (s t : State) : Prop :=
  (t.reg R.GLB_POLL_LATE).toNat = min (2 ^ 32 - 1) ((s.reg R.GLB_POLL_LATE).toNat + if (pollOf s f).due ≠ 0 ∧ (pollOf s f).due < s.bel.dnc then 1 else 0) ∧
  (pollOf t f).due = pollDue f (pollOf t f).changed s ∧
  (pollOf t f).changed = (if doorbell s f q ≠ (((pollOf s f).seen.find? (·.1 == q)).map (·.2)).getD 0 then s.bel.dnc else (pollOf s f).changed)

/-- SQ `q` of `f` stops with a REASON: its ring and shadow slot say so in `w`, then RING_STOPPED is raised. -/
def stopped (f q reason : Nat) (s t : State) : Prop := ∃ w,
  t = eventVi 0x0001 f (q + 256 * reason) w ∧ w.ring f q = { s.ring f q with state := 2, reason := reason } ∧
  w.hostMem = s.hostMem.write ((s.pair (R.VIS_SH_LO (visPage f)) (R.VIS_SH_HI (visPage f)) + 64 * q) % 2 ^ 64)
    (leBytes 4 (s.ring f q).idx ++ [2, BitVec.ofNat 8 reason, 0, 0]) ∧ w.host.items = s.host.items

/-- R325: the descriptor is REJECTED for what it says. -/
def badDesc (d : List Byte) : Prop :=
  6 ≤ dOpcode d ∨ (dOpcode d = 1 ∧ (32 < tkTiles d ∨ 16 < tkCores d ∨ (tkTiles d = 0 ∧ tkCores d = 0))) ∨
  (dOpcode d = 2 ∧ stepBlockAddr d % 64 ≠ 0) ∨ (dOpcode d = 3 ∧ collPlan d % 64 ≠ 0) ∨ (dOpcode d = 4 ∧ (ftLen d < 60 ∨ 9216 < ftLen d)) ∨
  (dOpcode d = 5 ∧ (rpLen d < 2048 ∨ 16384 < rpLen d ∨ rpAddr d % 64 ≠ 0))

/-- The item that a command takes up next, alone under its number. -/
def upNext (f q : Nat) (it : RItem) (s : State) : Prop := frontItem s f q = some it ∧ itemOf s it.id = some it

/-- R322 to R328, R333, R338, R340. -/
def Obligations.PollsAndDescriptors : Prop :=
  (∀ (f : Fin 17) (s : State), ¬ fetchesFor f s ∨ (∀ j, j < 8 → s.flag (R.VIS_SQ_CFG (visPage f) j) F.VIS_SQ_CFG_EN = false) ∨ s.bel.dnc < (pollOf s f).due →
    exec (.doorbellPoll f) s = .next s) ∧
  (∀ (f : Fin 17) (q : Fin 8) (s : State), fetchesFor f s → oneQueue f q s → (pollOf s f).due ≤ s.bel.dnc →
    (ringSize s f q < ahead f q s → ∃ t, exec (.doorbellPoll f) s = .next t ∧ stopped f q 1 s t) ∧
    (ahead f q s ≤ ringSize s f q → takes f q s = 0 → ∃ t, exec (.doorbellPoll f) s = .next t ∧
      t = { s with regs := t.regs, host := { s.host with polls := t.host.polls } } ∧ RegsBut [R.GLB_POLL_LATE] s t ∧ polled f q s t) ∧
    (ahead f q s ≤ ringSize s f q → takes f q s ≠ 0 → ∃ t l, exec (.doorbellPoll f) s = .next t ∧ RegsBut [R.GLB_POLL_LATE] s t ∧ polled f q s t ∧
      t = { s with regs := t.regs, host := t.host, hostMem := t.hostMem, out := t.out } ∧ t.host.items = s.host.items ++ l ∧ l.length = takes f q s ∧
      t.host.nextId = s.host.nextId + takes f q s ∧ t.host.formed = s.host.formed ∧
      shadowed f q (((s.ring f q).idx + takes f q s) % 2 ^ 32) 1 s t ∧
      (t.ring f q).idx = ((s.ring f q).idx + takes f q s) % 2 ^ 32 ∧
      (t.ring f (8 + cqOf f q s)).resv = (s.ring f (8 + cqOf f q s)).resv + (l.map (·.resv)).foldl (· + ·) 0 ∧
      (∀ i it, l[i]? = some it → it.id = s.host.nextId + i ∧ it.func = f.val ∧ it.sq = q.val ∧ it.cq = cqOf f q s ∧
        it.idx = ((s.ring f q).idx + i) % 2 ^ 32 ∧ it.resv = (if dAudit it.desc then 2 else 1) ∧ it.active = false ∧
        it.audit = (if dAudit it.desc then s.fld (R.CRY_FN_AUDIT (if f = 16 then 0 else f.val + 1)) F.CRY_FN_AUDIT_MODE else 0) ∧
        it.desc = s.hostMem.read ((ringBase s f q + 64 * (((s.ring f q).idx + i) % 2 ^ 32 % ringSize s f q)) % 2 ^ 64) 64))) ∧
  (∀ (f : Fin 17) (q : Fin 8) (k : Fin 10) (s : State), fetchesFor f s → (pollOf s f).due ≤ s.bel.dnc →
    (∀ j, j < 8 → s.flag (R.VIS_SQ_CFG (visPage f) j) F.VIS_SQ_CFG_EN = decide (j = q.val)) → ahead f q s = 0 →
    (s.ring f (8 + k)).state = 1 → 4 * freeSlots s f (8 + k) < ringSize s f (8 + k) →
    ∃ t, exec (.doorbellPoll f) s = .next t ∧ t.ring f (8 + k) = { s.ring f (8 + k) with cons := doorbell s f (8 + k) }) ∧
  (∀ (f : Fin 17) (q : Fin 8) (s : State), fetchesFor f s → s.flag (R.VIS_SQ_CFG (visPage f) q) F.VIS_SQ_CFG_EN = true → (s.ring f q).state = 1 →
    (ringSize s f q < ahead f q s → ∃ t, exec (.sqFetchError f q) s = .next t ∧ stopped f q 1 s t) ∧
    (ahead f q s ≤ ringSize s f q → takes f q s ≠ 0 → ∃ t, exec (.sqFetchError f q) s = .next t ∧ stopped f q 2 s t) ∧
    (takes f q s = 0 → ahead f q s ≤ ringSize s f q → exec (.sqFetchError f q) s = .next s)) ∧
  (∀ (f : Fin 17) (q : Fin 8) (s : State), ¬ fetchesFor f s ∨ s.flag (R.VIS_SQ_CFG (visPage f) q) F.VIS_SQ_CFG_EN = false ∨ (s.ring f q).state ≠ 1 →
    exec (.sqFetchError f q) s = .next s) ∧
  (∀ (f : Fin 17) (q : Fin 8) (it : RItem) (s : State), upNext f q it s → dOpcode it.desc = 0 →
    ∃ t, exec (.hostNop f q) s = .next t ∧ ringEnds it stDone 0 s t) ∧
  (∀ (f : Fin 17) (q : Fin 8) (it : RItem) (s : State), upNext f q it s →
    (badDesc it.desc → ∃ t, exec (.undefinedHostOpcode f q) s = .next t ∧ ringEnds it stRejected 0 s t) ∧
    (¬ badDesc it.desc → exec (.undefinedHostOpcode f q) s = .next s)) ∧
  (∀ (f : Fin 17) (q : Fin 8) (s : State), (∀ it, frontItem s f q = some it → dOpcode it.desc ≠ 0) → exec (.hostNop f q) s = .next s) ∧
  (∀ (f : Fin 17) (q : Fin 8) (img : TaskImage) (s : State), frontItem s f q = none →
    exec (.task f q img) s = .next s ∧ exec (.undefinedHostOpcode f q) s = .next s) ∧
  (∀ (f : Fin 17) (q : Fin 8) (img : TaskImage) (it : RItem) (s : State), upNext f q it s → dOpcode it.desc = 1 → it.func = f.val →
    (badDesc it.desc ∨ s.fld (R.VIS_QUOTA (visPage f)) F.VIS_QUOTA_CHANNELS < max img.channels img.lists.length ∨
        s.fld (R.VIS_QUOTA (visPage f)) F.VIS_QUOTA_PAIRS < img.pairs ∨ (maskTiles s f).length < tkTiles it.desc ∨ (maskCores s f).length < tkCores it.desc →
      ∃ t, exec (.task f q img) s = .next t ∧ ringEnds it stRejected 0 s t) ∧
    (¬ badDesc it.desc → max img.channels img.lists.length ≤ s.fld (R.VIS_QUOTA (visPage f)) F.VIS_QUOTA_CHANNELS →
      img.pairs ≤ s.fld (R.VIS_QUOTA (visPage f)) F.VIS_QUOTA_PAIRS → tkTiles it.desc ≤ (maskTiles s f).length → tkCores it.desc ≤ (maskCores s f).length →
      (((maskTiles s f).filter (tileUp s)).length < tkTiles it.desc ∨ ((maskCores s f).filter (coreUp s)).length < tkCores it.desc →
        ∃ t, exec (.task f q img) s = .next t ∧ ringEnds it stPower 0 s t) ∧
      (tkTiles it.desc ≤ ((maskTiles s f).filter (tileUp s)).length → tkCores it.desc ≤ ((maskCores s f).filter (coreUp s)).length →
        ∃ t x, exec (.task f q img) s = .next t ∧ t = { s with host := { s.host with items := t.host.items }, cry := { s.cry with cache := t.cry.cache } } ∧
          itemOf t it.id = some x ∧ x = { it with active := true, tilesWant := tkTiles it.desc, coresWant := tkCores it.desc, pairs := img.pairs, lists := img.lists.map (·.toNat), image := x.image, tiles := if tkTiles it.desc = 0 then some [] else none, cores := if tkCores it.desc = 0 then some [] else none } ∧
          ((∀ e ∈ s.cry.cache, e.kind ≠ 0) → x.image = img.digest) ∧ ∀ i, i ≠ it.id → itemOf t i = itemOf s i)))

/-- Nothing holds a completion back: no digest, record, batch or append is outstanding. -/
def mayLeave (c : Cpl) : Prop := c.wait = false ∧ c.held = false ∧ c.batch = false ∧ c.append = false

/-- Slots a completion takes (R330). -/
def slotsOf (c : Cpl) : Nat := if bitOf c.flags 2 then 2 else 1

/-- Table HST-5, at producer index `idx` of a ring of `n` slots. -/
def cplEntry (c : Cpl) (div : Bool) (idx n : Nat) : List Byte :=
  leBytes 1 c.status ++ leBytes 1 c.flags ++ leBytes 2 c.tag ++ leBytes 4 c.itemId ++ leBytes 1 c.origin ++
  leBytes 1 (c.sq % 8 + 16 * div.toNat + 32 * c.reset.toNat + 128 * (1 - idx / n % 2)) ++ leBytes 1 (funcByte c.func) ++ leBytes 1 (c.cq % 8) ++
  leBytes 4 c.detail ++ leBytes 8 c.bytes ++ leBytes 8 c.dnc

/-- The writes to host memory that put it into ring `k` of function `g`, in order: digest, entry, shadow slot. -/
def cplWrites (g k : Nat) (div : Bool) (c : Cpl) (s : State) : List (Nat × List Byte) :=
  let r := s.ring g k
  (if bitOf c.flags 2 then [((ringBase s g k + 32 * ((r.idx + 1) % ringSize s g k)) % 2 ^ 64, fit 32 c.digest)] else []) ++
  [((ringBase s g k + 32 * (r.idx % ringSize s g k)) % 2 ^ 64, cplEntry c div r.idx (ringSize s g k)),
   ((s.pair (R.VIS_SH_LO (visPage g)) (R.VIS_SH_HI (visPage g)) + 64 * k) % 2 ^ 64, leBytes 4 ((r.idx + slotsOf c) % 2 ^ 32) ++ [1, BitVec.ofNat 8 r.reason, 0, 0])]

/-- `t` has made those writes; a link that is down discards them. -/
def hasWritten (l : List (Nat × List Byte)) (s t : State) : Prop :=
  t.hostMem = (if s.host.link then l.foldl (fun m x => m.write x.1 x.2) s.hostMem else s.hostMem) ∧
  ∃ irq, t.out = (if s.host.link then s.out ++ l.map (fun x => .hostWrite x.1 x.2) else s.out) ++ irq

/-- It counts towards the ring's interrupt. -/
def counts (g k : Nat) (c : Cpl) (s : State) : Prop := c.noint = false ∧ s.flag (ringCfg g k) F.VIS_CQ_CFG_INT_EN = true

/-- Completion `c` is in ring `k` of `g`: index, interrupt count and messages of `t` say so. -/
def inRing (g k : Nat) (div : Bool) (c : Cpl) (s t : State) : Prop :=
  hasWritten (cplWrites g k div c s) s t ∧ (t.ring g k).idx = ((s.ring g k).idx + slotsOf c) % 2 ^ 32 ∧ (t.ring g k).state = 1 ∧
  (¬ counts g k c s → (t.ring g k).counted = (s.ring g k).counted ∧
    t.out = if s.host.link then s.out ++ (cplWrites g k div c s).map (fun x => .hostWrite x.1 x.2) else s.out) ∧
  (counts g k c s → s.fld (ringCoal g k) F.VIS_CQ_COAL_COAL_CNT ≤ (s.ring g k).counted + 1 →
    (t.ring g k).counted = 0 ∧ (bitOf (s.reg (msixCtl g (s.fld (ringCfg g k) F.VIS_CQ_CFG_VEC))).toNat 0 = false → s.host.link = true →
      t.out = s.out ++ (cplWrites g k div c s).map (fun x => .hostWrite x.1 x.2) ++ [msixMsg s g (s.fld (ringCfg g k) F.VIS_CQ_CFG_VEC)])) ∧
  (counts g k c s → (s.ring g k).counted + 1 < s.fld (ringCoal g k) F.VIS_CQ_COAL_COAL_CNT →
    (t.ring g k).counted = (s.ring g k).counted + 1 ∧
    t.out = if s.host.link then s.out ++ (cplWrites g k div c s).map (fun x => .hostWrite x.1 x.2) else s.out)

/-- Nothing waits for the report ring, which is RUNNING with room for `c`. -/
def rrTakes (c : Cpl) (s : State) : Prop := s.host.hold = [] ∧ s.host.backlog = [] ∧ (s.ring 16 17).state = 1 ∧ slotsOf c ≤ freeSlots s 16 17

/-- The backlog's entries. -/
def backlogSize (s : State) : Nat := s.fld (R.VIS_RR_BKLOG_SIZE (visPage 16)) F.VIS_RR_BKLOG_SIZE_ENTRIES

/-- A completion of function `f` that is not a fence's leaves `s`; nothing else is formed or gone. -/
def leaves (c : Cpl) (s : State) : Prop :=
  nextCpl s = some c ∧ c.func < 17 ∧ c.cq < 8 ∧ c.flags < 16

/-- R329 to R335, R468, R470. -/
def Obligations.CompletionsLeave : Prop :=
  (∀ (c : Cpl) (rest : List Cpl) (s : State), s.host.formed = c :: rest → mayLeave c → (∀ x ∈ rest, c.id < x.id) → nextCpl s = some c) ∧
  (∀ s : State, (∀ c ∈ s.host.formed, ¬ mayLeave c) → exec .completionWrite s = .next s) ∧
  (∀ (c : Cpl) (s : State), leaves c s → c.reset = false → (s.ring c.func (8 + c.cq)).state = 1 → c.resv ≠ 0 ∨ slotsOf c ≤ freeSlots s c.func (8 + c.cq) →
    ∃ t, exec .completionWrite s = .next t ∧ t.host.formed = s.host.formed.filter (·.id != c.id) ∧ inRing c.func (8 + c.cq) false c s t ∧
      (t.ring c.func (8 + c.cq)).resv = (s.ring c.func (8 + c.cq)).resv - c.resv ∧
      t = { s with regs := t.regs, host := { s.host with rings := t.host.rings, formed := t.host.formed }, hostMem := t.hostMem, out := t.out } ∧
      RegsBut ((List.range 64).map (msixPba c.func)) s t ∧
      ∀ g k, g < 17 → k < 18 → (g, k) ≠ (c.func, 8 + c.cq) → t.ring g k = s.ring g k) ∧
  (∀ (c : Cpl) (s : State), leaves c s → c.reset = false → c.resv = 0 → (s.ring c.func (8 + c.cq)).state ≠ 1 → rrTakes c s →
    ∃ t, exec .completionWrite s = .next t ∧ t.host.formed = s.host.formed.filter (·.id != c.id) ∧ inRing 16 17 true c s t ∧
      (t.reg (R.VIS_CQ_DIVERT (visPage c.func) c.cq)).toNat = min (2 ^ 32 - 1) ((s.reg (R.VIS_CQ_DIVERT (visPage c.func) c.cq)).toNat + 1)) ∧
  (∀ (c : Cpl) (s : State), leaves c s → c.reset = false → c.resv = 0 → (s.ring c.func (8 + c.cq)).state = 1 → freeSlots s c.func (8 + c.cq) < slotsOf c →
    (slotsOf c ≤ freeSlots (freshRead c.func (8 + c.cq) s) c.func (8 + c.cq) → ∃ t, exec .completionWrite s = .next t ∧
      t.host.formed = s.host.formed.filter (·.id != c.id) ∧ inRing c.func (8 + c.cq) false c s t ∧
      (t.ring c.func (8 + c.cq)).cons = doorbell s c.func (8 + c.cq)) ∧
    (freeSlots (freshRead c.func (8 + c.cq) s) c.func (8 + c.cq) < slotsOf c → rrTakes c s → ∃ t, exec .completionWrite s = .next t ∧
      inRing 16 17 true c s t ∧ (t.reg (R.VIS_CQ_DIVERT (visPage c.func) c.cq)).toNat =
        min (2 ^ 32 - 1) ((s.reg (R.VIS_CQ_DIVERT (visPage c.func) c.cq)).toNat + 1))) ∧
  (∀ (c : Cpl) (s : State), leaves c s → c.reset = true → rrTakes c s → ∃ t, exec .completionWrite s = .next t ∧
    t.host.formed = s.host.formed.filter (·.id != c.id) ∧ inRing 16 17 false c s t ∧
    (t.ring c.func (8 + c.cq)).resv = (s.ring c.func (8 + c.cq)).resv - c.resv ∧
    t.host.fences = s.host.fences.map fun x => if x.1 = c.func then (x.1, x.2.1, x.2.2 + 1) else x) ∧
  (∀ (c : Cpl) (s : State), leaves c s → c.reset = true ∨ (c.resv = 0 ∧ (s.ring c.func (8 + c.cq)).state ≠ 1) →
    s.host.hold ≠ [] ∨ s.host.backlog ≠ [] ∨ (s.ring 16 17).state ≠ 1 → upperOff s = false →
    (backlogSize s ≠ 0 → s.host.backlog.length < backlogSize s → ∃ t, exec .completionWrite s = .next t ∧ t.host.backlog = s.host.backlog ++ [c] ∧
      t.host.hold = s.host.hold ∧ t.host.formed = s.host.formed.filter (·.id != c.id) ∧ t.free = s.free + 1) ∧
    (backlogSize s = 0 → s.host.hold.length < s.fld R.GLB_HOLD_SIZE F.GLB_HOLD_SIZE_ENTRIES → ∃ t, exec .completionWrite s = .next t ∧
      t.host.hold = s.host.hold ++ [c] ∧ t.host.backlog = s.host.backlog ∧ t.host.formed = s.host.formed.filter (·.id != c.id) ∧
      t.fld R.GLB_HOLD_CNT F.GLB_HOLD_CNT_CNT = min F.GLB_HOLD_CNT_CNT.max (s.host.hold.length + 1)) ∧
    (backlogSize s ≠ 0 → backlogSize s ≤ s.host.backlog.length → ∃ t, exec .completionWrite s = .next t ∧ t.host.backlog = s.host.backlog ∧
      t.host.hold = s.host.hold ∧ t.host.formed = s.host.formed.filter (·.id != c.id) ∧ t.flag R.GLB_ERR F.GLB_ERR_REPORT_LOST = true ∧
      (t.reg (R.VIS_RR_LOST (visPage 16))).toNat = min (2 ^ 32 - 1) ((s.reg (R.VIS_RR_LOST (visPage 16))).toNat + 1))) ∧
  (∀ (c : Cpl) (cs : List Cpl) (s : State), s.host.hold = c :: cs ∨ (s.host.hold = [] ∧ s.host.backlog = c :: cs) → c.flags < 16 →
    ((s.ring 16 17).state ≠ 1 → exec .rrBacklogMove s = .next s) ∧
    ((s.ring 16 17).state = 1 → slotsOf c ≤ freeSlots s 16 17 → ∃ t, exec .rrBacklogMove s = .next t ∧ inRing 16 17 (!c.reset) c s t ∧
      t.host.hold = s.host.hold.tail ∧ t.host.backlog = (if s.host.hold = [] then cs else s.host.backlog) ∧
      t.fld R.GLB_HOLD_CNT F.GLB_HOLD_CNT_CNT = min F.GLB_HOLD_CNT_CNT.max (s.host.hold.length - 1)) ∧
    ((s.ring 16 17).state = 1 → freeSlots s 16 17 < slotsOf c → freeSlots (freshRead 16 17 s) 16 17 < slotsOf c →
      exec .rrBacklogMove s = .next (freshRead 16 17 s))) ∧
  (∀ s : State, s.host.hold = [] → s.host.backlog = [] → exec .rrBacklogMove s = .next s)

/-- Registers of every block and kind of field whose write does no more than store. -/
def plainRegs : List Nat := [R.GLB_ERR, R.GLB_DISC, R.GLB_NAV_PRE_SE, R.GLB_HOLD_SIZE, R.GLB_POLL_LATE, R.CHM_THR, R.MMU_CTL, R.MMU_PF_ROOT_LO,
  R.SEQ_CTL, R.SEQ_ERR, R.SEQ_TBL_SIZE, R.SEQ_SAT, R.SEQ_BCTX_CTL 63, R.CRY_CELL_AUDIT 15, R.CRY_CELL_LOG_CTL 15, R.FWL_SHADOW_SIZE,
  R.VIS_ERR (visPage 16), R.VIS_POLL (visPage 16), R.VIS_POLL_BO (visPage 15), R.VIS_QUOTA (visPage 15), R.VIS_TILEMASK (visPage 0),
  R.VIS_DB_LO (visPage 3), R.VIS_CQ_COAL (visPage 15) 7]

/-- What a field holds after `x` is written to it (R8, R556). -/
def fieldTakes (d : FieldDef) (old x : Nat) : Nat :=
  match d.kind, d.lim with
  | .ro, _ => old
  | .trig, _ => old
  | .w1c, _ => old - Nat.land old x
  | .w1s, _ => Nat.lor old x
  | .rw, .any => x
  | .rw, .range lo hi => max lo (min x hi)
  | .rw, .srange lo hi => unsigned (d.fld.hi + 1 - d.fld.lo) (max lo (min (signed (d.fld.hi + 1 - d.fld.lo) x) hi))
  | .rw, .codes n => if x < n then x else old

/-- The field is an expert field of a function whose bit of GLB_EXPERT is 0. -/
def expertClosed (s : State) (d : FieldDef) : Bool := match d.expert with
  | some k => !bitOf (s.reg R.GLB_EXPERT).toNat k
  | none => false

/-- The field is a PF field, and a VF writes it. -/
def pfClosed (a : Agent) (d : FieldDef) : Bool := d.pf && decide (a ≠ .pf ∧ a ≠ .chf)

/-- The write would change a field that is closed to it. -/
def meets (closed : FieldDef → Bool) (off : Nat) (v : Word) (r : RegDef) (s : State) : Prop :=
  ∃ d ∈ r.fields, closed d = true ∧ fieldTakes d (s.fld off d.fld) (d.fld.get v) ≠ s.fld off d.fld

/-- A discarded write through a BAR stands in GLB_DISC, if none stood there. -/
def discNoted (a : Agent) (o kind : Nat) (s t : State) : Prop :=
  if a = .chf ∨ s.flag R.GLB_DISC F.GLB_DISC_VALID = true then t.reg R.GLB_DISC = s.reg R.GLB_DISC
  else t.flag R.GLB_DISC F.GLB_DISC_VALID = true ∧ t.fld R.GLB_DISC F.GLB_DISC_KIND = kind ∧ t.fld R.GLB_DISC F.GLB_DISC_OFFSET = o % 2 ^ 25 ∧
    t.fld R.GLB_DISC F.GLB_DISC_FUNC = (match a with
      | .vf v => v.val + 1
      | _ => 0)

/-- GLB_EXPERT's bits that a write clears. -/
def clearsExpert (v : Word) (s : State) (k : Nat) : Prop := bitOf (s.reg R.GLB_EXPERT).toNat k = true ∧ bitOf v.toNat k = false

/-- R8, R313, R341 to R345, R527, R556. -/
def Obligations.RegisterWrites : Prop :=
  (∀ (a : Agent) (o : BitVec 25) (v : Word) (r : RegDef) (s : State), agentOff a o.toNat ∈ plainRegs → regRow (agentOff a o.toNat) = some r →
    (answers a (agentOff a o.toNat) s = false → exec (.registerWrite a o v) s = .next s) ∧
    (answers a (agentOff a o.toNat) s = true → (r.rwl && isSealed s) = true → ∃ t, exec (.registerWrite a o v) s = .next t ∧
      t.flag R.GLB_ERR F.GLB_ERR_SEAL_WR = true ∧ discNoted a (barOff a (agentOff a o.toNat)) 0 s t ∧
      EventsOnly [R.GLB_ERR, R.GLB_DISC] s t ∧ t.reg (agentOff a o.toNat) = s.reg (agentOff a o.toNat)) ∧
    (answers a (agentOff a o.toNat) s = true → (r.rwl && isSealed s) = false → ∃ t, exec (.registerWrite a o v) s = .next t ∧
      (∀ d ∈ r.fields, (expertClosed s d || pfClosed a d) = false → t.fld (agentOff a o.toNat) d.fld =
        fieldTakes d (s.fld (agentOff a o.toNat) d.fld) (d.fld.get v)) ∧
      (∀ d ∈ r.fields, (expertClosed s d || pfClosed a d) = true → t.fld (agentOff a o.toNat) d.fld = s.fld (agentOff a o.toNat) d.fld) ∧
      (¬ meets (fun d => expertClosed s d || pfClosed a d) (agentOff a o.toNat) v r s → t = { s with regs := t.regs } ∧ RegsBut [agentOff a o.toNat] s t) ∧
      (meets (expertClosed s) (agentOff a o.toNat) v r s → t.flag R.GLB_ERR F.GLB_ERR_EXPERT_WR = true ∧
        discNoted a (barOff a (agentOff a o.toNat)) 1 s t ∧ EventsOnly [R.GLB_ERR, R.GLB_DISC, agentOff a o.toNat] s t) ∧
      (meets (pfClosed a) (agentOff a o.toNat) v r s → t = { s with regs := t.regs } ∧
        RegsBut [agentOff a o.toNat, R.VIS_ERR (visPage (agentNo a))] s t ∧ t.flag (R.VIS_ERR (visPage (agentNo a))) F.VIS_ERR_PF_FIELD = true))) ∧
  (∀ (a : Agent) (v : Word) (s : State), a = .pf ∨ a = .chf →
    exec (.registerWrite a (BitVec.ofNat 25 R.GLB_SEAL) v) s = exec (.glbSeal a v) s ∧
    exec (.registerWrite a (BitVec.ofNat 25 R.GLB_EXPERT) v) s = exec (.glbExpertWrite a v) s ∧
    exec (.registerWrite a (BitVec.ofNat 25 R.GLB_NAV_PRE) v) s = exec (.navRoleMaskWrite a true v) s ∧
    exec (.registerWrite a (BitVec.ofNat 25 R.MEM_CTL) v) s = exec (.spillWaysWrite a v) s ∧
    exec (.registerWrite a (BitVec.ofNat 25 R.MMU_INV) v) s = exec (.mmuInvGo a v) s ∧
    exec (.registerWrite a (BitVec.ofNat 25 R.SEQ_CMD) v) s = exec (.seqOpen a none v) s ∧
    exec (.registerWrite a (BitVec.ofNat 25 R.BEL_FREQ_ADJ) v) s = exec (.freqAdjWrite a v) s ∧
    ∀ (g : Fin 64) (f : Fin 17) (k : Fin 8),
      exec (.registerWrite a (BitVec.ofNat 25 (R.SEQ_GRP_CFG g)) v) s = exec (.seqGroupConfig a g v) s ∧
      exec (.registerWrite a (BitVec.ofNat 25 (ringCfg f k)) v) s = exec (.ringConfigWrite a f ⟨k.val, by omega⟩ 2 v) s ∧
      exec (.registerWrite a (BitVec.ofNat 25 (ringBaseOff f k true)) v) s = exec (.ringConfigWrite a f ⟨k.val, by omega⟩ 1 v) s) ∧
  (∀ (a : Agent) (v : Word) (s : State), reaches a R.GLB_EXPERT s = true → (∀ k, k < 13 → ¬ clearsExpert v s k) →
    ∃ t, exec (.glbExpertWrite a v) s = .next t ∧ t = { s with regs := t.regs } ∧ RegsBut [R.GLB_EXPERT] s t ∧
      t.fld R.GLB_EXPERT F.GLB_EXPERT_BITS = F.GLB_EXPERT_BITS.get v) ∧
  (∀ (a : Agent) (v : Word) (k : Nat) (s : State), reaches a R.GLB_EXPERT s = true → k < 13 → clearsExpert v s k →
    (∀ j, j < 13 → j ≠ k → ¬ clearsExpert v s j) → (∀ p, p < 17 → linkState s p ≠ lFailed) →
    ∃ t, exec (.glbExpertWrite a v) s = .next t ∧ t.fld R.GLB_EXPERT F.GLB_EXPERT_BITS = F.GLB_EXPERT_BITS.get v ∧
      (∀ off r d, regRow off = some r → d ∈ r.fields → d.expert = some k → d.kind = .rw → t.fld off d.fld = d.fld.get (resetVal off)) ∧
      (k ≠ 0 → k ≠ 4 → k ≠ 11 → t = { s with regs := t.regs } ∧ ∀ off r d, off ≠ R.GLB_EXPERT → regRow off = some r → d ∈ r.fields → d.expert ≠ some k →
        t.fld off d.fld = s.fld off d.fld) ∧
      (k = 4 → ∀ i, (t.tile i).preHeld = false) ∧
      (k = 11 → t.flag R.GLB_STATUS F.GLB_STATUS_OVERRIDE = false) ∧
      (k = 0 → t.bel.ofsPend = none ∧ t.fld R.BEL_RCLK_CTL F.BEL_RCLK_CTL_FREQ = 0 ∧ (∀ x n, s.bel.setPend = some (x, some n) → t.bel.setPend = none) ∧
        (∀ x, s.bel.setPend = some (x, none) → t.bel.setPend = s.bel.setPend) ∧
        ∀ c, c < 16 → t.fld (R.BEL_CMP_CTL c) F.BEL_CMP_CTL_MODE = max 2 (s.fld (R.BEL_CMP_CTL c) F.BEL_CMP_CTL_MODE) ∧
          (s.fld (R.BEL_CMP_CTL c) F.BEL_CMP_CTL_MODE < 2 → t.flag (R.BEL_CMP_CTL c) F.BEL_CMP_CTL_ARM = false)))

/-- The frame came in whole: its frame and byte counters, from `s`. -/
def rxCounted (p n : Nat) (s t : State) : Prop :=
  t.reg (R.FHS_P_RX_FRAMES p) = s.reg (R.FHS_P_RX_FRAMES p) + 1 ∧
  t.pair (R.FHS_P_RX_BYTES_LO p) (R.FHS_P_RX_BYTES_HI p) = (s.pair (R.FHS_P_RX_BYTES_LO p) (R.FHS_P_RX_BYTES_HI p) + n) % 2 ^ 64

def rxRegs (p : Nat) : List Nat := [R.FHS_P_RX_FRAMES p, R.FHS_P_RX_BYTES_LO p, R.FHS_P_RX_BYTES_HI p]

/-- `s` with a frame of `n` bytes counted in. -/
def counted (p n : Nat) (s : State) : State :=
  (s.setReg (R.FHS_P_RX_FRAMES p) (s.reg (R.FHS_P_RX_FRAMES p) + 1)).setPair (R.FHS_P_RX_BYTES_LO p) (R.FHS_P_RX_BYTES_HI p)
    ((s.pair (R.FHS_P_RX_BYTES_LO p) (R.FHS_P_RX_BYTES_HI p) + n) % 2 ^ 64)

/-- Frame `f` of flow `fl` holds one section of one PRB of 16-bit samples, for slot `n`, antenna `ant` and symbol `sym` of cell `c`, which
takes it (R364 to R367). -/
def onePrb (f : List Byte) (fl c n ant sym : Nat) (h : SecHdr) (s : State) : Prop :=
  c = s.fld (R.FHS_FLOW fl) F.FHS_FLOW_CELL ∧ ant = s.fld (R.FHS_FLOW fl) F.FHS_FLOW_ANT ∧ sym = (upHdr (frBody f)).sym ∧
  h = secHdr ((frBody f).drop 12) ∧ s.flag (R.FHS_FLOW_ATTR fl) F.FHS_FLOW_ATTR_HDR = false ∧ s.fld (R.FHS_FLOW_ATTR fl) F.FHS_FLOW_ATTR_COMP = 0 ∧
  ecSizeOk f (frBody f) = true ∧ ecSize (frBody f) = 8 + 4 + 48 ∧ h.num = 1 ∧ h.inc = false ∧ h.start ≤ 272 ∧ sym < 14 ∧
  ant < slotBufNant s c ∧ slotBufOpen s c = true ∧
  n = (upHdr (frBody f)).frame * 10 * 2 ^ s.fld (R.FHS_CELL_CFG c) F.FHS_CELL_CFG_MU +
    (upHdr (frBody f)).sub * 2 ^ s.fld (R.FHS_CELL_CFG c) F.FHS_CELL_CFG_MU + (upHdr (frBody f)).slot

/-- The switch takes frames from port `p`. -/
def portOpen (p : Nat) (s : State) : Prop := s.flag R.FHS_CTL F.FHS_CTL_EN = true ∧ fhEnabled s p = true ∧ fhLink s p = true

/-- Frame `f` with its FCS behind it is whole and no pause frame. -/
def goodFrame (f : List Byte) : Prop := 60 ≤ f.length ∧ f.length ≤ 9216 ∧ frType f ≠ 0x8808

/-- The VID and priority of a frame from port `p` (R354). -/
def vidOf (p : Nat) (f : List Byte) (s : State) : Nat :=
  if frTagged f && frTci f % 4096 != 0 then frTci f % 4096 else s.fld (R.FHS_P_CTL p) F.FHS_P_CTL_PVID
def pcpOf (p : Nat) (f : List Byte) (s : State) : Nat := if frTagged f then frTci f / 8192 else s.fld (R.FHS_P_CTL p) F.FHS_P_CTL_DEF_PCP

/-- How it leaves through port `d` (R355): tagged with its VID and priority, or without a tag, padded to 60 bytes. -/
def leavesAs (d p : Nat) (f : List Byte) (s : State) : List Byte :=
  let out := if vlanUntag s (vidOf p f s) d then untag f
    else retag f (vidOf p f s + (if frTagged f then frTci f / 4096 % 2 else 0) * 4096 + 8192 * pcpOf p f s)
  if out.length < 60 then out ++ List.replicate (60 - out.length) 0 else out

/-- The queue of port `d` for its priority. -/
def queueFor (d p : Nat) (f : List Byte) (s : State) : Nat := s.fld (R.FHS_P_PCPMAP d) F.FHS_P_PCPMAP_MAP / 8 ^ pcpOf p f s % 8

/-- The learn requests after an admitted frame. -/
def learnAfter (p : Nat) (f : List Byte) (s : State) : List LearnReq :=
  if s.flag (R.FHS_P_CTL p) F.FHS_P_CTL_LEARN && !isGroup (frSrc f) && decide (s.fhs.learn.length < 16) then s.fhs.learn ++ [⟨p, vidOf p f s, frSrc f⟩]
  else s.fhs.learn

/-- The entries of a key's set that hold nothing. -/
def freeWay (s : State) (vid mac : Nat) : Option Nat := ((List.range 4).map (4 * macSet vid mac + ·)).find? fun i => (macEnt s i).isNone

/-- Only entry `i` of the MAC table changes, and the oldest request is gone. -/
def learnt (i : Nat) (e : Option MacEnt) (rs : List LearnReq) (s t : State) : Prop :=
  t.fhs.learn = rs ∧ macEnt t i = e ∧ (∀ k, k ≠ i → macEnt t k = macEnt s k) ∧ t.fhs.queues = s.fhs.queues ∧ t.fhs.ports = s.fhs.ports

/-- A MAC command is given with GO, and no request waits. -/
def macGo (a : Agent) (op : Nat) (v : Word) (s : State) : Prop :=
  reaches a R.FHS_MAC_CMD s = true ∧ F.FHS_MAC_CMD_GO.get v = 1 ∧ F.FHS_MAC_CMD_OP.get v = op ∧ s.fhs.learn = []

/-- R352 to R367, R378. -/
def Obligations.FramesComeIn : Prop :=
  (∀ (p : Fin 8) (bs : List Byte) (s : State), ¬ portOpen p s → exec (.frameReceive p bs) s = .next s) ∧
  (∀ (p : Fin 8) (bs : List Byte) (s : State), portOpen p s → bs.length < 64 ∨ 9220 < bs.length ∨ fcsOk bs = false →
    exec (.frameReceive p bs) s = .next (s.setReg (R.FHS_P_RX_ERR p) (s.reg (R.FHS_P_RX_ERR p) + 1))) ∧
  (∀ (p : Fin 8) (f : List Byte) (s : State), portOpen p s → 60 ≤ f.length → f.length ≤ 9216 →
    (frType f = 0x8808 → ∃ t, exec (.frameReceive p (f ++ fcs f)) s = .next t ∧ t = { s with regs := t.regs } ∧
      RegsBut (R.FHS_P_PAUSE_DROP p :: rxRegs p) s t ∧ rxCounted p (f.length + 4) s t ∧ t.reg (R.FHS_P_PAUSE_DROP p) = s.reg (R.FHS_P_PAUSE_DROP p) + 1) ∧
    (frType f ≠ 0x8808 → vlanMember s (vidOf p f s) p = false → ∃ t, exec (.frameReceive p (f ++ fcs f)) s = .next t ∧ t = { s with regs := t.regs } ∧
      RegsBut (R.FHS_P_VLAN_DROP p :: rxRegs p) s t ∧ rxCounted p (f.length + 4) s t ∧ t.reg (R.FHS_P_VLAN_DROP p) = s.reg (R.FHS_P_VLAN_DROP p) + 1)) ∧
  (∀ (p : Fin 8) (f : List Byte) (i d q : Nat) (e : MacEnt) (s : State), portOpen p s → goodFrame f → vlanMember s (vidOf p f s) p = true →
    isGroup (frDst f) = false → macFind s (vidOf p f s) (frDst f) = some (i, e) → e.port = d → d < 8 → (frType f ≠ 0xAEFE ∨ e.static = false) →
    q = queueFor d p f s →
    (d = p → ∃ t, exec (.frameReceive p (f ++ fcs f)) s = .next t ∧ rxCounted p (f.length + 4) s t ∧ t.fhs.queues = s.fhs.queues ∧
      t.fhs.learn = learnAfter p f s ∧ RegsBut (R.FHS_CNT_LEARN_DROP :: rxRegs p) s t ∧ t.fhs.mac = s.fhs.mac) ∧
    (d ≠ p → fhThere s d = true → fhLink s d = true → admits s d q { bytes := leavesAs d p f s } = true →
      ∃ t, exec (.frameReceive p (f ++ fcs f)) s = .next t ∧ rxCounted p (f.length + 4) s t ∧
        (t.fq d q).frames = (s.fq d q).frames ++ [{ bytes := leavesAs d p f s }] ∧ (∀ d' q', d' < 8 → q' < 8 → (d', q') ≠ (d, q) → t.fq d' q' = s.fq d' q') ∧
        t.fld (R.FHS_P_Q_DEPTH d q) F.FHS_P_Q_DEPTH_FRAMES = ((s.fq d q).frames.length + 1) % 2 ^ (F.FHS_P_Q_DEPTH_FRAMES.hi + 1 - F.FHS_P_Q_DEPTH_FRAMES.lo) ∧
        t.fhs.learn = learnAfter p f s ∧ t.fhs.mac = s.fhs.mac ∧ t.out = s.out ∧ t.hbm = s.hbm) ∧
    (d ≠ p → fhThere s d = true → fhLink s d = true → admits s d q { bytes := leavesAs d p f s } = false →
      ∃ t, exec (.frameReceive p (f ++ fcs f)) s = .next t ∧ t.fhs.queues = s.fhs.queues ∧ rxCounted p (f.length + 4) s t ∧
        (t.reg (R.FHS_P_Q_DROP d q)).toNat = min (2 ^ 32 - 1) ((s.reg (R.FHS_P_Q_DROP d q)).toNat + 1)) ∧
    (d ≠ p → fhThere s d = true → fhLink s d = false → ∃ t, exec (.frameReceive p (f ++ fcs f)) s = .next t ∧ t.fhs.queues = s.fhs.queues ∧
      t.reg (R.FHS_P_LINK_DROP d) = s.reg (R.FHS_P_LINK_DROP d) + 1)) ∧
  (∀ (p : Fin 8) (f : List Byte) (i : Nat) (e : MacEnt) (s : State), portOpen p s → goodFrame f → vlanMember s (vidOf p f s) p = true →
    isGroup (frDst f) = false → macFind s (vidOf p f s) (frDst f) = some (i, e) → e.static = true → e.port = 8 → frType f = 0xAEFE → ecHandled (frBody f) = true →
    (ecType (frBody f) ≠ 0 ∨ flowFind s [0, 1] (ecPcId (frBody f)) p = none → ∃ t, exec (.frameReceive p (f ++ fcs f)) s = .next t ∧
      rxCounted p (f.length + 4) s t ∧ t.reg R.FHS_CNT_FLOW_MISS = s.reg R.FHS_CNT_FLOW_MISS + 1 ∧ t.hbm = s.hbm ∧ t.fhs.queues = s.fhs.queues) ∧
    (∀ (fl c n ant sym : Nat) (h : SecHdr) (s1 s2 s3 w : State) (hd bit : List Byte), ecType (frBody f) = 0 → flowFind s [0, 1] (ecPcId (frBody f)) p = some fl →
      s.fld (R.FHS_FLOW fl) F.FHS_FLOW_KIND = 0 → onePrb f fl c n ant sym h s → s.flag (R.FHS_P_CTL p) F.FHS_P_CTL_LEARN = false →
      vaRead 16 (slotBufHead s c (n % 4)) 4 (counted p (f.length + 4) s) = (s1, .ok hd) → leNat hd = n →
      vaWrite 16 (slotBufData s c (n % 4) sym ant h.start) (prbDecode 16 (((frBody f).drop 16).take 48)) s1 = (s2, none) →
      vaRead 16 (slotBufHead s c (n % 4) + 4 + (sym * 16 + ant) / 8) 1 (s2.setReg (R.FHS_CELL_SECT c) (s.reg (R.FHS_CELL_SECT c) + 1)) = (s3, .ok bit) →
      vaWrite 16 (slotBufHead s c (n % 4) + 4 + (sym * 16 + ant) / 8) (leBytes 1 (Nat.lor (leNat bit) (2 ^ ((sym * 16 + ant) % 8)))) s3 = (w, none) →
      exec (.frameReceive p (f ++ fcs f)) s = .next w)) ∧
  (∀ s : State, s.fhs.learn = [] → exec .macLearn s = .next s) ∧
  (∀ (r : LearnReq) (rs : List LearnReq) (s : State), s.fhs.learn = r :: rs →
    (macFind s r.vid r.mac = none →
      (∀ i, freeWay s r.vid r.mac = some i → ∃ t, exec .macLearn s = .next t ∧ t.regs = s.regs ∧
        learnt i (some { vid := r.vid, mac := r.mac, static := false, port := r.port, func := 0, hit := true, change := s.bel.dnc }) rs s t) ∧
      (freeWay s r.vid r.mac = none → ∃ t, exec .macLearn s = .next t ∧ t.fhs = { s.fhs with learn := rs } ∧ RegsBut [R.FHS_CNT_LEARN_FULL] s t ∧
        t.reg R.FHS_CNT_LEARN_FULL = s.reg R.FHS_CNT_LEARN_FULL + 1)) ∧
    (∀ i e, macFind s r.vid r.mac = some (i, e) →
      (e.port = r.port → ∃ t, exec .macLearn s = .next t ∧ t.regs = s.regs ∧ learnt i (some { e with hit := true }) rs s t) ∧
      (e.port ≠ r.port → e.static = true → ∃ t, exec .macLearn s = .next t ∧ t = { s with fhs := { s.fhs with learn := rs } }) ∧
      (e.port ≠ r.port → e.static = false → s.bel.dnc - e.change < 1000000 * s.fld R.FHS_DAMP F.FHS_DAMP_MS → ∃ t, exec .macLearn s = .next t ∧
        learnt i (some { e with flap := true }) rs s t ∧ EventRegsBut [R.FHS_CNT_FLAP] s t ∧ t.reg R.FHS_CNT_FLAP = s.reg R.FHS_CNT_FLAP + 1 ∧
        (e.flap = true → t.host = s.host)) ∧
      (e.port ≠ r.port → e.static = false → 1000000 * s.fld R.FHS_DAMP F.FHS_DAMP_MS ≤ s.bel.dnc - e.change → ∃ t, exec .macLearn s = .next t ∧
        learnt i (some { e with port := r.port, hit := true, change := s.bel.dnc, flap := false }) rs s t ∧ EventRegsBut [R.FHS_CNT_MOVE] s t ∧
        t.reg R.FHS_CNT_MOVE = s.reg R.FHS_CNT_MOVE + 1))) ∧
  (∀ s : State, (s.fhs.mac.map (·.1)).Pairwise (· < ·) →
    (s.fld R.FHS_AGE F.FHS_AGE_S = 0 → exec .macAgeing s = .next s) ∧
    (s.fld R.FHS_AGE F.FHS_AGE_S ≠ 0 → ∃ t, exec .macAgeing s = .next t ∧ t = { s with fhs := { s.fhs with mac := t.fhs.mac } } ∧
      ∀ i, macEnt t i = (macEnt s i).bind fun e => if e.static then some e else if e.hit then some { e with hit := false } else none)) ∧
  (∀ (a : Agent) (v : Word) (s : State),
    (macGo a 0 v s → ∃ t, exec (.macRead a v) s = .next t ∧ t = { s with regs := t.regs } ∧
      RegsBut [R.FHS_MAC_CMD, R.FHS_MAC_D0, R.FHS_MAC_D1, R.FHS_MAC_D2] s t ∧ t.flag R.FHS_MAC_CMD F.FHS_MAC_CMD_GO = false ∧
      (macEnt s (F.FHS_MAC_CMD_INDEX.get v) = none → t.fld R.FHS_MAC_D2 F.FHS_MAC_D2_VALID = 0) ∧
      (∀ e, macEnt s (F.FHS_MAC_CMD_INDEX.get v) = some e → e.mac < 2 ^ 48 → e.vid < 4096 → e.port < 16 → e.func < 32 →
        (t.reg R.FHS_MAC_D0).toNat + 2 ^ 32 * (t.reg R.FHS_MAC_D1).toNat = e.mac ∧ t.fld R.FHS_MAC_D2 F.FHS_MAC_D2_VALID = 1 ∧
        t.fld R.FHS_MAC_D2 F.FHS_MAC_D2_VID = e.vid ∧ t.fld R.FHS_MAC_D2 F.FHS_MAC_D2_PORT = e.port ∧ t.fld R.FHS_MAC_D2 F.FHS_MAC_D2_FUNC = e.func ∧
        t.flag R.FHS_MAC_D2 F.FHS_MAC_D2_STATIC = e.static ∧ t.flag R.FHS_MAC_D2 F.FHS_MAC_D2_HIT = e.hit)) ∧
    (macGo a 1 v s → ∃ t, exec (.macWrite a v) s = .next t ∧ RegsBut [R.FHS_MAC_CMD] s t ∧ t.flag R.FHS_MAC_CMD F.FHS_MAC_CMD_GO = false ∧
      learnt (F.FHS_MAC_CMD_INDEX.get v) (if s.flag R.FHS_MAC_D2 F.FHS_MAC_D2_VALID then some { vid := s.fld R.FHS_MAC_D2 F.FHS_MAC_D2_VID, mac := (s.reg R.FHS_MAC_D0).toNat + 2 ^ 32 * s.fld R.FHS_MAC_D1 F.FHS_MAC_D1_MAC, static := s.flag R.FHS_MAC_D2 F.FHS_MAC_D2_STATIC, port := s.fld R.FHS_MAC_D2 F.FHS_MAC_D2_PORT, func := s.fld R.FHS_MAC_D2 F.FHS_MAC_D2_FUNC, hit := false, change := s.bel.dnc } else none) [] s t) ∧
    (macGo a 2 v s → ∃ t, exec (.macInvalidate a v) s = .next t ∧ RegsBut [R.FHS_MAC_CMD] s t ∧ t.flag R.FHS_MAC_CMD F.FHS_MAC_CMD_GO = false ∧
      learnt (F.FHS_MAC_CMD_INDEX.get v) none [] s t) ∧
    (macGo a 3 v s → (s.fhs.mac.map (·.1)).Pairwise (· < ·) → ∃ t, exec (.flushPort a v) s = .next t ∧ RegsBut [R.FHS_MAC_CMD] s t ∧
      t.flag R.FHS_MAC_CMD F.FHS_MAC_CMD_GO = false ∧
      ∀ i, macEnt t i = (macEnt s i).bind fun e => if e.static = false ∧ e.port = F.FHS_MAC_CMD_PORT.get v then none else some e) ∧
    (reaches a R.FHS_MAC_CMD s = true → F.FHS_MAC_CMD_GO.get v = 1 → ∃ t, exec (.macRead a v) s = .next t ∧ t.fhs.learn = []))

/-- R374: the FRAME_TX is refused. -/
def txRefused (it : RItem) (s : State) : Prop :=
  bitOf (s.fld R.FHS_HOST_FN F.FHS_HOST_FN_FN) (if it.func = 16 then 0 else it.func + 1) = false ∨ ftLen it.desc < 60 ∨ 9216 < ftLen it.desc ∨
  (ftSwitched it.desc = true ∧ (ftTs it.desc = true ∨ ftOneStep it.desc = true)) ∨ (ftSwitched it.desc = false ∧ fhEnabled s (ftPort it.desc) = false)

/-- The frame of a FRAME_TX whose bytes read as `bs`. -/
def txFrame (it : RItem) (bs : List Byte) : FhFrame :=
  { bytes := bs, item := some it.id, ts := if ftTs it.desc then some (ftTsId it.desc) else none, oneStep := ftOneStep it.desc }

/-- The queue may send (R380). -/
def canSend (x : FhQueue) : Prop := x.frames ≠ [] ∧ (x.shaped = false ∨ 0 < x.tokens)

/-- Its tag as a signed difference from V (R381). -/
def tagAhead (s : State) (p q : Nat) : Int := signed 48 ((s.fq p q).tag.getD 0 + 2 ^ 48 - (s.fp p).v)

/-- Queue `q` of port `p` is the one that sends next. -/
def nextQueue (p q : Nat) (s : State) : Prop := q < 8 ∧ canSend (s.fq p q) ∧
  (q < 7 → ¬ canSend (s.fq p 7)) ∧ (q < 6 → ¬ canSend (s.fq p 6) ∧
    ∀ r, r < 6 → r ≠ q → canSend (s.fq p r) → tagAhead s p q < tagAhead s p r ∨ (tagAhead s p q = tagAhead s p r ∧ q < r))

/-- A frame of `n` bytes' length in its queue's weighted time (R381). -/
def weighted (s : State) (p q n : Nat) : Nat := n * 65536 / max 1 (s.fld (R.FHS_P_Q_WEIGHT p q) F.FHS_P_Q_WEIGHT_W)

/-- R350, R353, R372 to R383. -/
def Obligations.FramesGoOut : Prop :=
  (∀ (f : Fin 17) (q : Fin 8) (it : RItem) (s : State), upNext f q it s → dOpcode it.desc = 4 →
    (txRefused it s → ∃ t, exec (.frameTx f q) s = .next t ∧ ringEnds it stRejected 0 s t) ∧
    (∀ s1 e, ¬ txRefused it s → vaRead it.func (ftAddr it.desc) (ftLen it.desc) (takenUp it s) = (s1, .error e) →
      ∃ t, exec (.frameTx f q) s = .next t ∧ ringEnds it e.status (if e.status = stTrans then unitDetail kMmu 0 e.reason else unitDetail 0 0 e.reason) s t) ∧
    (∀ s1 bs, ¬ txRefused it s → ftSwitched it.desc = false → vaRead it.func (ftAddr it.desc) (ftLen it.desc) (takenUp it s) = (s1, .ok bs) →
      (fhLink s (ftPort it.desc) = true → admits s (ftPort it.desc) (ftQueue it.desc) (txFrame it bs) = true → ∃ t, exec (.frameTx f q) s = .next t ∧
        t = { s1 with regs := t.regs, fhs := { s1.fhs with queues := t.fhs.queues } } ∧
        (t.fq (ftPort it.desc) (ftQueue it.desc)).frames = (s.fq (ftPort it.desc) (ftQueue it.desc)).frames ++ [txFrame it bs] ∧
        ∀ p' q', p' < 8 → q' < 8 → (p', q') ≠ (ftPort it.desc, ftQueue it.desc) → t.fq p' q' = s.fq p' q') ∧
      (fhLink s (ftPort it.desc) = true → admits s (ftPort it.desc) (ftQueue it.desc) (txFrame it bs) = false → ∃ t, exec (.frameTx f q) s = .next t ∧
        ringEnds it stFlushed 0 s t ∧ (twinRunning s = false → (t.reg (R.FHS_P_Q_DROP (ftPort it.desc) (ftQueue it.desc))).toNat =
          min (2 ^ 32 - 1) ((s.reg (R.FHS_P_Q_DROP (ftPort it.desc) (ftQueue it.desc))).toNat + 1))) ∧
      (fhLink s (ftPort it.desc) = false → ∃ t, exec (.frameTx f q) s = .next t ∧ ringEnds it stLink (unitDetail kFh (ftPort it.desc) 0) s t ∧
        (twinRunning s = false → t.reg (R.FHS_P_LINK_DROP (ftPort it.desc)) = s.reg (R.FHS_P_LINK_DROP (ftPort it.desc)) + 1))) ∧
    (∀ s1 bs, ¬ txRefused it s → ftSwitched it.desc = true → s.flag R.FHS_CTL F.FHS_CTL_EN = false →
      vaRead it.func (ftAddr it.desc) (ftLen it.desc) (takenUp it s) = (s1, .ok bs) → ∃ t, exec (.frameTx f q) s = .next t ∧ ringEnds it stDone 0 s t)) ∧
  (∀ (f : Fin 17) (q : Fin 8) (it : RItem) (s : State), upNext f q it s → dOpcode it.desc = 5 →
    (bitOf (s.fld R.FHS_HOST_FN F.FHS_HOST_FN_FN) (if it.func = 16 then 0 else it.func + 1) = false ∨ badDesc it.desc →
      ∃ t, exec (.rxPost f q) s = .next t ∧ ringEnds it stRejected 0 s t) ∧
    (bitOf (s.fld R.FHS_HOST_FN F.FHS_HOST_FN_FN) (if it.func = 16 then 0 else it.func + 1) = true → ¬ badDesc it.desc →
      exec (.rxPost f q) s = .next (takenUp it s))) ∧
  (∀ (f : Fin 17) (q : Fin 8) (s : State), frontItem s f q = none → exec (.frameTx f q) s = .next s ∧ exec (.rxPost f q) s = .next s) ∧
  (∀ (p : Fin 8) (s : State), s.flag R.FHS_CTL F.FHS_CTL_EN = false ∨ fhLink s p = false ∨ (s.fp p).tx ≠ none ∨
    (∀ q, q < 8 → ¬ canSend (s.fq p q)) → exec (.egressSelect p) s = .next s) ∧
  (∀ (p : Fin 8) (q : Nat) (f : FhFrame) (fs : List FhFrame) (s : State), s.flag R.FHS_CTL F.FHS_CTL_EN = true → fhLink s p = true → (s.fp p).tx = none →
    nextQueue p q s → (s.fq p q).frames = f :: fs →
    ∃ t, exec (.egressSelect p) s = .next t ∧ t = { s with regs := t.regs, fhs := { s.fhs with ports := t.fhs.ports, queues := t.fhs.queues }, host := t.host } ∧
      t.fp p = { s.fp p with tx := some ⟨f, s.bel.tod.add (signed 16 (s.fld (R.BEL_TSR_CORR p) F.BEL_TSR_CORR_EGRESS))⟩,
                             v := if q < 6 then (s.fq p q).tag.getD (s.fp p).v else (s.fp p).v } ∧
      (t.fq p q).frames = fs ∧ (t.fq p q).shaped = (s.fq p q).shaped ∧
      (t.fq p q).tokens = (if (s.fq p q).shaped then (s.fq p q).tokens - 256 * (f.bytes.length + 4) else (s.fq p q).tokens) ∧
      (q < 6 → ∀ g gs, fs = g :: gs → canSend (t.fq p q) → (t.fq p q).tag = some (((t.fp p).v + weighted s p q (g.bytes.length + 4)) % 2 ^ 48)) ∧
      (∀ p' q', p' < 8 → q' < 8 → (p', q') ≠ (p.val, q) → t.fq p' q' = s.fq p' q') ∧
      (∀ id it, f.item = some id → itemOf s id = some it → itemOf t id = some { it with started := true }) ∧ (f.item = none → t.host = s.host)) ∧
  (∀ (p : Fin 8) (x : FhTx) (s : State), (s.fp p).tx = some x → twinRunning s = false → x.frame.ts = none →
    ∃ t bs, exec (.frameTxEnd p) s = .next t ∧ bs = (if x.frame.oneStep then oneStep x.frame.bytes x.time (s.fp p).pdelay else x.frame.bytes) ∧
      t.out = s.out ++ [.fhFrame p (bs ++ fcs bs)] ∧ t.fp p = { s.fp p with tx := none } ∧ t.reg (R.FHS_P_TX_FRAMES p) = s.reg (R.FHS_P_TX_FRAMES p) + 1 ∧
      t.pair (R.FHS_P_TX_BYTES_LO p) (R.FHS_P_TX_BYTES_HI p) = (s.pair (R.FHS_P_TX_BYTES_LO p) (R.FHS_P_TX_BYTES_HI p) + bs.length + 4) % 2 ^ 64 ∧
      t.fhs.queues = s.fhs.queues ∧ (∀ id it, x.frame.item = some id → itemOf s id = some it → ringEnds it stDone 0 s t) ∧ (x.frame.item = none → t.host = s.host)) ∧
  (∀ (p : Fin 8) (s : State), (s.fp p).tx = none → exec (.frameTxEnd p) s = .next s) ∧
  (∀ s : State, ∃ t, exec .shaperRefill s = .next t ∧ t = { s with regs := t.regs, fhs := { s.fhs with queues := t.fhs.queues } } ∧
    ∀ p q, p < 8 → q < 8 → (t.fq p q).frames = (s.fq p q).frames ∧ (t.fq p q).shaped = s.flag (R.FHS_P_Q_SHAPE p q) F.FHS_P_Q_SHAPE_EN ∧
      (s.flag (R.FHS_P_Q_SHAPE p q) F.FHS_P_Q_SHAPE_EN = false → (t.fq p q).tokens = (s.fq p q).tokens) ∧
      (s.flag (R.FHS_P_Q_SHAPE p q) F.FHS_P_Q_SHAPE_EN = true → (t.fq p q).tokens = (if (s.fq p q).shaped then
        min (256 * (s.fld (R.FHS_P_Q_BURST p q) F.FHS_P_Q_BURST_BURST : Int)) ((s.fq p q).tokens + (s.reg (R.FHS_P_Q_RATE p q)).toNat)
        else 256 * (s.fld (R.FHS_P_Q_BURST p q) F.FHS_P_Q_BURST_BURST : Int)))) ∧
  (∀ (bs : List Byte) (s : State), s.flag R.FHS_CTL F.FHS_CTL_EN = false ∨ twinSecondary s = true → exec (.cloisterPortFrame bs) s = .next s) ∧
  (∀ (bs : List Byte) (i p q : Nat) (out : List Byte) (s : State), s.flag R.FHS_CTL F.FHS_CTL_EN = true → twinSecondary s = false → frType bs = 0xAEFE →
    ecHandled (frBody bs) = true → flowFind s [if ecType (frBody bs) = 0 then 2 else 3] (ecPcId (frBody bs)) 0 = some i →
    p = s.fld (R.FHS_FLOW_ATTR i) F.FHS_FLOW_ATTR_PORT → q = s.fld (R.FHS_FLOW_ATTR i) F.FHS_FLOW_ATTR_QUEUE →
    out = (if ecType (frBody bs) = 0 ∧ s.fld (R.FHS_FLOW_ATTR i) F.FHS_FLOW_ATTR_COMP ≠ 0 then
      compressFrame (compOf (s.fld (R.FHS_FLOW_ATTR i) F.FHS_FLOW_ATTR_COMP)) (s.flag (R.FHS_FLOW_ATTR i) F.FHS_FLOW_ATTR_HDR) bs else bs) →
    60 ≤ out.length → fhThere s p = true →
    (fhLink s p = true → admits s p q { bytes := out } = true → ∃ t, exec (.cloisterPortFrame bs) s = .next t ∧
      t = { s with regs := t.regs, fhs := { s.fhs with queues := t.fhs.queues } } ∧ (t.fq p q).frames = (s.fq p q).frames ++ [{ bytes := out }]) ∧
    (fhLink s p = false → exec (.cloisterPortFrame bs) s = .next (s.setReg (R.FHS_P_LINK_DROP p) (s.reg (R.FHS_P_LINK_DROP p) + 1)))) ∧
  (∀ (bs : List Byte) (s : State), s.flag R.FHS_CTL F.FHS_CTL_EN = true → twinSecondary s = false → frType bs ≠ 0xAEFE → frTagged bs = true →
    frTci bs % 4096 ≠ 0 → vlanMember s (frTci bs % 4096) 8 = false → exec (.cloisterPortFrame bs) s = .next s) ∧
  (∀ (p : Fin 8) (s : State), fhLink s p = false → exec (.fhLinkLost p) s = .next s) ∧
  (∀ (p : Fin 8) (s : State), fhLink s p = true → twinRunning s = false → (s.fhs.mac.map (·.1)).Pairwise (· < ·) →
    (∀ q f, q < 8 → f ∈ (s.fq p q).frames → f.ts = none) → (∀ x, (s.fp p).tx = some x → x.frame.ts = none) →
    ∃ t, exec (.fhLinkLost p) s = .next t ∧ t.flag (R.FHS_P_STAT p) F.FHS_P_STAT_LINK = false ∧ t.flag (R.FHS_P_STAT p) F.FHS_P_STAT_BLOCK_LOCK = false ∧
      t.flag (R.FHS_P_STAT p) F.FHS_P_STAT_FEC_ALIGN = false ∧ t.flag (R.FHS_P_STAT p) F.FHS_P_STAT_LINK_DOWN_SEEN = true ∧
      (∀ q, q < 8 → (t.fq p q).frames = []) ∧ (t.fp p).tx = none ∧ (∀ p' q', p' < 8 → q' < 8 → p' ≠ p.val → t.fq p' q' = s.fq p' q') ∧
      (t.reg (R.FHS_P_LINK_DROP p)).toNat = ((s.reg (R.FHS_P_LINK_DROP p)).toNat + ((List.range 8).map fun q => (s.fq p q).frames.length).sum +
        if (s.fp p).tx.isSome then 1 else 0) % 2 ^ 32 ∧
      (∀ i, macEnt t i = (macEnt s i).bind fun e => if e.static = false ∧ e.port = p.val then none else some e) ∧
      (∀ q f id it, q < 8 → f ∈ (s.fq p q).frames → f.item = some id → itemOf s id = some it → itemOf t id = none) ∧
      (s.rfi.mode = 2 → ∀ c i y it, c < 16 → i < 256 → s.flag (R.FHS_FLOW i) F.FHS_FLOW_VALID = true → s.fld (R.FHS_FLOW i) F.FHS_FLOW_KIND = 0 →
        s.fld (R.FHS_FLOW i) F.FHS_FLOW_CELL = c → s.fld (R.FHS_FLOW_ATTR i) F.FHS_FLOW_ATTR_PORT = p.val → y ∈ (t.cell c).slots → it ∈ y.items →
        fwLive it = true → it.lost ≠ none) ∧
      (s.rfi.mode ≠ 2 → t.fwl = s.fwl)) ∧
  (∀ (p : Fin 8) (s : State), (s.flag R.FHS_CTL F.FHS_CTL_EN = true ∧ fhEnabled s p = true ∧ (s.unit kFh p).eff = 0 →
      ∃ t, exec (.fhLinkUp p) s = .next t ∧ t = { s with regs := t.regs } ∧ RegsBut [R.FHS_P_STAT p] s t ∧ fhLink t p = true ∧
        t.flag (R.FHS_P_STAT p) F.FHS_P_STAT_BLOCK_LOCK = true ∧ t.flag (R.FHS_P_STAT p) F.FHS_P_STAT_LINK_DOWN_SEEN = s.flag (R.FHS_P_STAT p) F.FHS_P_STAT_LINK_DOWN_SEEN) ∧
    (s.flag R.FHS_CTL F.FHS_CTL_EN = false ∨ fhEnabled s p = false ∨ (s.unit kFh p).eff ≠ 0 → exec (.fhLinkUp p) s = .next s)) ∧
  (∀ (a : Agent) (n : Fin 2) (v : Word) (s : State), reaches a (R.FHS_QUAD_CFG n) s = true →
    ((∃ k, k < 4 ∧ s.flag (R.FHS_P_CTL (4 * n + k)) F.FHS_P_CTL_EN = true) → exec (.quadConfigWrite a n v) s = .next (s.setFlag R.FHS_ERR F.FHS_ERR_CFG_ERR true)) ∧
    ((∀ k, k < 4 → s.flag (R.FHS_P_CTL (4 * n + k)) F.FHS_P_CTL_EN = false) → ∃ t, exec (.quadConfigWrite a n v) s = .next t ∧ t = { s with regs := t.regs } ∧
      RegsBut [R.FHS_QUAD_CFG n] s t ∧ t.fld (R.FHS_QUAD_CFG n) F.FHS_QUAD_CFG_MODE = F.FHS_QUAD_CFG_MODE.get v)) ∧
  (∀ (a : Agent) (p : Fin 8) (q : Fin 8) (v : Word) (s : State), reaches a (R.FHS_P_Q_BUF p q) s = true → expertOn s 8 = true →
    (12288 < resvSum s - s.fld (R.FHS_P_Q_BUF p q) F.FHS_P_Q_BUF_RESV + F.FHS_P_Q_BUF_RESV.get v →
      exec (.queueBufWrite a p q v) s = .next (s.setFlag R.FHS_ERR F.FHS_ERR_BUF_CFG true)) ∧
    (resvSum s - s.fld (R.FHS_P_Q_BUF p q) F.FHS_P_Q_BUF_RESV + F.FHS_P_Q_BUF_RESV.get v ≤ 12288 → ∃ t, exec (.queueBufWrite a p q v) s = .next t ∧
      t = { s with regs := t.regs } ∧ RegsBut [R.FHS_P_Q_BUF p q] s t ∧ t.fld (R.FHS_P_Q_BUF p q) F.FHS_P_Q_BUF_RESV = F.FHS_P_Q_BUF_RESV.get v ∧
      t.fld (R.FHS_P_Q_BUF p q) F.FHS_P_Q_BUF_LIMIT = F.FHS_P_Q_BUF_LIMIT.get v))

/-- Only port `p` of the fabric, and registers, have changed. -/
def onePort (p : Nat) (s t : State) : Prop :=
  t = { s with regs := t.regs, spk := { s.spk with ports := t.spk.ports } } ∧ ∀ q, q ≠ p → t.port q = s.port q

/-- The same, and an event may have been raised. -/
def onePortEvent (p : Nat) (s t : State) : Prop :=
  t = { s with regs := t.regs, host := t.host, hostMem := t.hostMem, out := t.out, spk := { s.spk with ports := t.spk.ports } } ∧
  EventRegsBut [R.SPK_P_STAT p] s t ∧ ∀ q, q ≠ p → t.port q = s.port q

/-- No collective and no COLL step is in progress. -/
def quietFabric (s : State) : Prop := s.spk.runs = [] ∧ s.spk.early = [] ∧ ∀ c, c < 192 → (s.chan c).phase ≠ .coll

/-- Discovery has started again, unless it is OFF (R410). -/
def restarted (s t : State) : Prop :=
  discState t = (if discState s = dOff then dOff else dHello) ∧
  t.reg R.SPK_GEN = (if discState s = dOff then s.reg R.SPK_GEN else s.reg R.SPK_GEN + 1)

/-- The port takes a new frame. -/
def takesNew (p : Nat) (s : State) : Prop := linkOpen s p = true ∧ (s.port p).resend = [] ∧ (s.port p).unacked.length < 4

/-- R390, R392 to R398, R410, R413. -/
def Obligations.SpokeLinks : Prop :=
  (∀ (a : Agent) (v : Word) (s : State), reaches a R.SPK_CTL s = true →
    (F.SPK_CTL_EN.get v = 1 → s.spk.off = false → ∃ t, exec (.spkEnable a v) s = .next t ∧ t = { s with regs := t.regs } ∧
      RegsBut [R.SPK_CTL, R.SPK_STAT] s t ∧ t.flag R.SPK_CTL F.SPK_CTL_EN = true ∧
      discState t = (if discState s = dOff then dHello else discState s) ∧ (discState s ≠ dOff → t.reg R.SPK_STAT = s.reg R.SPK_STAT)) ∧
    (F.SPK_CTL_EN.get v = 0 ∨ s.spk.off = true → discState s = dOff → ∃ t, exec (.spkEnable a v) s = .next t ∧ t = { s with regs := t.regs } ∧
      RegsBut [R.SPK_CTL] s t ∧ t.fld R.SPK_CTL F.SPK_CTL_EN = F.SPK_CTL_EN.get v) ∧
    (F.SPK_CTL_EN.get v = 0 → discState s ≠ dOff → twinRunning s = false → quietFabric s → ∃ t, exec (.spkEnable a v) s = .next t ∧
      t = { s with regs := t.regs, spk := { s.spk with ports := t.spk.ports, gen := t.spk.gen } } ∧ t.flag R.SPK_CTL F.SPK_CTL_EN = false ∧
      discState t = dOff ∧ ∀ p, p < 17 → linkState t p = lDown ∧ t.port p = {})) ∧
  (∀ (a : Agent) (p : Fin 17) (v : Word) (s : State), reaches a (R.SPK_P_CTL p) s = true → expertOn s 9 = true →
    (portOn s p = true → F.SPK_P_CTL_EN.get v = 0 → linkState s p ≠ lFailed → linkState s p ≠ lActive →
      ∃ t, exec (.spkPortCtlWrite a p v) s = .next t ∧ onePort p s t ∧ RegsBut [R.SPK_P_CTL p, R.SPK_P_STAT p] s t ∧
        t.flag (R.SPK_P_CTL p) F.SPK_P_CTL_EN = false ∧ linkState t p = lDown ∧ t.port p = {}) ∧
    (portOn s p = true → F.SPK_P_CTL_EN.get v = 0 → linkState s p = lActive → twinRunning s = false → quietFabric s →
      ∃ t, exec (.spkPortCtlWrite a p v) s = .next t ∧ linkState t p = lDown ∧ t.port p = {} ∧ t.hbm = s.hbm ∧ t.host = s.host ∧
        (p.val < 15 → restarted s t) ∧ (15 ≤ p.val → discState t = discState s ∧ t.reg R.SPK_GEN = s.reg R.SPK_GEN)) ∧
    (portOn s p = false → F.SPK_P_CTL_EN.get v = 1 → (s.unit kSpoke p).eff = 0 → linkState s p = lFailed →
      ∃ t, exec (.spkPortCtlWrite a p v) s = .next t ∧ onePort p s t ∧ RegsBut [R.SPK_P_CTL p, R.SPK_P_STAT p] s t ∧
        t.flag (R.SPK_P_CTL p) F.SPK_P_CTL_EN = true ∧ linkState t p = lDown ∧ t.port p = {}) ∧
    ((portOn s p = true ∧ (F.SPK_P_CTL_EN.get v = 1 ∨ linkState s p = lFailed)) ∨ (portOn s p = false ∧ linkState s p ≠ lFailed) →
      ∃ t, exec (.spkPortCtlWrite a p v) s = .next t ∧ t = { s with regs := t.regs } ∧ RegsBut [R.SPK_P_CTL p] s t ∧
        t.fld (R.SPK_P_CTL p) F.SPK_P_CTL_EN = F.SPK_P_CTL_EN.get v)) ∧
  (∀ (p : Fin 17) (s : State), (spkOn s = true ∧ portOn s p = true ∧ linkState s p = lDown →
      ∃ t, exec (.spkSignalPresent p) s = .next t ∧ t = { s with regs := t.regs } ∧ RegsBut [R.SPK_P_STAT p] s t ∧ linkState t p = lTraining) ∧
    (spkOn s = false ∨ portOn s p = false ∨ linkState s p ≠ lDown → exec (.spkSignalPresent p) s = .next s)) ∧
  (∀ (p : Fin 17) (rtt : BitVec 16) (s : State), (linkState s p = lTraining → ∃ t, exec (.linkTrained p rtt) s = .next t ∧
      t = { s with regs := t.regs, spk := { s.spk with ports := t.spk.ports, upAt := s.bel.dnc } } ∧ (∀ q, q ≠ p.val → t.port q = s.port q) ∧
      RegsBut [R.SPK_P_STAT p, R.SPK_P_RTT p] s t ∧ linkState t p = lUp ∧ t.port p = {} ∧ (t.reg (R.SPK_P_RTT p)).toNat = rtt.toNat ∧
      t.flag (R.SPK_P_STAT p) F.SPK_P_STAT_SLOW = decide (327 < rtt.toNat)) ∧
    (linkState s p ≠ lTraining → exec (.linkTrained p rtt) s = .next s)) ∧
  (∀ (p : Fin 17) (c : Instr) (s : State), c = .spkLockLost p ∨ c = .helloTimeout p →
    (linkOpen s p = false → exec c s = .next s) ∧
    (linkOpen s p = true → linkState s p ≠ lActive → ∃ t, exec c s = .next t ∧ onePortEvent p s t ∧ linkState t p = lDown ∧ t.port p = {}) ∧
    (linkState s p = lActive → twinRunning s = false → quietFabric s → ∃ t, exec c s = .next t ∧ linkState t p = lDown ∧ t.port p = {} ∧
      t.hbm = s.hbm ∧ (p.val < 15 → restarted s t) ∧ (15 ≤ p.val → discState t = discState s ∧ t.reg R.SPK_GEN = s.reg R.SPK_GEN)) ∧
    (∀ r it, linkState s p = lActive → twinRunning s = false → s.spk.runs = [r] → runUses s p r = true → (∀ c, c < 192 → (s.chan c).phase ≠ .coll) →
      itemOf s r.item = some it → ∃ t, exec c s = .next t ∧ linkState t p = lDown ∧ t.spk.runs = [] ∧ ringEnds it stLink (unitDetail kSpoke p 1) s t)) ∧
  (∀ (p : Fin 17) (s : State), linkOpen s p = false → exec (.spkFrameSend p) s = .next s) ∧
  (∀ (p : Fin 17) (s : State), quietFabric s →
    (∀ fr rest, linkOpen s p = true → (s.port p).resend = fr :: rest → ∃ t, exec (.spkFrameSend p) s = .next t ∧ onePort p { s with out := t.out } t ∧
      t.regs = s.regs ∧ t.out = s.out ++ [.spkFrame p (frameBytes fr.seq (s.port p).rxAcc (s.port p).nak (creditReturn (s.port p)).1
        (creditReturn (s.port p)).2 fr.flits)] ∧
      t.port p = { s.port p with resend := rest, nak := false, owed := (t.port p).owed }) ∧
    (linkOpen s p = true → (s.port p).resend = [] → 4 ≤ (s.port p).unacked.length → exec (.spkFrameSend p) s = .next s) ∧
    (takesNew p s → ∃ t fr, exec (.spkFrameSend p) s = .next t ∧ onePort p { s with out := t.out } t ∧ RegsBut [R.SPK_P_TX_FLITS p] s t ∧
      fr.seq = (s.port p).txSeq ∧ fr.flits.length ≤ 16 ∧ (t.port p).unacked = (s.port p).unacked ++ [fr] ∧ (t.port p).txSeq = ((s.port p).txSeq + 1) % 4096 ∧
      (t.port p).nak = false ∧ (t.port p).rxAcc = (s.port p).rxAcc ∧
      t.reg (R.SPK_P_TX_FLITS p) = s.reg (R.SPK_P_TX_FLITS p) + BitVec.ofNat 32 fr.flits.length ∧
      t.out = s.out ++ [.spkFrame p (frameBytes fr.seq (s.port p).rxAcc (s.port p).nak (creditReturn (s.port p)).1
        (creditReturn (s.port p)).2 fr.flits)] ∧
      ((s.port p).queue = [] → (s.port p).cur1 = none → (s.port p).cur23 = none → fr.flits = []) ∧
      (∀ m f fs, takeClass (s.port p) 0 = some m → m.flits = f :: fs → 0 < (s.port p).credits.1 → fr.flits.head? = some f) ∧
      (takeClass (s.port p) 0 = none ∨ (s.port p).credits.1 = 0 → linkState s p ≠ lMiscabled →
        (∀ m f fs, (s.port p).cur1 = some m ∨ ((s.port p).cur1 = none ∧ takeClass (s.port p) 1 = some m) → m.flits = f :: fs →
          0 < (s.port p).credits.2.1 → fr.flits.head? = some f) ∧
        (∀ m f fs, ((s.port p).cur1 = none ∧ takeClass (s.port p) 1 = none) ∨ (s.port p).credits.2.1 = 0 → (s.port p).cur23 = some m → m.flits = f :: fs →
          0 < (s.port p).credits.2.2 → fr.flits.head? = some f)) ∧
      (takeClass (s.port p) 0 = none ∨ (s.port p).credits.1 = 0 → linkState s p = lMiscabled → fr.flits = []))) ∧
  (∀ (p : Fin 17) (ok : Bool) (bs : List Byte) (s : State), linkOpen s p = false → exec (.spkFrameReceive p ok bs) s = .next s) ∧
  (∀ (p : Fin 17) (ok : Bool) (bs : List Byte) (s : State), linkOpen s p = true → (s.port p).naks < 8 →
    ok = false ∨ frameCrcOk bs = false ∨ frSeq bs ≠ ((s.port p).rxAcc + 1) % 4096 →
    ∃ t, exec (.spkFrameReceive p ok bs) s = .next t ∧ onePort p s t ∧ RegsBut [R.SPK_P_FEC_UNCORR p] s t ∧ t.port p = { s.port p with nak := true } ∧
      (t.reg (R.SPK_P_FEC_UNCORR p)).toNat = min (2 ^ 32 - 1) ((s.reg (R.SPK_P_FEC_UNCORR p)).toNat + if ok then 0 else 1)) ∧
  (∀ (p : Fin 17) (bs : List Byte) (s : State), linkOpen s p = true → frameCrcOk bs = true → frSeq bs = ((s.port p).rxAcc + 1) % 4096 →
    (frNak bs = true → (s.port p).naks < 7) → ∃ t, exec (.spkFrameReceive p true bs) s = .next t ∧ onePort p s t ∧
      RegsBut [R.SPK_P_RX_FLITS p, R.SPK_P_RETRY p] s t ∧ (t.port p).rxAcc = frSeq bs ∧ (t.port p).nak = (s.port p).nak ∧
      (t.port p).queue = (s.port p).queue ∧ (t.port p).txSeq = (s.port p).txSeq ∧
      (t.port p).naks = (if frNak bs then (s.port p).naks + 1 else 0) ∧ (frNak bs = true → (t.port p).resend = (t.port p).unacked) ∧
      (∀ old fr new, (s.port p).unacked = old ++ fr :: new → old.length < 4 → fr.seq = frAck bs → fr.seq = (((s.port p).unacked.head?.map (·.seq)).getD 0 + old.length) % 4096 →
        (t.port p).unacked = new) ∧
      (t.port p).credits = (match frCreditClass bs with
        | 0 => (min 8 ((s.port p).credits.1 + frCredits bs), (s.port p).credits.2)
        | 1 => ((s.port p).credits.1, min 16 ((s.port p).credits.2.1 + frCredits bs), (s.port p).credits.2.2)
        | _ => ((s.port p).credits.1, (s.port p).credits.2.1, min 240 ((s.port p).credits.2.2 + frCredits bs))) ∧
      t.reg (R.SPK_P_RX_FLITS p) = s.reg (R.SPK_P_RX_FLITS p) + BitVec.ofNat 32 ((frKinds bs).filter (· != 0)).length ∧
      (t.reg (R.SPK_P_RETRY p)).toNat = min (2 ^ 32 - 1) ((s.reg (R.SPK_P_RETRY p)).toNat + if frNak bs then 1 else 0)) ∧
  (∀ (p : Fin 17) (bs : List Byte) (s : State), linkOpen s p = true → linkState s p ≠ lActive → frameCrcOk bs = true → frSeq bs = ((s.port p).rxAcc + 1) % 4096 →
    frNak bs = true → 7 ≤ (s.port p).naks → ∃ t, exec (.spkFrameReceive p true bs) s = .next t ∧ linkState t p = lFailed ∧
      (t.port p).queue = [] ∧ (t.port p).unacked = [] ∧ (t.port p).resend = [] ∧
      EventRegsBut [R.SPK_P_STAT p, R.SPK_P_RX_FLITS p, R.SPK_P_RETRY p] s t ∧ ∀ q, q ≠ p.val → t.port q = s.port q)

/-- The port's queue has gained one control flit of a code. -/
def controlOn (p code : Nat) (s t : State) : Prop :=
  ∃ f, f.kind = 3 ∧ f.cls = 0 ∧ f.bytes.length = 256 ∧ f.bytes.take 1 = [BitVec.ofNat 8 code] ∧
    t.port p = { s.port p with queue := (s.port p).queue ++ [⟨0, (0, 0), [f]⟩] }

/-- A control flit of a code has been queued on these ports and no other. -/
def controls (ports : List Nat) (code : Nat) (s t : State) : Prop :=
  (∀ p ∈ ports, controlOn p code s t) ∧ ∀ p, p ∉ ports → t.port p = s.port p

/-- Only the fabric's part and registers have changed; its collectives, steps and held messages stay. -/
def discOnly (l : List Nat) (s t : State) : Prop :=
  t = { s with regs := t.regs, spk := { t.spk with runs := s.spk.runs, steps := s.spk.steps, early := s.spk.early, upAt := s.spk.upAt,
                                                   alt := s.spk.alt, off := s.spk.off } } ∧ RegsBut l s t

/-- A HELLO that passes the checks of R403 by itself, with no other port of the kind that reaches the same partner. -/
def helloGood (p : Nat) (uid : DWord) (hub : Bool) (s : State) : Prop :=
  (p < 15 → hub = false) ∧ (15 ≤ p → hub = true) ∧ uid ≠ ownUid s

def noRival (p : Nat) (uid : DWord) (s : State) : Prop := ∀ q, q < 17 → q ≠ p → (q < 15 ↔ p < 15) → heard s uid q = false

/-- The devices of the view and the own one are all joined with each other, but for those left out. -/
def meshBut (out : List DWord) (s : State) : Prop :=
  ((ownRecord s :: s.spk.view).map (·.uid)).Nodup ∧
  ∀ a ∈ (ownRecord s :: s.spk.view).map (·.uid), ∀ b ∈ (ownRecord s :: s.spk.view).map (·.uid), a ∉ out → b ∉ out → a ≠ b →
    joined (ownRecord s :: s.spk.view) a b = true

/-- The wheel, in SEAT: the members in ascending order, the leader first. -/
def seated (members : List DWord) (s t : State) : Prop :=
  discState t = dSeat ∧ t.spk.wheel.Perm members ∧ t.spk.wheel.Pairwise (· ≤ ·) ∧
  (∀ u us, t.spk.wheel = u :: us → t.pair R.SPK_LEADER_LO R.SPK_LEADER_HI = u.toNat) ∧ controls (activeW s) 3 s t

/-- Discovery is done with a number (R408). -/
def doneAs (num nwheels : Nat) (glob : Bool) (s t : State) : Prop :=
  discState t = dDone ∧ t.fld R.SPK_STAT F.SPK_STAT_NODE = 16 * num + ownSeat s ∧ t.fld R.SPK_STAT F.SPK_STAT_WHEEL_SIZE = s.spk.wheel.length ∧
  t.flag R.SPK_STAT F.SPK_STAT_GLOBAL = glob ∧ t.fld R.SPK_STAT F.SPK_STAT_NWHEELS = nwheels ∧ t.spk.num = some num ∧
  (t.reg R.SPK_DISC_TIME).toNat = (s.bel.dnc - s.spk.upAt) / 1000 % 2 ^ 32 ∧
  (∀ p, p < 15 → isActive s p = true → t.fld (R.SPK_P_STAT p) F.SPK_P_STAT_PARTNER = s.spk.wheel.findIdx (· == puid s p)) ∧
  (∀ p, p < 17 → linkState t p = linkState s p) ∧ t.hbm = s.hbm ∧ t.spk.wheel = s.spk.wheel

/-- A wheel with seats and counts that the registers hold. -/
def wheelFits (s : State) : Prop := s.spk.wheel.length ≤ 16 ∧ ownSeat s < 16 ∧ s.spk.count ≤ 16

/-- R402 to R411. -/
def Obligations.Discovery : Prop :=
  (∀ s : State, ∃ t, exec .helloSend s = .next t ∧ discOnly [] s t ∧ controls ((List.range 17).filter (linkOpen s)) 1 s t) ∧
  (∀ s : State, discState s = dOff → exec .adjSend s = .next s) ∧
  (∀ s : State, discState s ≠ dOff → ∃ t, exec .adjSend s = .next t ∧ discOnly [] s t ∧ controls (activeW s) 2 s t) ∧
  (∀ s : State, (discState s = dHub ∨ discState s = dDone → ∃ t, exec .reportSend s = .next t ∧ discOnly [] s t ∧ controls (activeU s) 4 s t) ∧
    (discState s ≠ dHub → discState s ≠ dDone → exec .reportSend s = .next s)) ∧
  (∀ (p : Fin 17) (uid : DWord) (hub : Bool) (pp : Byte) (s : State),
    (linkOpen s p = false → exec (.helloReceive p uid hub pp) s = .next s) ∧
    (linkState s p = lUp → helloGood p uid hub s → noRival p uid s → (s.port p).uid ≠ uid ∨ (s.port p).hellos = 0 →
      ∃ t, exec (.helloReceive p uid hub pp) s = .next t ∧ discOnly [R.SPK_P_STAT p, R.SPK_P_PUID_LO p, R.SPK_P_PUID_HI p] s t ∧ linkState t p = lUp ∧
        puid t p = uid ∧ t.flag (R.SPK_P_STAT p) F.SPK_P_STAT_PARTNER_HUB = hub ∧ t.port p = { s.port p with uid := uid, hellos := 1 } ∧
        (hub = true → t.fld (R.SPK_P_STAT p) F.SPK_P_STAT_PARTNER = pp.toNat)) ∧
    (linkState s p = lUp → helloGood p uid hub s → noRival p uid s → (s.port p).uid = uid → 0 < (s.port p).hellos → quietFabric s →
      ∃ t, exec (.helloReceive p uid hub pp) s = .next t ∧ linkState t p = lActive ∧ puid t p = uid ∧ t.hbm = s.hbm ∧ t.host = s.host ∧
        (p.val < 15 → restarted s t ∧ t.spk.gen = s.spk.gen + 1) ∧ (15 ≤ p.val → discState t = discState s ∧ t.reg R.SPK_GEN = s.reg R.SPK_GEN)) ∧
    (linkState s p = lActive → helloGood p uid hub s → noRival p uid s → (s.port p).uid = uid →
      ∃ t, exec (.helloReceive p uid hub pp) s = .next t ∧ discOnly [R.SPK_P_STAT p, R.SPK_P_PUID_LO p, R.SPK_P_PUID_HI p] s t ∧ linkState t p = lActive ∧
        t.port p = { s.port p with hellos := (s.port p).hellos + 1 }) ∧
    (linkState s p = lActive → helloGood p uid hub s → noRival p uid s → (s.port p).uid ≠ uid → quietFabric s → twinRunning s = false →
      ∃ t, exec (.helloReceive p uid hub pp) s = .next t ∧ linkState t p = lUp ∧ puid t p = uid ∧ (t.port p).hellos = 1 ∧ (t.port p).queue = [] ∧
        (p.val < 15 → restarted s t)) ∧
    (linkState s p = lUp → ¬ helloGood p uid hub s → ∃ t, exec (.helloReceive p uid hub pp) s = .next t ∧
      discOnly [R.SPK_P_STAT p, R.SPK_P_PUID_LO p, R.SPK_P_PUID_HI p, R.SPK_DISC_ERR] s t ∧ linkState t p = lMiscabled ∧
      t.flag R.SPK_DISC_ERR F.SPK_DISC_ERR_MISCABLED = true) ∧
    (∀ q, linkState s p = lUp → helloGood p uid hub s → q < 17 → (q < 15 ↔ p.val < 15) → q ≠ p → heard s uid q = true → linkState s q = lUp →
      (∀ r, r < 17 → r ≠ p → r ≠ q → heard s uid r = false) → (s.port p).uid ≠ uid → ∃ t, exec (.helloReceive p uid hub pp) s = .next t ∧
        t.flag R.SPK_DISC_ERR F.SPK_DISC_ERR_MISCABLED = true ∧ linkState t (max p.val q) = lMiscabled ∧ linkState t (min p.val q) = lUp) ∧
    (linkState s p = lMiscabled → ∃ t, exec (.helloReceive p uid hub pp) s = .next t ∧
      discOnly [R.SPK_P_STAT p, R.SPK_P_PUID_LO p, R.SPK_P_PUID_HI p] s t ∧ linkState t p = lMiscabled ∧ puid t p = uid)) ∧
  (∀ (p : Fin 17) (r : AdjRec) (s : State),
    (15 ≤ p.val ∨ linkState s p ≠ lActive ∨ r.uid = ownUid s ∨ discState s = dOff → exec (.adjReceive p r) s = .next s) ∧
    (p.val < 15 → linkState s p = lActive → r.uid ≠ ownUid s → discState s ≠ dOff →
      (s.spk.view.find? (·.uid == r.uid) = none → ∃ t, exec (.adjReceive p r) s = .next t ∧ discOnly [] s t ∧
        (∃ l, t.spk.view = r :: l ∧ ∀ x ∈ s.spk.view, x ∈ l) ∧ t.spk.wheel = s.spk.wheel ∧ controls ((activeW s).filter (· != p.val)) 2 s t) ∧
      (∀ old, s.spk.view.find? (·.uid == r.uid) = some old → r.gen ≤ old.gen → exec (.adjReceive p r) s = .next s) ∧
      (∀ old, s.spk.view.find? (·.uid == r.uid) = some old → old.gen < r.gen → quietFabric s → ∃ t, exec (.adjReceive p r) s = .next t ∧
        discOnly [R.SPK_STAT, R.SPK_GEN] s t ∧ restarted s t ∧ t.spk.view = [r] ∧ t.spk.wheel = [] ∧ t.spk.seats = [] ∧ t.spk.nums = [] ∧ t.spk.num = none ∧
        t.spk.gen = s.spk.gen ∧ controls ((activeW s).filter (· != p.val)) 2 s t))) ∧
  (∀ s : State, discState s ≠ dHello → discState s ≠ dWheel → exec .settleExpiry s = .next s) ∧
  (∀ s : State, discState s = dHello →
    (activeW s ≠ [] → ∃ t, exec .settleExpiry s = .next t ∧ discOnly [R.SPK_STAT] s t ∧ discState t = dWheel ∧ controls (activeW s) 2 s t) ∧
    (activeW s = [] → quietFabric s → activeU s ≠ [] → ∃ t, exec .settleExpiry s = .next t ∧ discOnly [R.SPK_STAT] s t ∧ discState t = dExcluded) ∧
    (activeW s = [] → quietFabric s → activeU s = [] → ∃ t, exec .settleExpiry s = .next t ∧ discOnly [R.SPK_STAT] s t ∧ discState t = dAlone ∧ ownNode t = 0)) ∧
  (∀ s : State, discState s = dWheel → s.spk.seats = [] →
    (meshBut [] s → s.spk.view ≠ [] → ∃ t, exec .settleExpiry s = .next t ∧ discOnly [R.SPK_STAT, R.SPK_LEADER_LO, R.SPK_LEADER_HI] s t ∧
      seated ((ownRecord s :: s.spk.view).map (·.uid)) s t) ∧
    (∀ r, meshBut [r.uid] s → r ∈ s.spk.view → 2 ≤ s.spk.view.length → (∃ x ∈ ownRecord s :: s.spk.view, x.uid ≠ r.uid ∧ r.uid ∈ x.neigh) →
      (∃ x ∈ ownRecord s :: s.spk.view, x.uid ≠ r.uid ∧ joined (ownRecord s :: s.spk.view) r.uid x.uid = false) →
      (∀ x ∈ ownRecord s :: s.spk.view, x.uid ≠ r.uid → joined (ownRecord s :: s.spk.view) r.uid x.uid = false → x.uid < r.uid ∨
        ∃ y ∈ ownRecord s :: s.spk.view, y.uid ≠ r.uid ∧ y.uid ≠ x.uid ∧ joined (ownRecord s :: s.spk.view) r.uid y.uid = false) →
      ∃ t, exec .settleExpiry s = .next t ∧ discOnly [R.SPK_STAT, R.SPK_LEADER_LO, R.SPK_LEADER_HI, R.SPK_DISC_ERR] s t ∧
        seated (((ownRecord s :: s.spk.view).map (·.uid)).filter (· != r.uid)) s t ∧ t.flag R.SPK_DISC_ERR F.SPK_DISC_ERR_PRUNED = true) ∧
    ((∀ x, x ≠ ownUid s → joined (ownRecord s :: s.spk.view) (ownUid s) x = false) → quietFabric s → ∃ t, exec .settleExpiry s = .next t ∧
      discOnly [R.SPK_STAT, R.SPK_DISC_ERR] s t ∧ discState t = dExcluded ∧ t.flag R.SPK_DISC_ERR F.SPK_DISC_ERR_PRUNED = true)) ∧
  (∀ (uid leader : DWord) (count seat : Byte) (s : State), (discState s = dOff → exec (.seatReceive uid leader count seat) s = .next s) ∧
    (discState s ≠ dOff → discState s ≠ dSeat → ∃ t, exec (.seatReceive uid leader count seat) s = .next t ∧ t = { s with spk := { s.spk with seats := t.spk.seats } } ∧
      t.spk.seats.head? = some (uid, leader, count.toNat, seat.toNat)) ∧
    (discState s = dSeat → uid ∈ s.spk.wheel → uid ≠ ownUid s →
      (leader ≠ leaderUid s ∨ count.toNat ≠ s.spk.wheel.length ∨ seat.toNat ≠ s.spk.wheel.findIdx (· == uid) →
        ∃ t, exec (.seatReceive uid leader count seat) s = .next t ∧ discOnly [R.SPK_STAT] s t ∧ discState t = dWheel ∧ t.spk.seats = [] ∧
          t.spk.view = s.spk.view ∧ t.spk.ports = s.spk.ports) ∧
      (leader = leaderUid s → count.toNat = s.spk.wheel.length → seat.toNat = s.spk.wheel.findIdx (· == uid) →
        (∀ x ∈ s.spk.seats, seatAgrees s x = true) → s.spk.num = none → s.spk.nums = [] → s.spk.wheel.Nodup →
        ((∃ u ∈ s.spk.wheel, u ≠ ownUid s ∧ u ≠ uid ∧ s.spk.seats.find? (·.1 == u) = none) → ∃ t, exec (.seatReceive uid leader count seat) s = .next t ∧
          t = { s with spk := { s.spk with seats := t.spk.seats } }) ∧
        ((∀ u ∈ s.spk.wheel, u ≠ ownUid s → u ≠ uid → (s.spk.seats.find? (·.1 == u)).isSome = true) → ∃ t, exec (.seatReceive uid leader count seat) s = .next t ∧
          discOnly [R.SPK_STAT] s t ∧ discState t = dHub ∧ (activeU s ≠ [] → controls (activeU s) 4 s t) ∧ (activeU s = [] → controls (activeW s) 6 s t))))) ∧
  (∀ (p : Fin 17) (leader : DWord) (w n : Byte) (s : State),
    (p.val < 15 ∨ linkState s p ≠ lActive ∨ leader ≠ leaderUid s → exec (.assignReceive p leader w n) s = .next s) ∧
    (15 ≤ p.val → linkState s p = lActive → leader = leaderUid s →
      (discState s ≠ dHub → discState s ≠ dDone → exec (.assignReceive p leader w n) s = .next { s with spk := { s.spk with count := n.toNat } }) ∧
      (discState s = dHub → (∃ u ∈ s.spk.wheel, u ≠ ownUid s ∧ s.spk.nums.find? (·.1 == u) = none) → ∃ t, exec (.assignReceive p leader w n) s = .next t ∧
        discOnly [] s t ∧ t.spk.num = some w.toNat ∧ t.spk.count = n.toNat ∧ controls (activeW s) 6 s t) ∧
      (discState s = dDone → s.spk.num = some w.toNat → ∃ t, exec (.assignReceive p leader w n) s = .next t ∧ discOnly [R.SPK_STAT] s t ∧
        t.spk.count = n.toNat ∧ t.spk.ports = s.spk.ports ∧ discState t = dDone ∧
        (s.flag R.SPK_STAT F.SPK_STAT_GLOBAL = true → n.toNat < 32 → t.fld R.SPK_STAT F.SPK_STAT_NWHEELS = n.toNat) ∧
        (s.flag R.SPK_STAT F.SPK_STAT_GLOBAL = false → t.reg R.SPK_STAT = s.reg R.SPK_STAT)) ∧
      (discState s = dDone → s.spk.num ≠ some w.toNat → quietFabric s → (∃ u ∈ s.spk.wheel, u ≠ ownUid s ∧ s.spk.nums.find? (·.1 == u) ≠ some (u, w.toNat)) →
        s.spk.wheel.Nodup → w ≠ 0xFF → ownUid s ∈ s.spk.wheel →
        ∃ t, exec (.assignReceive p leader w n) s = .next t ∧ discOnly [R.SPK_STAT, R.SPK_GEN] s t ∧ discState t = dHub ∧
          t.reg R.SPK_GEN = s.reg R.SPK_GEN + 1 ∧ t.spk.num = some w.toNat ∧ controls (activeW s) 6 s t))) ∧
  (∀ (uid : DWord) (w : Byte) (s : State), uid ∉ s.spk.wheel ∨ uid = ownUid s → exec (.wheelNumReceive uid w) s = .next s) ∧
  (∀ (uid : DWord) (w : Byte) (s : State), uid ∈ s.spk.wheel → uid ≠ ownUid s → discState s ≠ dHub → discState s ≠ dDone →
    exec (.wheelNumReceive uid w) s = .next { s with spk := { s.spk with nums := (uid, w.toNat) :: s.spk.nums.filter (·.1 != uid) } }) ∧
  (∀ (uid : DWord) (w : Byte) (s : State), uid ∈ s.spk.wheel → uid ≠ ownUid s → discState s = dHub → wheelFits s → quietFabric s →
    (∀ u ∈ s.spk.wheel, u ≠ ownUid s → u ≠ uid → s.spk.nums.find? (·.1 == u) = some (u, w.toNat)) →
    (s.spk.num = some w.toNat → w.toNat < 16 → ∃ t, exec (.wheelNumReceive uid w) s = .next t ∧ doneAs w.toNat s.spk.count true s t) ∧
    (s.spk.num = none → activeU s = [] → w = 0xFF → (∀ x ∈ s.spk.nums, x.2 = 0xFF) → ∃ t, exec (.wheelNumReceive uid w) s = .next t ∧ doneAs 0 1 false s t)) ∧
  (∀ s : State, discState s ≠ dHub → exec .hubTimeout s = .next s) ∧
  (∀ s : State, discState s = dHub → wheelFits s → quietFabric s → ∃ t, exec .hubTimeout s = .next t ∧ doneAs 0 1 false s t ∧
    (numConflict s = true → t.flag R.SPK_DISC_ERR F.SPK_DISC_ERR_HUB_CONFLICT = true) ∧
    (numConflict s = false → t.flag R.SPK_DISC_ERR F.SPK_DISC_ERR_HUB_TIMEOUT = true))

/-- The preimage of an audit digest, written out (Table DET-2). -/
def auditPre (mode : Nat) (p w i : List Byte) (seq snap : Nat) : List Byte :=
  [0x54, 0x52, 0x4B, 0x41, 0x01, BitVec.ofNat 8 mode, 0, 0] ++ fit 32 p ++ fit 32 w ++ fit 32 i ++ leBytes 4 seq ++ leBytes 4 snap

/-- The cached digest of a weight set is `w`. -/
def cached (space addr len : Nat) (w : List Byte) (s : State) : Prop :=
  ∃ e, s.cry.cache.find? (digestKey 1 space addr len) = some e ∧ e.digest = w

/-- The query's eight words show a digest. -/
def shows (w : List Byte) (t : State) : Prop := ∀ i, i < 8 → (t.reg (R.CRY_DIGQ_W i)).toNat = leNat ((w.drop (4 * i)).take 4)

/-- The completion `id` has its digest; no other has changed. -/
def digested (id : Nat) (d : List Byte) (s t : State) : Prop :=
  t.host = { s.host with formed := s.host.formed.map fun x => if x.id = id then { x with wait := false, digest := d } else x }

/-- R434 to R437, R439, R442. -/
def Obligations.Digests : Prop :=
  (∀ s : State, s.host.formed.find? (·.wait) = none → exec .digestFinal s = .next s) ∧
  (∀ (c : Cpl) (s : State), s.host.formed.find? (·.wait) = some c → c.slot = none →
    (c.digW.2.1 = 0 → ∃ t, exec .digestFinal s = .next t ∧ t = { s with host := t.host } ∧
      digested c.id (sha256 (auditPre c.digMode c.digP (List.replicate 32 0) c.digI c.digSeq c.digS)) s t) ∧
    (∀ w, c.digW.2.1 ≠ 0 → cached c.digW.1 c.digW.2.1 c.digW.2.2 w s → ∃ t, exec .digestFinal s = .next t ∧ t = { s with host := t.host, cry := t.cry } ∧
      digested c.id (sha256 (auditPre c.digMode c.digP w c.digI c.digSeq c.digS)) s t ∧
      cached c.digW.1 c.digW.2.1 c.digW.2.2 w t ∧ t.cry = { s.cry with cache := t.cry.cache }) ∧
    (∀ s1 bs, c.digW.2.1 ≠ 0 → s.cry.cache.find? (digestKey 1 c.digW.1 c.digW.2.1 c.digW.2.2) = none →
      vaRead c.digW.1 c.digW.2.1 c.digW.2.2 s = (s1, .ok bs) → ∃ t, exec .digestFinal s = .next t ∧ t = { s1 with host := t.host, cry := t.cry } ∧
      digested c.id (sha256 (auditPre c.digMode c.digP (sha256 bs) c.digI c.digSeq c.digS)) s1 t ∧ cached c.digW.1 c.digW.2.1 c.digW.2.2 (sha256 bs) t) ∧
    (∀ s1 e, c.digW.2.1 ≠ 0 → s.cry.cache.find? (digestKey 1 c.digW.1 c.digW.2.1 c.digW.2.2) = none →
      vaRead c.digW.1 c.digW.2.1 c.digW.2.2 s = (s1, .error e) → ∃ t, exec .digestFinal s = .next t ∧ t.cry = s1.cry ∧
      (c ∈ s1.host.formed → ∃ x ∈ t.host.formed, x.id = c.id ∧ x.wait = false ∧ x.digest = c.digest ∧
        x.status = if statusRank e.status < statusRank c.status then e.status else c.status))) ∧
  (∀ (c : Cpl) (s : State), s.host.formed.find? (·.wait) = some c → c.digMode = 1 → c.digW.2.1 = 0 → ∃ t, exec .digestFinal s = .next t ∧
    ∃ x ∈ t.host.formed, x.id = c.id ∧ x.wait = false ∧ x.status = c.status ∧
      x.digest = sha256 (auditPre 1 c.digP (List.replicate 32 0) c.digI c.digSeq c.digS)) ∧
  (∀ (a : Agent) (v : Word) (s : State), answers a R.CRY_INVAL s = false → exec (.cryInval a v) s = .next s) ∧
  (∀ (a : Agent) (v : Word) (s : State), reaches a R.CRY_INVAL s = true →
    (expertOn s 10 = false → ∃ t, exec (.cryInval a v) s = .next t ∧ t.cry = s.cry ∧ t.reg R.CRY_INVAL = s.reg R.CRY_INVAL ∧ t.hbm = s.hbm) ∧
    (expertOn s 10 = true → F.CRY_INVAL_GO.get v = 0 → ∃ t, exec (.cryInval a v) s = .next t ∧ t = { s with regs := t.regs } ∧ RegsBut [R.CRY_INVAL] s t ∧
      t.fld R.CRY_INVAL F.CRY_INVAL_ALL = F.CRY_INVAL_ALL.get v) ∧
    (expertOn s 10 = true → F.CRY_INVAL_GO.get v = 1 → ∃ t, exec (.cryInval a v) s = .next t ∧
      t = { s with regs := t.regs, cry := { s.cry with cache := t.cry.cache } } ∧ RegsBut [R.CRY_INVAL] s t ∧ t.flag R.CRY_INVAL F.CRY_INVAL_GO = false ∧
      (F.CRY_INVAL_ALL.get v = 1 → t.cry.cache = []) ∧
      (F.CRY_INVAL_ALL.get v = 0 → ∀ e, e ∈ t.cry.cache ↔ e ∈ s.cry.cache ∧
        (if e.kind = 1 then e.b else Config.imageAddr e.a e.b) ≠ s.pair R.CRY_INVAL_ADDR_LO R.CRY_INVAL_ADDR_HI))) ∧
  (∀ (a : Agent) (v : Word) (s : State), answers a R.CRY_DIGQ_LEN s = false → exec (.digestQuery a v) s = .next s) ∧
  (∀ (a : Agent) (v : Word) (s : State) (addr : Nat), reaches a R.CRY_DIGQ_LEN s = true → addr = s.pair R.CRY_DIGQ_ADDR_LO R.CRY_DIGQ_ADDR_HI →
    (addr = 0 → ∃ t, exec (.digestQuery a v) s = .next t ∧ t = { s with regs := t.regs } ∧ shows (List.replicate 32 0) t ∧ t.reg R.CRY_DIGQ_LEN = v) ∧
    (∀ w, addr ≠ 0 → cached 16 addr v.toNat w s → w.length = 32 → ∃ t, exec (.digestQuery a v) s = .next t ∧ t = { s with regs := t.regs, cry := t.cry } ∧
      RegsBut (R.CRY_DIGQ_LEN :: (List.range 8).map R.CRY_DIGQ_W) s t ∧ shows w t ∧ cached 16 addr v.toNat w t) ∧
    (∀ s1 bs, addr ≠ 0 → s.cry.cache.find? (digestKey 1 16 addr v.toNat) = none → vaRead 16 addr v.toNat (storeReg a R.CRY_DIGQ_LEN v s) = (s1, .ok bs) →
      ∃ t, exec (.digestQuery a v) s = .next t ∧ t = { s1 with regs := t.regs, cry := t.cry } ∧ shows (sha256 bs) t ∧ cached 16 addr v.toNat (sha256 bs) t) ∧
    (∀ s1 e, addr ≠ 0 → s.cry.cache.find? (digestKey 1 16 addr v.toNat) = none → vaRead 16 addr v.toNat (storeReg a R.CRY_DIGQ_LEN v s) = (s1, .error e) →
      ∃ t, exec (.digestQuery a v) s = .next t ∧ t.cry = s1.cry ∧ ∀ i, i < 8 → t.reg (R.CRY_DIGQ_W i) = s1.reg (R.CRY_DIGQ_W i))) ∧
  (∀ (a : Agent) (v : Word) (s : State), answers a R.CRY_RPL_CTL s = false → exec (.replayArm a v) s = .next s) ∧
  (∀ (a : Agent) (v : Word) (s : State), reaches a R.CRY_RPL_CTL s = true →
    (expertOn s 10 = true → ∃ t, exec (.replayArm a v) s = .next t ∧ t = { s with regs := t.regs } ∧ RegsBut [R.CRY_RPL_CTL] s t ∧
      t.fld R.CRY_RPL_CTL F.CRY_RPL_CTL_EN = F.CRY_RPL_CTL_EN.get v ∧ t.fld R.CRY_RPL_CTL F.CRY_RPL_CTL_CELL = F.CRY_RPL_CTL_CELL.get v) ∧
    (expertOn s 10 = false → ∃ t, exec (.replayArm a v) s = .next t ∧ t.reg R.CRY_RPL_CTL = s.reg R.CRY_RPL_CTL ∧ t.cry = s.cry ∧ t.hbm = s.hbm))

/-- The two commands of a write of CRY_TWIN_CTL. -/
def twinWrite (a : Agent) (v : Word) (c : Instr) : Prop := c = .twinEnable a v ∨ c = .twinDisable a v

/-- The twin state and its reason. -/
def twinShows (st reason : Nat) (t : State) : Prop := twinState t = st ∧ t.fld R.CRY_TWIN_STAT F.CRY_TWIN_STAT_REASON = reason

/-- The checks of Table DET-5 on a hello, by their reasons. -/
def helloPasses (s : State) (h : TwinHello) : Nat → Prop
  | 1 => twinStrap s = true ∧ h.strap = true
  | 2 => ∃ p, partnerPort s = some p ∧ s.cry.port = some p
  | 3 => rolePrimary s ≠ h.primary
  | 4 => h.glbId = s.reg R.GLB_ID ∧ h.tiles.toNat = s.fld R.GLB_CAPS F.GLB_CAPS_TILES
  | 5 => h.chf = s.reg R.CHM_FW_CHF ∧ h.crf = s.reg R.CHM_FW_CRF ∧ h.slf = s.reg R.CHM_FW_SLF
  | 6 => (h.normal = true ∧ startOf s = 0) ∨ (h.overridden = true ∧ overridden s = true)
  | _ => True

/-- The pair has halted for a reason, with the KEY and the first stage entry that differs (R449). -/
def haltedFor (key reason : Nat) (s t : State) : Prop :=
  twinShows 4 reason t ∧ t.pair R.CRY_TWIN_DIV_KEY_LO R.CRY_TWIN_DIV_KEY_HI = key % 2 ^ 64 ∧ t.cry.partner = [] ∧
  (∀ x ∈ t.host.formed, x.held = false) ∧ (∀ it ∈ s.host.items, it.started = false → itemOf t it.id = none)

/-- A completion that was held has TWIN_MISMATCH, unless its own status stands first (R11), and PARTIAL only with its own. -/
def mismatched (c : Cpl) (t : State) : Prop :=
  ∃ x ∈ t.host.formed, x.id = c.id ∧ x.status = (if statusRank stTwin < statusRank c.status then stTwin else c.status) ∧ x.append = false ∧ x.log = [] ∧
    (x.status ≠ c.status → bitOf x.flags 3 = false)

/-- Held completion `c` has been let go, and nothing else of the state but a counter has changed. -/
def letGo (id reg : Nat) (s t : State) : Prop :=
  t = { s with regs := t.regs, host := { s.host with formed := s.host.formed.map fun x => if x.id = id then { x with held := false } else x } } ∧
  RegsBut [reg] s t ∧ t.reg reg = s.reg reg + 1

/-- R445, R446, R448, R449. -/
def Obligations.Twins : Prop :=
  (∀ (a : Agent) (v : Word) (c : Instr) (s : State), twinWrite a v c → answers a R.CRY_TWIN_CTL s = false → exec c s = .next s) ∧
  (∀ (a : Agent) (v : Word) (c : Instr) (s : State), twinWrite a v c → reaches a R.CRY_TWIN_CTL s = true → F.CRY_TWIN_CTL_EN.get v = 1 →
    (F.CRY_TWIN_CTL_WAIT.get v = s.fld R.CRY_TWIN_CTL F.CRY_TWIN_CTL_WAIT ∨ expertOn s 10 = true) →
    (twinState s = 0 → twinStrap s = false → ∃ t, exec c s = .next t ∧ t = { s with regs := t.regs } ∧
      RegsBut [R.CRY_TWIN_CTL, R.CRY_TWIN_STAT] s t ∧ twinShows 0 1 t) ∧
    (twinState s = 0 → twinStrap s = true → s.spk.off = true ∨ (discState s = dDone ∧ partnerPort s = none) → ∃ t, exec c s = .next t ∧
      t = { s with regs := t.regs } ∧ RegsBut [R.CRY_TWIN_CTL, R.CRY_TWIN_STAT] s t ∧ twinShows 3 2 t) ∧
    (twinState s = 0 → twinStrap s = true → s.spk.off = false → discState s ≠ dDone → ∃ t, exec c s = .next t ∧ t = { s with regs := t.regs } ∧
      RegsBut [R.CRY_TWIN_CTL] s t) ∧
    (∀ p, twinState s = 0 → twinStrap s = true → s.spk.off = false → discState s = dDone → partnerPort s = some p → s.cry.early = none →
      ∃ t m, exec c s = .next t ∧ t = { s with regs := t.regs, spk := { s.spk with ports := t.spk.ports }, cry := { s.cry with port := some p } } ∧
        RegsBut [R.CRY_TWIN_CTL, R.CRY_TWIN_STAT] s t ∧ twinShows 1 0 t ∧
        t.fld R.CRY_TWIN_STAT F.CRY_TWIN_STAT_NODE = Nat.xor (ownNode s) 1 ∧
        t.port p = { s.port p with queue := (s.port p).queue ++ [m] } ∧ m.cls = 1 ∧ (∀ f ∈ m.flits, f.cls = 1) ∧ (m.flits.head?.map (·.kind)) = some 1 ∧
        ∀ q, q ≠ p → t.port q = s.port q) ∧
    (twinState s ≠ 0 → ∃ t, exec c s = .next t ∧ t = { s with regs := t.regs } ∧ RegsBut [R.CRY_TWIN_CTL] s t)) ∧
  (∀ (a : Agent) (v : Word) (c : Instr) (s : State), twinWrite a v c → reaches a R.CRY_TWIN_CTL s = true → F.CRY_TWIN_CTL_EN.get v = 0 →
    (F.CRY_TWIN_CTL_WAIT.get v = s.fld R.CRY_TWIN_CTL F.CRY_TWIN_CTL_WAIT ∨ expertOn s 10 = true) →
    (twinState s = 0 → ∃ t, exec c s = .next t ∧ t = { s with regs := t.regs } ∧ RegsBut [R.CRY_TWIN_CTL, R.CRY_TWIN_STAT] s t ∧ twinShows 0 0 t) ∧
    (twinState s ≠ 0 → (∀ x ∈ s.host.formed, x.log = []) → ∃ t, exec c s = .next t ∧
      t = { s with regs := t.regs, cry := { s.cry with partner := [], port := none, early := none },
                   host := { s.host with formed := s.host.formed.map fun x => { x with held := false } } } ∧
      RegsBut [R.CRY_TWIN_CTL, R.CRY_TWIN_STAT] s t ∧ twinShows 0 0 t)) ∧
  (∀ (h : TwinHello) (s : State), (twinState s = 0 → exec (.twinHelloReceive h) s = .next { s with cry := { s.cry with early := some h } }) ∧
    (2 ≤ twinState s → exec (.twinHelloReceive h) s = .next s) ∧
    (twinState s = 1 → (∀ k, helloPasses s h k) → ∃ t, exec (.twinHelloReceive h) s = .next t ∧ t = { s with regs := t.regs } ∧
      RegsBut [R.CRY_TWIN_STAT, R.CRY_TWIN_PUID_LO, R.CRY_TWIN_PUID_HI] s t ∧ twinShows 2 0 t ∧ t.pair R.CRY_TWIN_PUID_LO R.CRY_TWIN_PUID_HI = h.uid.toNat) ∧
    (∀ r, twinState s = 1 → r < 7 → ¬ helloPasses s h r → (∀ k, k < r → helloPasses s h k) → ∃ t, exec (.twinHelloReceive h) s = .next t ∧
      t = { s with regs := t.regs } ∧ RegsBut [R.CRY_TWIN_STAT] s t ∧ twinShows 3 r t)) ∧
  (∀ (r : CompareRec) (s : State), (twinRunning s = false → exec (.compareRecordReceive r) s = .next s) ∧
    (twinRunning s = true → s.host.formed.find? (fun c => c.held && c.key == r.key.toNat) = none →
      exec (.compareRecordReceive r) s = .next { s with cry := { s.cry with partner := s.cry.partner ++ [r] } }) ∧
    (∀ c, twinRunning s = true → s.host.formed.find? (fun c => c.held && c.key == r.key.toNat) = some c →
      (s.host.formed.map (·.id)).Nodup → c.log = [] → c.id < s.host.nextId →
      (c.status = stDropped ∨ r.status.val = stDropped → ∃ t, exec (.compareRecordReceive r) s = .next t ∧ letGo c.id R.CRY_TWIN_EXCL s t) ∧
      (c.status ≠ stDropped → r.status.val ≠ stDropped → (c.status = r.status.val ∨ (c.status = stLate ∧ r.status.val = stDone) ∨
          (c.status = stDone ∧ r.status.val = stLate)) → c.result = fit 32 r.result →
        ∃ t, exec (.compareRecordReceive r) s = .next t ∧ letGo c.id R.CRY_TWIN_CNT s t) ∧
      (c.status ≠ stDropped → r.status.val ≠ stDropped → (c.status = r.status.val ∨ (c.status = stLate ∧ r.status.val = stDone) ∨
          (c.status = stDone ∧ r.status.val = stLate)) → c.result ≠ fit 32 r.result →
        ∃ t, exec (.compareRecordReceive r) s = .next t ∧ haltedFor c.key 8 s t ∧ mismatched c t) ∧
      (c.status ≠ stDropped → r.status.val ≠ stDropped → c.status ≠ r.status.val → ¬ (c.status = stLate ∧ r.status.val = stDone) →
          ¬ (c.status = stDone ∧ r.status.val = stLate) →
        ∃ t, exec (.compareRecordReceive r) s = .next t ∧ haltedFor c.key 9 s t ∧ mismatched c t ∧
          (∀ i, i < c.stages.length → (∀ j, j < i → (c.stages[j]?.map fun e => fit 8 e.digest) = (r.stages[j]?.map fun e => fit 8 e.digest)) →
            i < r.stages.length → (c.stages[i]?.map fun e => fit 8 e.digest) ≠ (r.stages[i]?.map fun e => fit 8 e.digest) → i < 16 →
            t.fld R.CRY_TWIN_DIV_STAGE F.CRY_TWIN_DIV_STAGE_ENTRY = i)))) ∧
  (∀ s : State, twinRunning s = false ∨ s.host.formed.find? (·.held) = none → exec .twinWaitExpiry s = .next s) ∧
  (∀ (c : Cpl) (s : State), twinRunning s = true → s.host.formed.find? (·.held) = some c → ∃ t, exec .twinWaitExpiry s = .next t ∧
    haltedFor c.key 7 s t ∧ mismatched c t)

/-- A write of CHM_CMD as the rows name it. -/
def mailboxRows (a : Agent) (v : Word) : List Instr :=
  [.getFw a v, .updBegin a v, .updImage a v, .updChunk a v, .updVerify a v, .probe a v, .updActivate a v, .updAbort a v, .setUnit a v, .clearUnit a v]

/-- The command is issued: GO is written, and none runs. -/
def issued (a : Agent) (v : Word) (op : Nat) (s : State) : Prop :=
  reaches a R.CHM_CMD s = true ∧ F.CHM_CMD_GO.get v = 1 ∧ F.CHM_CMD_OP.get v = op ∧ s.chm.cmd = none

/-- It runs and will end with RESULT `r`. -/
def willEnd (op r : Nat) (t : State) : Prop :=
  t.flag R.CHM_STAT F.CHM_STAT_BUSY = true ∧ ∃ k, t.chm.cmd = some (op, k, r)

/-- It will end with RESULT `r` and has touched nothing but registers of the mailbox. -/
def endsBare (op r : Nat) (l : List Nat) (s t : State) : Prop :=
  willEnd op r t ∧ t = { s with regs := t.regs, chm := { s.chm with cmd := t.chm.cmd } } ∧ RegsBut ([R.CHM_CMD, R.CHM_STAT] ++ l) s t

/-- A byte of bank `b`, where 2 is what the host has loaded. -/
def bankByte (b a : Nat) (s : State) : Byte := if b = 2 then Tab.get erased s.chm.loaded a else flashByte s (bankBase b + a)

/-- The bytes of bank `b` from `lo`, `n` of them, are as `f` says; every other byte of flash and of what is loaded stays. -/
def bankChanged (b lo n : Nat) (f : Nat → Byte) (s t : State) : Prop :=
  (∀ i, i < n → bankByte b (lo + i) t = f i) ∧
  (∀ a, ¬ (b = 2 ∧ lo ≤ a ∧ a < lo + n) → Tab.get erased t.chm.loaded a = Tab.get erased s.chm.loaded a) ∧
  (∀ a, ¬ (b ≠ 2 ∧ bankBase b + lo ≤ a ∧ a < bankBase b + lo + n) → flashByte t a = flashByte s a)

/-- The staged bank has the images of the other one; nothing outside it has changed (R495). -/
def bankCopied (s t : State) : Prop :=
  t.chm.loaded = s.chm.loaded ∧ (stagedBank s = 2 → t.chm.flash = s.chm.flash) ∧
  (∀ k i, stagedBank s < 2 → 1 ≤ k → k ≤ 4 → i < (regionOf k).2 →
    bankByte (stagedBank s) ((regionOf k).1 + i) t = bankByte (1 - stagedBank s) ((regionOf k).1 + i) s) ∧
  (∀ i, stagedBank s < 2 → (i < bankBase (stagedBank s) ∨ bankBase (stagedBank s) + 0x800000 ≤ i) → flashByte t i = flashByte s i)

/-- The session is closed. -/
def sessionShut (t : State) : Prop := t.chm.session = 0 ∧ t.flag R.CHM_STAT F.CHM_STAT_SESSION = false

/-- Only the Chapter House and registers have changed. -/
def chmOnly (l : List Nat) (s t : State) : Prop := t = { s with regs := t.regs, chm := t.chm } ∧ RegsBut l s t

/-- R478, R489, R494 to R498, R508, R519. -/
def Obligations.Mailbox : Prop :=
  (∀ (a : Agent) (v : Word) (c : Instr) (s : State), c ∈ mailboxRows a v →
    (answers a R.CHM_CMD s = false → exec c s = .next s) ∧
    (reaches a R.CHM_CMD s = true → F.CHM_CMD_GO.get v = 0 → ∃ t, exec c s = .next t ∧ t = { s with regs := t.regs } ∧ RegsBut [R.CHM_CMD] s t) ∧
    (reaches a R.CHM_CMD s = true → F.CHM_CMD_GO.get v = 1 → s.chm.cmd ≠ none → ∃ t, exec c s = .next t ∧ t = { s with regs := t.regs } ∧
      RegsBut [R.CHM_CMD, R.CHM_ERR] s t ∧ t.flag R.CHM_ERR F.CHM_ERR_CMD_BUSY = true) ∧
    (∀ op, issued a v op s → op ∉ [1, 2, 3, 4, 5, 6, 7, 8, 16, 17] → ∃ t, exec c s = .next t ∧ endsBare op rBadCmd [] s t)) ∧
  (∀ (a : Agent) (v : Word) (s : State), issued a v 1 s →
    (cmdArg s 0 = 0 → ∃ t, exec (.getFw a v) s = .next t ∧ endsBare 1 rOk ((List.range 4).map R.CHM_RSP ++ [R.CHM_ILEVEL1]) s t ∧
      t.reg (R.CHM_RSP 0) = s.reg R.CHM_FW_CHF ∧ t.reg (R.CHM_RSP 1) = s.reg R.CHM_FW_CRF ∧ t.reg (R.CHM_RSP 2) = s.reg R.CHM_FW_SLF ∧
      t.reg (R.CHM_RSP 3) = s.reg R.CHM_ILEVEL0) ∧
    (cmdArg s 0 = 1 → ∃ t, exec (.getFw a v) s = .next t ∧ endsBare 1 rOk ((List.range 4).map R.CHM_RSP ++ [R.CHM_ILEVEL1]) s t ∧
      (∀ k x, k < 3 → imageAt s (stagedBank s) (k + 1) = some x → t.reg (R.CHM_RSP k) = BitVec.ofNat 32 (imVersion x.1)) ∧
      (∀ k, k < 3 → imageAt s (stagedBank s) (k + 1) = none → t.reg (R.CHM_RSP k) = 0) ∧
      (∀ x y z, imageAt s (stagedBank s) 1 = some x → imageAt s (stagedBank s) 2 = some y → imageAt s (stagedBank s) 3 = some z →
        t.reg (R.CHM_RSP 3) = BitVec.ofNat 32 (imIlevel x.1 + 65536 * imIlevel y.1) ∧ t.reg R.CHM_ILEVEL1 = BitVec.ofNat 32 (imIlevel z.1))) ∧
    (2 ≤ cmdArg s 0 → ∃ t, exec (.getFw a v) s = .next t ∧ endsBare 1 rBadArg [] s t)) ∧
  (∀ (a : Agent) (v : Word) (s : State), issued a v 2 s →
    (s.chm.session ≠ 0 → ∃ t, exec (.updBegin a v) s = .next t ∧ endsBare 2 rBusy [] s t) ∧
    (s.chm.session = 0 → (s.chm.flash.map (·.1)).Pairwise (· < ·) → ∃ t, exec (.updBegin a v) s = .next t ∧ willEnd 2 rOk t ∧
      chmOnly [R.CHM_CMD, R.CHM_STAT] s t ∧ t.chm.session = 1 ∧ t.flag R.CHM_STAT F.CHM_STAT_SESSION = true ∧ bankCopied s t)) ∧
  (∀ (a : Agent) (v : Word) (op : Nat) (c : Instr) (s : State), issued a v op s → s.chm.session ≠ 1 →
    (op, c) ∈ [(3, .updImage a v), (4, .updChunk a v), (5, .updVerify a v), (7, .updActivate a v), (8, .updAbort a v)] →
    ∃ t, exec c s = .next t ∧ endsBare op rNoSession [] s t) ∧
  (∀ (a : Agent) (v : Word) (s : State), issued a v 3 s → s.chm.session = 1 →
    (1 ≤ cmdArg s 0 ∧ cmdArg s 0 ≤ 4 ∧ romKind s (cmdArg s 0) = true ∧ 1 ≤ cmdArg s 1 ∧ cmdArg s 1 ≤ (regionOf (cmdArg s 0)).2 →
      ∃ t, exec (.updImage a v) s = .next t ∧ willEnd 3 rOk t ∧ chmOnly [R.CHM_CMD, R.CHM_STAT] s t ∧ t.chm.comp = cmdArg s 0 ∧
        totalOf t (cmdArg s 0) = cmdArg s 1 ∧ t.chm.session = 1 ∧
        bankChanged (stagedBank s) (regionOf (cmdArg s 0)).1 (regionOf (cmdArg s 0)).2 (fun _ => 0xFF) s t) ∧
    (cmdArg s 0 = 0 ∨ 4 < cmdArg s 0 ∨ romKind s (cmdArg s 0) = false ∨ cmdArg s 1 = 0 ∨ (regionOf (cmdArg s 0)).2 < cmdArg s 1 →
      ∃ t, exec (.updImage a v) s = .next t ∧ endsBare 3 rBadArg [] s t)) ∧
  (∀ (a : Agent) (v : Word) (s : State), issued a v 4 s → s.chm.session = 1 →
    (1 ≤ s.chm.comp → s.chm.comp ≤ 4 → 1 ≤ cmdArg s 1 → cmdArg s 1 ≤ 65536 → cmdArg s 0 + cmdArg s 1 ≤ totalOf s s.chm.comp →
      ∃ t, exec (.updChunk a v) s = .next t ∧ willEnd 4 rOk t ∧ chmOnly [R.CHM_CMD, R.CHM_STAT] s t ∧ t.chm.session = 1 ∧
        bankChanged (stagedBank s) ((regionOf s.chm.comp).1 + cmdArg s 0) (cmdArg s 1)
          (fun i => BitVec.ofNat 8 ((s.reg (R.CHM_WIN (i / 4))).toNat / 256 ^ (i % 4))) s t) ∧
    (s.chm.comp = 0 ∨ cmdArg s 1 = 0 ∨ 65536 < cmdArg s 1 ∨ totalOf s s.chm.comp < cmdArg s 0 + cmdArg s 1 →
      ∃ t, exec (.updChunk a v) s = .next t ∧ endsBare 4 rBadArg [] s t)) ∧
  (∀ (a : Agent) (v : Word) (s : State), issued a v 5 s → s.chm.session = 1 →
    (cmdArg s 0 = 0 ∨ 4 < cmdArg s 0 ∨ romKind s (cmdArg s 0) = false → ∃ t, exec (.updVerify a v) s = .next t ∧ endsBare 5 rBadArg [] s t) ∧
    (1 ≤ cmdArg s 0 → cmdArg s 0 ≤ 4 → romKind s (cmdArg s 0) = true →
      ((imageAt s (stagedBank s) (cmdArg s 0)).isSome = true → ∃ t, exec (.updVerify a v) s = .next t ∧ endsBare 5 rOk [] s t) ∧
      (imageAt s (stagedBank s) (cmdArg s 0) = none → ∃ t, exec (.updVerify a v) s = .next t ∧ willEnd 5 rBadImage t ∧
        chmOnly [R.CHM_CMD, R.CHM_STAT] s t ∧ bankChanged (stagedBank s) (regionOf (cmdArg s 0)).1 (regionOf (cmdArg s 0)).2 (fun _ => 0xFF) s t))) ∧
  (∀ (a : Agent) (v : Word) (s : State), issued a v 6 s → ∃ t, exec (.probe a v) s = .next t ∧ endsBare 6 rOk [] s t ∧
    (bootSrc s = 3 → t.fld R.CHM_STAT F.CHM_STAT_PROBE_START = 2 ∧ t.fld R.CHM_STAT F.CHM_STAT_PROBE_REASON = 6) ∧
    (bootSrc s ≠ 3 → chfAt s (stagedBank s) = none → t.fld R.CHM_STAT F.CHM_STAT_PROBE_START = 2 ∧ t.fld R.CHM_STAT F.CHM_STAT_PROBE_REASON = 1) ∧
    (∀ c, bootSrc s ≠ 3 → chfAt s (stagedBank s) = some c → t.fld R.CHM_STAT F.CHM_STAT_PROBE_START = (decideBank s c).start ∧
      t.fld R.CHM_STAT F.CHM_STAT_PROBE_REASON = (decideBank s c).reason ∧ (t.fld R.CHM_STAT F.CHM_STAT_PROBE_START = 0 ↔ normalStart s c))) ∧
  (∀ (a : Agent) (v : Word) (s : State), issued a v 7 s → s.chm.session = 1 →
    (1 < cmdArg s 0 → ∃ t, exec (.updActivate a v) s = .next t ∧ endsBare 7 rBadArg [] s t) ∧
    (cmdArg s 0 ≤ 1 → ∃ t, exec (.updActivate a v) s = .next t ∧ willEnd 7 rOk t ∧ chmOnly [R.CHM_CMD, R.CHM_STAT] s t ∧ sessionShut t ∧
      t.chm.restart = decide (cmdArg s 0 = 1) ∧ t.chm.loaded = s.chm.loaded ∧ (stagedBank s < 2 → flashByte t 4 = BitVec.ofNat 8 (stagedBank s)) ∧
      ∀ i, i ≠ 4 ∨ stagedBank s = 2 → flashByte t i = flashByte s i)) ∧
  (∀ (a : Agent) (v : Word) (s : State), issued a v 8 s → s.chm.session = 1 → ∃ t, exec (.updAbort a v) s = .next t ∧ willEnd 8 rOk t ∧
    chmOnly [R.CHM_CMD, R.CHM_STAT] s t ∧ sessionShut t ∧ t.chm.flash = s.chm.flash ∧ t.chm.loaded = s.chm.loaded) ∧
  (∀ (a : Agent) (v : Word) (op : Nat) (c : Instr) (s : State), issued a v op s → (op, c) ∈ [(16, .setUnit a v), (17, .clearUnit a v)] →
    (romOnly s = true → ∃ t, exec c s = .next t ∧ endsBare op rBadCmd [] s t) ∧
    (romOnly s = false → expertOn s 11 = false → ∃ t, exec c s = .next t ∧ endsBare op rDenied [R.GLB_ERR] s t ∧
      t.flag R.GLB_ERR F.GLB_ERR_EXPERT_WR = true)) ∧
  (∀ (a : Agent) (v : Word) (s : State) (k i st : Nat), issued a v 16 s → romOnly s = false → expertOn s 11 = true → cmdArg s 0 % 16 = k →
    cmdArg s 0 / 256 % 32 = i → cmdArg s 0 / 65536 % 4 = st →
    (k ≠ kStack → (∃ n, (k, n) ∈ unitKinds ∧ i < n) → st < 3 → ∃ t, exec (.setUnit a v) s = .next t ∧ willEnd 16 rOk t ∧
      t = { s with regs := t.regs, chm := { s.chm with cmd := t.chm.cmd }, units := t.units } ∧ RegsBut [R.CHM_CMD, R.CHM_STAT] s t ∧
      t.unit k i = { s.unit k i with mgmt := st } ∧ ∀ k' i', i' < 32 → (k', i') ≠ (k, i) → t.unit k' i' = s.unit k' i') ∧
    (k = kStack ∨ (∀ n, (k, n) ∈ unitKinds → n ≤ i) ∨ st = 3 → ∃ t, exec (.setUnit a v) s = .next t ∧ endsBare 16 rBadArg [] s t)) ∧
  (∀ (a : Agent) (v : Word) (s : State) (k i : Nat), issued a v 17 s → romOnly s = false → expertOn s 11 = true → cmdArg s 0 % 16 = k →
    cmdArg s 0 / 256 % 32 = i →
    ((∀ n, (k, n) ∈ unitKinds → n ≤ i) → ∃ t, exec (.clearUnit a v) s = .next t ∧ endsBare 17 rBadArg [] s t) ∧
    ((∃ n, (k, n) ∈ unitKinds ∧ i < n) → ∃ t, exec (.clearUnit a v) s = .next t ∧ willEnd 17 rOk t ∧ (t.unit k i).down = false ∧
      (k = kTile → tileState s i = nvFaulted → tileState t i ≠ nvFaulted) ∧ (k = kSpoke → linkState s i = lFailed → linkState t i = lDown) ∧
      ((s.unit k i).down = false → k ≠ kTile → k ≠ kCore → (k = kSpoke → linkState s i ≠ lFailed) → endsBare 17 rOk [] s t))) ∧
  (∀ s : State, s.chm.cmd = none → exec .mailboxCommandEnd s = .next s) ∧
  (∀ (op k r : Nat) (s : State), s.chm.cmd = some (op, k, r) → r < 16 → s.chm.restart = false →
    ∃ t, exec .mailboxCommandEnd s = .next t ∧ t.chm = { s.chm with cmd := none } ∧ t.flag R.CHM_STAT F.CHM_STAT_BUSY = false ∧
      t.fld R.CHM_STAT F.CHM_STAT_RESULT = r ∧ (op ∉ [5, 6, 7] → chmOnly [R.CHM_STAT] s t) ∧
      (op ∈ [5, 6, 7] → t = { s with regs := t.regs, chm := t.chm, host := t.host, hostMem := t.hostMem, out := t.out } ∧ EventRegsBut [R.CHM_STAT] s t)) ∧
  (∀ (op k r : Nat) (s : State), s.chm.cmd = some (op, k, r) → s.chm.restart = true → ∃ t, exec .mailboxCommandEnd s = .next t ∧
    t.chm.chf = none ∧ t.chm.restart = false ∧ t.chm.cmd = none ∧ startOf t = 3 ∧ t.chm.flash = s.chm.flash ∧ t.chm.loaded = s.chm.loaded) ∧
  (∀ s : State, (s.chm.session = 0 ∨ s.chm.cmd ≠ none → exec .updSessionTimeout s = .next s) ∧
    (s.chm.session ≠ 0 → s.chm.cmd = none → ∃ t, exec .updSessionTimeout s = .next t ∧ chmOnly [R.CHM_STAT] s t ∧ sessionShut t ∧
      t.chm.flash = s.chm.flash ∧ t.chm.loaded = s.chm.loaded ∧ t.chm.chf = s.chm.chf))

/-- One reply has been sent, and nothing else has happened. -/
def onlyReplies (kind : Nat) (vals : List Nat) (s t : State) : Prop := t = { s with out := s.out ++ [.mctp (Config.mctpReply kind vals)] }

/-- The completion code the manual calls its n-th. -/
def pcode (n : Nat) : Nat := (Config.pldmCode n).toNat

/-- The register value that a sensor's number names (R503). -/
def sensorReads (id v : Nat) (s : State) : Prop :=
  (1 ≤ id ∧ id ≤ 24 ∧ v = s.fld (R.CHM_TEMP (id - 1)) F.CHM_TEMP_TEMP) ∨ (33 ≤ id ∧ id ≤ 40 ∧ v = s.fld (R.MEM_HBM_TEMP (id - 33)) F.MEM_HBM_TEMP_TEMP) ∨
  (64 ≤ id ∧ id ≤ 70 ∧ v = (s.reg (R.CHM_PWR (id - 64))).toNat) ∨ (id = 80 ∧ v = startOf s)

/-- MCTP control and PLDM types 0 and 2. -/
def mgmtRows (b : Byte) (h w : Word) (n : BitVec 16) : List Instr :=
  [.setEndpointId b, .getEndpointId, .getEndpointUuid, .getMctpVersionSupport b, .getMessageTypeSupport, .getTid, .getPldmVersion b, .getPldmTypes,
   .getPldmCommands b, .getPdr h, .getSensorReading n, .setNumericEffecterValue n w]

/-- PLDM types 0 and 2 only. -/
def pldmRows (b : Byte) (h w : Word) (n : BitVec 16) : List Instr :=
  [.getTid, .getPldmVersion b, .getPldmTypes, .getPldmCommands b, .getPdr h, .getSensorReading n, .setNumericEffecterValue n w]

/-- The profile a request names is under way, or waits (R510). -/
def profileAsked (p sg : Nat) (s t : State) : Prop :=
  (s.chm.change ≠ none → t.chm = { s.chm with later := some (p, sg) } ∧ t.flag R.CHM_PROF_STAT F.CHM_PROF_STAT_HELD = true) ∧
  (s.chm.change = none → t.chm = { s.chm with request := if p = curProfile s then none else some (p, sg) } ∧ t.reg R.CHM_PROF_STAT = s.reg R.CHM_PROF_STAT)

/-- R493, R500, R501, R503. -/
def Obligations.ManagementAnswers : Prop :=
  (∀ (b : Byte) (h w : Word) (n : BitVec 16) (c : Instr) (s : State), s.chm.held = true → c ∈ mgmtRows b h w n → exec c s = .next s) ∧
  (∀ (b : Byte) (h w : Word) (n : BitVec 16) (c : Instr) (s : State), s.chm.chf = none → 2 ≤ startOf s → c ∈ pldmRows b h w n → exec c s = .next s) ∧
  (∀ (eid : Byte) (s : State), s.chm.held = false → ∃ t, exec (.setEndpointId eid) s = .next t ∧ t = { s with regs := t.regs, out := t.out } ∧
    RegsBut [R.CHM_EID] s t ∧ t.fld R.CHM_EID F.CHM_EID_EID = eid.toNat ∧ t.out = s.out ++ [.mctp (Config.mctpReply 0 [eid.toNat])]) ∧
  (∀ (b : Byte) (s : State), s.chm.held = false →
    (∃ t, exec .getEndpointId s = .next t ∧ onlyReplies 1 [s.fld R.CHM_EID F.CHM_EID_EID] s t) ∧
    (∃ t, exec .getEndpointUuid s = .next t ∧ onlyReplies 2 [s.pair R.SPK_UID_LO R.SPK_UID_HI] s t) ∧
    (∃ t, exec (.getMctpVersionSupport b) s = .next t ∧ onlyReplies 3 [b.toNat] s t) ∧
    (∃ t, exec .getMessageTypeSupport s = .next t ∧ onlyReplies 4 [0, 1] s t)) ∧
  (∀ (ty : Byte) (wants : Bool) (s : State),
    (wants = false ∨ ty.toNat < 2 ∨ s.chm.held = true → exec (.mctpOtherType ty wants) s = .next s) ∧
    (wants = true → 2 ≤ ty.toNat → s.chm.held = false → ∃ t, exec (.mctpOtherType ty wants) s = .next t ∧ onlyReplies 5 [ty.toNat] s t)) ∧
  (∀ (b : Byte) (h : Word) (s : State), pldmUp s = true →
    (∃ t, exec .getTid s = .next t ∧ onlyReplies 6 [pcode 0] s t) ∧
    (∃ t, exec (.getPldmVersion b) s = .next t ∧ onlyReplies 7 [pcode 0, b.toNat] s t) ∧
    (∃ t, exec .getPldmTypes s = .next t ∧ onlyReplies 8 [pcode 0, 0, 2, 5] s t) ∧
    (∃ t, exec (.getPldmCommands b) s = .next t ∧ onlyReplies 9 [pcode 0, b.toNat] s t) ∧
    (∃ t, exec (.getPdr h) s = .next t ∧ onlyReplies 10 [pcode 0, h.toNat] s t)) ∧
  (∀ (n : BitVec 16) (s : State), pldmUp s = true →
    (∀ v, sensorReads n.toNat v s → ∃ t, exec (.getSensorReading n) s = .next t ∧ onlyReplies 11 [pcode 0, v] s t) ∧
    ((∀ v, ¬ sensorReads n.toNat v s) → ∃ t, exec (.getSensorReading n) s = .next t ∧ onlyReplies 11 [pcode 1] s t)) ∧
  (∀ (n : BitVec 16) (w : Word) (s : State), pldmUp s = true →
    (n.toNat = 128 → w.toNat < 3 → ∃ t, exec (.setNumericEffecterValue n w) s = .next t ∧ t = { s with regs := t.regs, chm := t.chm, out := t.out } ∧
      RegsBut [R.CHM_PROF_STAT] s t ∧ profileAsked w.toNat (s.fld R.CHM_PROF_SG F.CHM_PROF_SG_SG) s t ∧ t.out = s.out ++ [.mctp (Config.mctpReply 12 [pcode 0])]) ∧
    (n.toNat ≠ 128 ∨ 3 ≤ w.toNat → ∃ t, exec (.setNumericEffecterValue n w) s = .next t ∧ onlyReplies 12 [pcode 1] s t)) ∧
  (∀ s : State, exec .smbusTimeout s = .next s)

/-- The commands of the update that need the session, with the reply's number and the state they need. -/
def updateRows (ks : List (Fin 4)) (k : Fin 4) (n : Word) (bs : List Byte) (ok : Bool) : List (Nat × Nat × Instr) :=
  [(14, 1, .passComponentTable ks), (15, 2, .updateComponent k n), (16, 3, .requestFirmwareData n bs), (17, 3, .transferComplete ok), (18, 4, .verifyComplete),
   (19, 5, .applyComplete ok), (20, 2, .activateFirmware)]

/-- The session is PLDM's, and the update is in a state. -/
def inUpdate (st : Nat) (s : State) : Prop := s.chm.held = false ∧ s.chm.session = 2 ∧ s.chm.pldm = st

/-- One reply, and a new state of the update. -/
def updateMoves (kind : Nat) (vals : List Nat) (st : Nat) (s t : State) : Prop :=
  t = { s with chm := { s.chm with pldm := st }, out := s.out ++ [.mctp (Config.mctpReply kind vals)] }

/-- R494, R504. -/
def Obligations.UpdateOverPldm : Prop :=
  (∀ (ks : List (Fin 4)) (k : Fin 4) (n : Word) (bs : List Byte) (ok : Bool) (kind st : Nat) (c : Instr) (s : State), (kind, st, c) ∈ updateRows ks k n bs ok →
    (s.chm.held = true → exec c s = .next s) ∧
    (s.chm.held = false → s.chm.session ≠ 2 → ∃ t, exec c s = .next t ∧ onlyReplies kind [pcode 3] s t) ∧
    (s.chm.held = false → s.chm.session = 2 → s.chm.pldm ≠ st → ∃ t, exec c s = .next t ∧ onlyReplies kind [pcode 4] s t)) ∧
  (∀ s : State, s.chm.held = true → exec .requestUpdate s = .next s ∧ exec .getStatus s = .next s ∧ exec .cancelUpdate s = .next s) ∧
  (∀ s : State, s.chm.held = false →
    (s.chm.session ≠ 0 → ∃ t, exec .requestUpdate s = .next t ∧ onlyReplies 13 [pcode 2] s t) ∧
    (s.chm.session = 0 → (s.chm.flash.map (·.1)).Pairwise (· < ·) → ∃ t, exec .requestUpdate s = .next t ∧ t = { s with regs := t.regs, chm := t.chm, out := t.out } ∧
      RegsBut [R.CHM_STAT] s t ∧ t.chm.session = 2 ∧ t.chm.pldm = 1 ∧ t.flag R.CHM_STAT F.CHM_STAT_SESSION = true ∧ bankCopied s t ∧
      t.out = s.out ++ [.mctp (Config.mctpReply 13 [pcode 0])]) ∧
    (∃ t, exec .getStatus s = .next t ∧ onlyReplies 21 [pcode 0, s.chm.pldm] s t) ∧
    (s.chm.session ≠ 2 → ∃ t, exec .cancelUpdate s = .next t ∧ onlyReplies 22 [pcode 3] s t) ∧
    (s.chm.session = 2 → ∃ t, exec .cancelUpdate s = .next t ∧ t = { s with regs := t.regs, chm := t.chm, out := t.out } ∧ RegsBut [R.CHM_STAT] s t ∧
      sessionShut t ∧ t.chm.pldm = 0 ∧ t.chm.flash = s.chm.flash ∧ t.chm.loaded = s.chm.loaded ∧ t.out = s.out ++ [.mctp (Config.mctpReply 22 [pcode 0])])) ∧
  (∀ (ks : List (Fin 4)) (s : State), inUpdate 1 s → ∃ t, exec (.passComponentTable ks) s = .next t ∧
    updateMoves 14 (pcode 0 :: ks.map (·.val + 1)) 2 s t) ∧
  (∀ (k : Fin 4) (n : Word) (s : State), inUpdate 2 s →
    (romKind s (k + 1) = true → 1 ≤ n.toNat → n.toNat ≤ (regionOf (k + 1)).2 → ∃ t, exec (.updateComponent k n) s = .next t ∧
      t = { s with chm := t.chm, out := s.out ++ [.mctp (Config.mctpReply 15 [pcode 0])] } ∧ t.chm.pldm = 3 ∧ t.chm.comp = k + 1 ∧ totalOf t (k + 1) = n.toNat ∧
      t.chm.session = 2 ∧ bankChanged (stagedBank s) (regionOf (k + 1)).1 (regionOf (k + 1)).2 (fun _ => 0xFF) s t) ∧
    (romKind s (k + 1) = false ∨ n = 0 ∨ (regionOf (k + 1)).2 < n.toNat → ∃ t, exec (.updateComponent k n) s = .next t ∧ onlyReplies 15 [pcode 1] s t)) ∧
  (∀ (off : Word) (bs : List Byte) (s : State), inUpdate 3 s →
    (off.toNat + bs.length ≤ totalOf s s.chm.comp → ∃ t, exec (.requestFirmwareData off bs) s = .next t ∧
      t = { s with chm := { s.chm with flash := t.chm.flash, loaded := t.chm.loaded }, out := s.out ++ [.mctp (Config.mctpReply 16 [pcode 0])] } ∧
      bankChanged (stagedBank s) ((regionOf s.chm.comp).1 + off.toNat) bs.length (fun i => bs.getD i 0) s t) ∧
    (totalOf s s.chm.comp < off.toNat + bs.length → ∃ t, exec (.requestFirmwareData off bs) s = .next t ∧ onlyReplies 16 [pcode 1] s t)) ∧
  (∀ (ok : Bool) (s : State), inUpdate 3 s → ∃ t, exec (.transferComplete ok) s = .next t ∧ updateMoves 17 [pcode 0] (if ok then 4 else 2) s t) ∧
  (∀ s : State, inUpdate 4 s →
    ((imageAt s (stagedBank s) s.chm.comp).isSome = true → ∃ t, exec .verifyComplete s = .next t ∧
      t = { s with regs := t.regs, chm := { s.chm with pldm := 5 }, host := t.host, hostMem := t.hostMem, out := t.out } ∧ EventRegsBut [] s t ∧
      t.out.getLast? = some (.mctp (Config.mctpReply 18 [pcode 0]))) ∧
    (imageAt s (stagedBank s) s.chm.comp = none → ∃ t, exec .verifyComplete s = .next t ∧ t.chm.pldm = 2 ∧ t.chm.session = 2 ∧ EventRegsBut [] s t ∧
      bankChanged (stagedBank s) (regionOf s.chm.comp).1 (regionOf s.chm.comp).2 (fun _ => 0xFF) s t ∧
      t.out.getLast? = some (.mctp (Config.mctpReply 18 [pcode 1])))) ∧
  (∀ (ok : Bool) (s : State), inUpdate 5 s → ∃ t, exec (.applyComplete ok) s = .next t ∧ updateMoves 19 [pcode (if ok then 0 else 1)] 2 s t) ∧
  (∀ s : State, inUpdate 2 s → ∃ t, exec .activateFirmware s = .next t ∧ EventRegsBut [R.CHM_STAT] s t ∧ sessionShut t ∧ t.chm.restart = s.chm.restart ∧
    t.chm.pldm = 0 ∧ t.chm.loaded = s.chm.loaded ∧ (stagedBank s < 2 → flashByte t 4 = BitVec.ofNat 8 (stagedBank s)) ∧
    (∀ i, i ≠ 4 ∨ stagedBank s = 2 → flashByte t i = flashByte s i) ∧ t.out.getLast? = some (.mctp (Config.mctpReply 20 [pcode 0])))

/-- Rail voltages in mV (Table MGT-5). -/
def railMv (cl : Bool) : List Nat := if cl then [850, 770, 700] else [800, 740, 690, 650]

/-- A VOUT_COMMAND for point `p` has left. -/
def voutSent (cl : Bool) (p : Nat) (s t : State) : Prop :=
  ∀ mv, (railMv cl)[p]? = some mv → t.out = s.out ++ [.pmbus (if cl then s.fld R.GLB_PMB_CFG F.GLB_PMB_CFG_CLO_ADDR else s.fld R.GLB_PMB_CFG F.GLB_PMB_CFG_NAVE_ADDR) mv]

/-- Only island `cl` and what has been sent have changed; outside a profile change a step that ends shows its clock. -/
def islandOnly (cl : Bool) (s t : State) : Prop :=
  t = { s with chm := { s.chm with nv := t.chm.nv, cl := t.chm.cl }, out := t.out } ∧ t.isl (!cl) = s.isl (!cl)

/-- The point a step leaves an island at: clock, rail, a write to retry, a raise that waits, the clock shown. -/
def islandAt (cl : Bool) (clk volt : Nat) (write : Option (Nat × Nat)) (slew : Option Nat) (t : State) : Prop :=
  (t.isl cl).clk = clk ∧ (t.isl cl).volt = volt ∧ (t.isl cl).write = write ∧ (t.isl cl).slew = slew

/-- An island that may step. -/
def mayStep (cl : Bool) (s : State) : Prop := (s.isl cl).write = none ∧ (s.isl cl).slew = none ∧ s.chm.chf ≠ none ∧ alive s = true

/-- R492, R510 to R514, R543, R544. -/
def Obligations.PointsAndProfiles : Prop :=
  (∀ (a : Agent) (v : Word) (s : State), answers a R.CHM_OVR s = false → exec (.chmOvrWrite a v) s = .next s) ∧
  (∀ (a : Agent) (v : Word) (s : State), reaches a R.CHM_OVR s = true →
    (expertOn s 11 = false → ∃ t, exec (.chmOvrWrite a v) s = .next t ∧ t.reg R.CHM_OVR = s.reg R.CHM_OVR ∧ t.reg R.GLB_STATUS = s.reg R.GLB_STATUS ∧ t.chm = s.chm) ∧
    (expertOn s 11 = true → F.CHM_OVR_EN.get v = 1 → startOf s ≠ 1 → exec (.chmOvrWrite a v) s = .next (s.setFlag R.CHM_ERR F.CHM_ERR_OVR_STATE true)) ∧
    (expertOn s 11 = true → F.CHM_OVR_EN.get v = 0 ∨ startOf s = 1 → ∃ t, exec (.chmOvrWrite a v) s = .next t ∧ EventRegsBut [R.CHM_OVR, R.GLB_STATUS] s t ∧
      t.flag R.CHM_OVR F.CHM_OVR_EN = decide (F.CHM_OVR_EN.get v = 1) ∧ overridden t = decide (F.CHM_OVR_EN.get v = 1) ∧ startOf t = startOf s ∧
      t.chm = s.chm ∧ (overridden s = overridden t → t = { s with regs := t.regs } ∧ RegsBut [R.CHM_OVR] s t))) ∧
  (∀ (a : Agent) (v : Word) (s : State), answers a R.CHM_PROF_REQ s = false → exec (.profileRequest a v) s = .next s) ∧
  (∀ (a : Agent) (v : Word) (s : State), reaches a R.CHM_PROF_REQ s = true → F.CHM_PROF_REQ_PROFILE.get v < 3 →
    ∃ t, exec (.profileRequest a v) s = .next t ∧ t = { s with regs := t.regs, chm := t.chm } ∧ RegsBut [R.CHM_PROF_REQ, R.CHM_PROF_STAT] s t ∧
      (F.CHM_PROF_REQ_GO.get v = 0 → t.chm = s.chm ∧ t.reg R.CHM_PROF_STAT = s.reg R.CHM_PROF_STAT) ∧
      (F.CHM_PROF_REQ_GO.get v = 1 → profileAsked (F.CHM_PROF_REQ_PROFILE.get v) (F.CHM_PROF_REQ_SG.get v) s t)) ∧
  (∀ s : State, (s.chm.change = none ∨ ∃ p, s.chm.change = some p ∧ changeSettled s p = false) → exec .profileChangeComplete s = .next s) ∧
  (∀ (p : Nat) (s : State), s.chm.change = some p → p < 3 → changeSettled s p = true → ∃ t, exec .profileChangeComplete s = .next t ∧
    t = { s with regs := t.regs, chm := t.chm, host := t.host, hostMem := t.hostMem, out := t.out } ∧ EventRegsBut [R.CHM_PROF_STAT] s t ∧
    t.chm.change = none ∧ curProfile t = p ∧ t.flag R.CHM_PROF_STAT F.CHM_PROF_STAT_PENDING = false ∧ t.flag R.CHM_PROF_STAT F.CHM_PROF_STAT_HELD = false ∧
    t.chm.later = none ∧ t.chm.txLow = decide (p = 2) ∧ t.chm.nv = { s.chm.nv with shown := s.chm.nv.clk } ∧ t.chm.cl = { s.chm.cl with shown := s.chm.cl.clk } ∧
    (s.chm.later = none → t.chm.request = none) ∧ (∀ q g, s.chm.later = some (q, g) → t.chm.request = if q = p then none else some (q, g))) ∧
  (∀ (a : Agent) (v : Word) (s : State), answers a R.CHM_DVFS s = false → exec (.dvfsRequest a v) s = .next s) ∧
  (∀ (a : Agent) (v : Word) (s : State), reaches a R.CHM_DVFS s = true →
    (expertOn s 11 = true → ∃ t, exec (.dvfsRequest a v) s = .next t ∧ t = { s with regs := t.regs } ∧ RegsBut [R.CHM_DVFS] s t ∧
      t.fld R.CHM_DVFS F.CHM_DVFS_NV_REQ = F.CHM_DVFS_NV_REQ.get v ∧
      t.fld R.CHM_DVFS F.CHM_DVFS_CL_REQ = if F.CHM_DVFS_CL_REQ.get v = 3 then s.fld R.CHM_DVFS F.CHM_DVFS_CL_REQ else F.CHM_DVFS_CL_REQ.get v) ∧
    (expertOn s 11 = false → ∃ t, exec (.dvfsRequest a v) s = .next t ∧ t.fld R.CHM_DVFS F.CHM_DVFS_NV_REQ = s.fld R.CHM_DVFS F.CHM_DVFS_NV_REQ ∧
      t.fld R.CHM_DVFS F.CHM_DVFS_CL_REQ = s.fld R.CHM_DVFS F.CHM_DVFS_CL_REQ ∧ t.chm = s.chm)) ∧
  (∀ (cl ack : Bool) (s : State), ¬ mayStep cl s ∨ (s.isl cl).clk = targetPoint s cl → exec (.dvfsStep cl ack) s = .next s) ∧
  (∀ (cl ack : Bool) (s : State), mayStep cl s → (s.isl cl).clk < targetPoint s cl → ∃ t, exec (.dvfsStep cl ack) s = .next t ∧ islandOnly cl s t ∧
    voutSent cl ((s.isl cl).clk + 1) s t ∧
    (ack = true → islandAt cl ((s.isl cl).clk + 1) ((s.isl cl).clk + 1) none none t ∧ (s.chm.change = none → (t.isl cl).shown = (s.isl cl).clk + 1)) ∧
    (ack = false → islandAt cl ((s.isl cl).clk + 1) (s.isl cl).volt (some ((s.isl cl).clk + 1, 1)) none t)) ∧
  (∀ (cl ack : Bool) (s : State), mayStep cl s → targetPoint s cl < (s.isl cl).clk → ∃ t, exec (.dvfsStep cl ack) s = .next t ∧ islandOnly cl s t ∧
    voutSent cl ((s.isl cl).clk - 1) s t ∧ (t.isl cl).shown = (s.isl cl).shown ∧
    (ack = true → islandAt cl (s.isl cl).clk ((s.isl cl).clk - 1) none (some ((s.isl cl).clk - 1)) t) ∧
    (ack = false → islandAt cl (s.isl cl).clk (s.isl cl).volt (some ((s.isl cl).clk - 1, 1)) none t)) ∧
  (∀ (cl : Bool) (s : State), ((s.isl cl).slew = none → exec (.slewWaitEnd cl) s = .next s) ∧
    (∀ p, (s.isl cl).slew = some p → ∃ t, exec (.slewWaitEnd cl) s = .next t ∧ islandOnly cl s t ∧ t.out = s.out ∧
      islandAt cl p (s.isl cl).volt (s.isl cl).write none t ∧ (s.chm.change = none → (t.isl cl).shown = p))) ∧
  (∀ (cl ack : Bool) (s : State), (s.isl cl).write = none → exec (.pmbusRetry cl ack) s = .next s) ∧
  (∀ (cl ack : Bool) (p n : Nat) (s : State), (s.isl cl).write = some (p, n) →
    (ack = true → ∃ t, exec (.pmbusRetry cl ack) s = .next t ∧ islandOnly cl s t ∧ voutSent cl p s t ∧ (t.isl cl).clk = (s.isl cl).clk ∧ (t.isl cl).volt = p ∧
      (t.isl cl).write = none ∧ (t.isl cl).slew = if p < (s.isl cl).clk then some p else (s.isl cl).slew) ∧
    (ack = false → n < 2 → ∃ t, exec (.pmbusRetry cl ack) s = .next t ∧ islandOnly cl s t ∧ voutSent cl p s t ∧
      islandAt cl (s.isl cl).clk (s.isl cl).volt (some (p, n + 1)) (s.isl cl).slew t) ∧
    (ack = false → 2 ≤ n → ∃ t, exec (.pmbusRetry cl ack) s = .next t ∧ t = { s with regs := t.regs, chm := { s.chm with nv := t.chm.nv, cl := t.chm.cl }, out := t.out } ∧
      t.isl (!cl) = s.isl (!cl) ∧ RegsBut [R.GLB_ELE_STAT] s t ∧ voutSent cl p s t ∧ islandAt cl (s.isl cl).clk (s.isl cl).volt none (s.isl cl).slew t ∧
      t.flag R.GLB_ELE_STAT F.GLB_ELE_STAT_PMB_ERR = true ∧ t.fld R.GLB_ELE_STAT F.GLB_ELE_STAT_REG = cl.toNat))

/-- A sensor reads its threshold or more (R515). -/
def tooHot (s : State) : Prop :=
  (∃ i, i < 24 ∧ (4 * s.fld R.CHM_THR F.CHM_THR_HOT : Int) ≤ signed 12 (s.reg (R.CHM_TEMP i)).toNat) ∨
  (∃ i, i < 8 ∧ s.fld R.CHM_THR F.CHM_THR_HBM_HOT ≤ s.fld (R.MEM_HBM_TEMP i) F.MEM_HBM_TEMP_TEMP)

/-- The estimate exceeds the limit in watts (Table MGT-4). -/
def tooMuch (s : State) : Prop := (([400, 220, 75] : List Nat).getD (min (boundProfile s) 2) 75) * 1000 < (s.reg (R.CHM_PWR 0)).toNat

/-- Every sensor is 3 °C below its threshold, the estimate at or below 95 % of the limit (R516). -/
def coolEnough (s : State) : Prop :=
  (∀ i, i < 24 → (signed 12 (s.reg (R.CHM_TEMP i)).toNat : Int) + 12 ≤ 4 * s.fld R.CHM_THR F.CHM_THR_HOT) ∧
  (∀ i, i < 8 → s.fld (R.MEM_HBM_TEMP i) F.MEM_HBM_TEMP_TEMP + 3 ≤ s.fld R.CHM_THR F.CHM_THR_HBM_HOT) ∧
  100 * (s.reg (R.CHM_PWR 0)).toNat ≤ 95 * 1000 * (([400, 220, 75] : List Nat).getD (min (boundProfile s) 2) 75)

/-- CHM_THR_STAT shows the throttle. -/
def thrShown (t : State) : Prop :=
  t.flag R.CHM_THR_STAT F.CHM_THR_STAT_ACTIVE = decide (t.chm.thr.phase ≠ 0) ∧
  t.fld R.CHM_THR_STAT F.CHM_THR_STAT_CAUSE = t.chm.thr.thermal.toNat + 2 * t.chm.thr.power.toNat

/-- The causes have been evaluated after a reading (R515, R516). -/
def throttled (s t : State) : Prop :=
  thrShown t ∧ (t.chm.thr.thermal = true ↔ tooHot t) ∧ (t.chm.thr.power = true ↔ tooMuch t) ∧
  (tooHot t ∨ tooMuch t → t.chm.thr.phase = 1 ∧ t.chm.thr.cool = none ∧
    (s.chm.thr.phase = 0 → t.chm.thr.nv = targetPoint s false ∧ t.chm.thr.cl = targetPoint s true ∧ t.reg R.CHM_THR_CNT = s.reg R.CHM_THR_CNT + 1) ∧
    (s.chm.thr.phase ≠ 0 → t.chm.thr.nv = s.chm.thr.nv ∧ t.chm.thr.cl = s.chm.thr.cl ∧ t.reg R.CHM_THR_CNT = s.reg R.CHM_THR_CNT)) ∧
  (¬ tooHot t → ¬ tooMuch t → t.chm.thr.phase = s.chm.thr.phase ∧ t.chm.thr.nv = s.chm.thr.nv ∧ t.chm.thr.cl = s.chm.thr.cl ∧
    t.reg R.CHM_THR_CNT = s.reg R.CHM_THR_CNT ∧ (s.chm.thr.phase = 1 → coolEnough t → t.chm.thr.cool = some (s.chm.thr.cool.getD s.bel.dnc)) ∧
    (s.chm.thr.phase ≠ 1 ∨ ¬ coolEnough t → t.chm.thr.cool = none))

/-- A reading touches registers, the throttle and what an event touches. -/
def readingOnly (l : List Nat) (s t : State) : Prop :=
  t = { s with regs := t.regs, chm := { s.chm with thr := t.chm.thr, energy := t.chm.energy }, host := t.host, hostMem := t.hostMem, out := t.out } ∧
  EventRegsBut ([R.CHM_THR_STAT, R.CHM_THR_CNT] ++ l) s t

/-- R505, R506, R515, R516. -/
def Obligations.ThrottleFollowsSensors : Prop :=
  (∀ (ts : List (BitVec 12)) (mw : List Word) (s : State), s.chm.held = true → exec (.sensorSample ts) s = .next s ∧ exec (.powerEstimate mw) s = .next s) ∧
  (∀ (ts : List (BitVec 12)) (s : State), s.chm.held = false → ts.length = 24 → ∃ t m, exec (.sensorSample ts) s = .next t ∧
    readingOnly (R.CHM_TMAX :: (List.range 24).map R.CHM_TEMP) s t ∧ t.chm.energy = s.chm.energy ∧
    (∀ i x, ts[i]? = some x → (t.reg (R.CHM_TEMP i)).toNat = x.toNat) ∧
    t.fld R.CHM_TMAX F.CHM_TMAX_SENSOR = m ∧ ts[m]? = some (BitVec.ofNat 12 (t.fld R.CHM_TMAX F.CHM_TMAX_VALUE)) ∧
    (∀ i x y, ts[i]? = some x → ts[m]? = some y → x.toInt ≤ y.toInt ∧ (i < m → x.toInt < y.toInt)) ∧ throttled s t) ∧
  (∀ (mw : List Word) (s : State), s.chm.held = false → mw.length = 7 → ∃ t, exec (.powerEstimate mw) s = .next t ∧
    readingOnly ([R.CHM_ENERGY_LO, R.CHM_ENERGY_HI] ++ (List.range 7).map R.CHM_PWR) s t ∧ (∀ i x, mw[i]? = some x → t.reg (R.CHM_PWR i) = x) ∧
    t.pair R.CHM_ENERGY_LO R.CHM_ENERGY_HI = (s.pair R.CHM_ENERGY_LO R.CHM_ENERGY_HI + (s.chm.energy + (mw.getD 0 0).toNat) / 1000) % 2 ^ 64 ∧
    t.chm.energy = (s.chm.energy + (mw.getD 0 0).toNat) % 1000 ∧ throttled s t) ∧
  (∀ s : State, s.chm.thr.phase ≠ 1 ∨ (s.chm.thr.thermal = false ∧ s.chm.thr.power = false) ∨ (3 ≤ s.chm.thr.nv ∧ 2 ≤ s.chm.thr.cl) → exec .throttleStep s = .next s) ∧
  (∀ s : State, s.chm.thr.phase = 1 → s.chm.thr.thermal = true ∨ s.chm.thr.power = true →
    (s.chm.thr.nv < 3 → exec .throttleStep s = .next { s with chm := { s.chm with thr := { s.chm.thr with nv := s.chm.thr.nv + 1 } } }) ∧
    (3 ≤ s.chm.thr.nv → s.chm.thr.cl < 2 → exec .throttleStep s = .next { s with chm := { s.chm with thr := { s.chm.thr with cl := s.chm.thr.cl + 1 } } })) ∧
  (∀ s : State, s.chm.thr.phase ≠ 2 → (s.chm.thr.phase = 1 → s.chm.thr.cool = none ∨ ∃ d, s.chm.thr.cool = some d ∧ s.bel.dnc < d + 10000000) →
    exec .throttleReleaseStep s = .next s) ∧
  (∀ s : State, s.chm.thr.phase = 2 ∨ (s.chm.thr.phase = 1 ∧ ∃ d, s.chm.thr.cool = some d ∧ d + 10000000 ≤ s.bel.dnc) →
    (basePoint s true < s.chm.thr.cl → ∃ t, exec .throttleReleaseStep s = .next t ∧
      (basePoint s true < s.chm.thr.cl - 1 ∨ basePoint s false < s.chm.thr.nv → t = { s with chm := { s.chm with thr := { s.chm.thr with phase := 2, cl := s.chm.thr.cl - 1 } } }) ∧
      (s.chm.thr.cl - 1 ≤ basePoint s true → s.chm.thr.nv ≤ basePoint s false → readingOnly [] s t ∧ t.chm.thr.phase = 0 ∧ thrShown t)) ∧
    (s.chm.thr.cl ≤ basePoint s true → basePoint s false + 1 < s.chm.thr.nv →
      exec .throttleReleaseStep s = .next { s with chm := { s.chm with thr := { s.chm.thr with phase := 2, nv := s.chm.thr.nv - 1 } } }) ∧
    (s.chm.thr.cl ≤ basePoint s true → s.chm.thr.nv ≤ basePoint s false + 1 → ∃ t, exec .throttleReleaseStep s = .next t ∧ readingOnly [] s t ∧
      t.chm.thr.phase = 0 ∧ thrShown t ∧ targetPoint t false = (if s.chm.nv.nonlin then 3 else basePoint s false)))

/-- R39. -/
def Obligations.DncCountsTicks : Prop :=
  (∀ s : State, Sound s → s.chm.held = false → ∃ t, exec .tick s = .next t ∧ t.bel.dnc = (s.bel.dnc + 1) % 2 ^ 64) ∧
  (∀ (a : Agent) (v : Word) (s : State), ∀ c ∈ [Instr.freqAdjWrite a v, .timeSetGo a v, .ofsGo a v, .cancel a v],
    ∃ t, exec c s = .next t ∧ t.bel.dnc = s.bel.dnc) ∧
  (∀ (b p : Fin 4) (e : Bool) (s : State), s.chm.held = true → ∃ t, exec (.porstNRelease b p e) s = .next t ∧ t.bel.dnc = 0) ∧
  (∀ s : State, ∀ c ∈ [Instr.sysrstN, .perstN, .perstNRelease], ∃ t, exec c s = .next t ∧ t.bel.dnc = s.bel.dnc)

/-- BEL_SET_*, BEL_OFS_*, BEL_FREQ_ADJ and BEL_SET_CTL. -/
def timeRegs : List Nat :=
  [R.BEL_FREQ_ADJ, R.BEL_SET_CTL, R.BEL_SET_SEC_LO, R.BEL_SET_SEC_HI, R.BEL_SET_NS, R.BEL_SET_FRAC, R.BEL_SET_DNC_LO, R.BEL_SET_DNC_HI, R.BEL_OFS_LO, R.BEL_OFS_HI]

/-- The agent is the one of the two that does not own time (BEL_CTL.OWNER: 0 the PF, 1 the Chapter House). -/
def notOwner (a : Agent) (s : State) : Prop :=
  (a = .pf ∧ s.flag R.BEL_CTL F.BEL_CTL_OWNER = true) ∨ (a = .chf ∧ s.flag R.BEL_CTL F.BEL_CTL_OWNER = false)

/-- R44. -/
def Obligations.TimeBelongsToItsOwner : Prop :=
  ∀ (a : Agent) (v : Word) (s : State), notOwner a s → answers a R.BEL_STATUS s = true →
    (∀ off ∈ timeRegs, exec (.registerWrite a (BitVec.ofNat 25 off) v) s = .next (s.setFlag R.BEL_STATUS F.BEL_STATUS_NONOWNER true)) ∧
    (∀ c ∈ [Instr.freqAdjWrite a v, .timeSetGo a v, .ofsGo a v, .cancel a v], exec c s = .next (s.setFlag R.BEL_STATUS F.BEL_STATUS_NONOWNER true))

/-- R445. -/
def Obligations.TwinNeedsItsStrap : Prop :=
  (∀ (b p : Fin 4) (e : Bool) (s : State), s.chm.held = true → ∃ t, exec (.porstNRelease b p e) s = .next t ∧ twinStrap t = e) ∧
  (∀ (a : Agent) (v : Word) (s : State), reaches a R.CRY_TWIN_CTL s = true → twinStrap s = false → twinState s = 0 →
    ∀ c ∈ [Instr.twinEnable a v, .twinDisable a v], ∃ t, exec c s = .next t ∧ twinStrap t = false ∧ twinState t = 0 ∧
      (F.CRY_TWIN_CTL_EN.get v = 1 → t.fld R.CRY_TWIN_STAT F.CRY_TWIN_STAT_REASON = 1)) ∧
  (∀ (a : Agent) (v : Word) (s : State), reaches a R.CRY_TWIN_CTL s = true → twinStrap s = true → twinState s = 0 → s.spk.off = false →
    discState s = dDone → (partnerPort s).isSome = true → s.cry.early = none → F.CRY_TWIN_CTL_EN.get v = 1 →
    ∃ t, exec (.twinEnable a v) s = .next t ∧ twinState t = 1)

/-- R43. -/
def Obligations.DncIsReadInHalves : Prop :=
  ∀ (a : Agent) (s : State), answers a (belOff a R.BEL_DNC_LO) s = true → ∃ t, exec (.dncSnapshot a) s = .next t ∧
    (snapOf t (agentNo a)).tod = (snapOf s (agentNo a)).tod ∧ (snapOf t (agentNo a)).dnc = (snapOf s (agentNo a)).dnc ∧
    ∀ u : State, snapOf u (agentNo a) = snapOf t (agentNo a) → (answers a (belOff a R.BEL_DNC_LO) u = true →
        (readReg a (belOff a R.BEL_DNC_LO) u).toNat = s.bel.dnc % 2 ^ 32) ∧
      (answers a (belOff a R.BEL_DNC_HI) u = true → (readReg a (belOff a R.BEL_DNC_HI) u).toNat = s.bel.dnc / 2 ^ 32 % 2 ^ 32)
end

