-- ==== Sys2Proof/Laws/Tab.lean ====
section
/-! SUPPORT. Sparse tables: a read after a write, and every operation keeps the canonical form. -/

namespace Sys2Proof.Machine

theorem Tab.find_erase {α : Type} (t : Tab α) (k x : Nat) : Tab.find (t.erase k) x = if x = k then none else Tab.find t x := by
  induction t with
  | nil => simp [Tab.erase, Tab.find]
  | cons p t ih =>
    obtain ⟨y, b⟩ := p
    by_cases hk : k = y
    · by_cases hx : x = y
      · simp_all [Tab.erase, Tab.find]
      · have : y ≠ x := fun h => hx h.symm
        simp_all [Tab.erase, Tab.find]
    · by_cases hx : y = x
      · have hn : ¬ x = k := fun h => hk (by omega)
        simp_all [Tab.erase, Tab.find]
      · simp_all [Tab.erase, Tab.find]

theorem Tab.find_insert {α : Type} (t : Tab α) (k : Nat) (a : α) (x : Nat) :
    Tab.find (t.insert k a) x = if x = k then some a else Tab.find t x := by
  induction t with
  | nil =>
    by_cases h : x = k
    · simp [Tab.insert, Tab.find, h]
    · have : ¬ k = x := fun e => h e.symm
      simp [Tab.insert, Tab.find, h, this]
  | cons p t ih =>
    obtain ⟨y, b⟩ := p
    unfold Tab.insert
    by_cases hx : x = k
    · subst hx
      split
      · simp [Tab.find]
      · split
        · simp [Tab.find]
        · rename_i _ hne
          have : ¬ y = x := fun e => hne e.symm
          simp [Tab.find, this, ih]
    · have hk : ¬ k = x := fun e => hx e.symm
      split
      · simp [Tab.find, hx, hk]
      · split
        · rename_i _ he
          have : ¬ y = x := fun e => hk (he.trans e)
          simp [Tab.find, hx, hk, this]
        · simp [Tab.find, hx, ih]

/-- A read after a write: the key written reads as the value, every other key as before. -/
theorem Tab.get_set {α : Type} [DecidableEq α] (d : Nat → α) (t : Tab α) (k : Nat) (a : α) (x : Nat) :
    Tab.get d (Tab.set d t k a) x = if x = k then a else Tab.get d t x := by
  unfold Tab.set Tab.get
  split
  · rw [Tab.find_erase]
    by_cases h : x = k
    · subst h; simp_all
    · simp [h]
  · rw [Tab.find_insert]
    by_cases h : x = k
    · simp [h]
    · simp [h]

@[simp] theorem Tab.get_set_same {α : Type} [DecidableEq α] (d : Nat → α) (t : Tab α) (k : Nat) (a : α) :
    Tab.get d (Tab.set d t k a) k = a := by rw [Tab.get_set]; simp

theorem Tab.get_set_other {α : Type} [DecidableEq α] (d : Nat → α) (t : Tab α) (k : Nat) (a : α) (x : Nat) (h : x ≠ k) :
    Tab.get d (Tab.set d t k a) x = Tab.get d t x := by rw [Tab.get_set]; simp [h]

theorem Tab.wfFrom_mono {α : Type} [DecidableEq α] (d : Nat → α) (t : Tab α) (lo hi : Nat) (h : lo ≤ hi) (w : Tab.wfFrom d hi t = true) :
    Tab.wfFrom d lo t = true := by
  cases t with
  | nil => rfl
  | cons p t =>
    obtain ⟨k, a⟩ := p
    simp only [Tab.wfFrom, Bool.and_eq_true, decide_eq_true_eq] at w ⊢
    exact ⟨⟨by omega, w.1.2⟩, w.2⟩

theorem Tab.wfFrom_keep {α : Type} [DecidableEq α] (d : Nat → α) (p : Nat → Bool) (t : Tab α) :
    ∀ lo, Tab.wfFrom d lo t = true → Tab.wfFrom d lo (Tab.keep p t) = true := by
  induction t with
  | nil => intro lo _; rfl
  | cons q t ih =>
    obtain ⟨k, a⟩ := q
    intro lo w
    simp only [Tab.wfFrom, Bool.and_eq_true, decide_eq_true_eq] at w
    unfold Tab.keep
    split
    · simp only [Tab.wfFrom, Bool.and_eq_true, decide_eq_true_eq]
      exact ⟨w.1, ih _ w.2⟩
    · exact Tab.wfFrom_mono d _ lo (k + 1) (by omega) (ih _ w.2)

theorem Tab.wfFrom_erase {α : Type} [DecidableEq α] (d : Nat → α) (k : Nat) (t : Tab α) :
    ∀ lo, Tab.wfFrom d lo t = true → Tab.wfFrom d lo (t.erase k) = true := by
  induction t with
  | nil => intro lo _; rfl
  | cons q t ih =>
    obtain ⟨x, a⟩ := q
    intro lo w
    simp only [Tab.wfFrom, Bool.and_eq_true, decide_eq_true_eq] at w
    unfold Tab.erase
    split
    · exact Tab.wfFrom_mono d _ lo (x + 1) (by omega) (ih _ w.2)
    · simp only [Tab.wfFrom, Bool.and_eq_true, decide_eq_true_eq]
      exact ⟨w.1, ih _ w.2⟩

theorem Tab.wfFrom_insert {α : Type} [DecidableEq α] (d : Nat → α) (k : Nat) (a : α) (ha : a ≠ d k) (t : Tab α) :
    ∀ lo, lo ≤ k → Tab.wfFrom d lo t = true → Tab.wfFrom d lo (t.insert k a) = true := by
  induction t with
  | nil => intro lo hl _; simp [Tab.insert, Tab.wfFrom, hl, ha]
  | cons q t ih =>
    obtain ⟨x, b⟩ := q
    intro lo hl w
    simp only [Tab.wfFrom, Bool.and_eq_true, decide_eq_true_eq] at w
    unfold Tab.insert
    split
    · simp only [Tab.wfFrom, Bool.and_eq_true, decide_eq_true_eq]
      exact ⟨⟨hl, ha⟩, ⟨by omega, w.1.2⟩, w.2⟩
    · split
      · subst_vars
        simp only [Tab.wfFrom, Bool.and_eq_true, decide_eq_true_eq]
        exact ⟨⟨hl, ha⟩, w.2⟩
      · simp only [Tab.wfFrom, Bool.and_eq_true, decide_eq_true_eq]
        exact ⟨w.1, ih _ (by omega) w.2⟩

theorem Tab.wf_set {α : Type} [DecidableEq α] (d : Nat → α) (t : Tab α) (k : Nat) (a : α) (w : Tab.wf d t = true) :
    Tab.wf d (Tab.set d t k a) = true := by
  unfold Tab.set
  split
  · exact Tab.wfFrom_erase d k t 0 w
  · exact Tab.wfFrom_insert d k a (by assumption) t 0 (Nat.zero_le _) w

theorem Tab.wf_keep {α : Type} [DecidableEq α] (d : Nat → α) (p : Nat → Bool) (t : Tab α) (w : Tab.wf d t = true) :
    Tab.wf d (Tab.keep p t) = true := Tab.wfFrom_keep d p t 0 w

theorem Mem.wf_setByte (m : Mem) (a : Nat) (b : Byte) (w : Tab.wf memDefault m = true) : Tab.wf memDefault (m.setByte a b) = true :=
  Tab.wf_set memDefault m a b w

theorem Mem.wf_write (bs : List Byte) : ∀ (m : Mem) (a : Nat), Tab.wf memDefault m = true → Tab.wf memDefault (m.write a bs) = true := by
  induction bs with
  | nil => intro m a w; simpa [Mem.write] using w
  | cons b bs ih => intro m a w; exact ih _ _ (Mem.wf_setByte m a b w)

/-- The byte written reads back, every other byte as before. -/
theorem Mem.byte_setByte (m : Mem) (a : Nat) (b : Byte) (x : Nat) : (m.setByte a b).byte x = if x = a then b else m.byte x :=
  Tab.get_set memDefault m a b x

/-- Bytes outside a write read as before. -/
theorem Mem.byte_write_other (bs : List Byte) :
    ∀ (m : Mem) (a x : Nat), (x < a ∨ a + bs.length ≤ x) → (m.write a bs).byte x = m.byte x := by
  induction bs with
  | nil => intro m a x _; simp [Mem.write]
  | cons b bs ih =>
    intro m a x h
    simp only [Mem.write, List.length_cons] at h ⊢
    rw [ih _ _ _ (by omega), Mem.byte_setByte]
    simp [show ¬ x = a by omega]

end Sys2Proof.Machine
end

