-- ==== Sys2Proof/Laws/Reg.lean ====
section
/-! SUPPORT. Reading a register or a field after writing one: the value written, and every other register or field as before. -/

namespace Sys2Proof.Machine

@[simp] theorem State.reg_setReg (s : State) (off x : Nat) (w : Word) : (s.setReg off w).reg x = if x = off then w else s.reg x :=
  Tab.get_set resetVal s.regs off w x

theorem State.reg_setReg_same (s : State) (off : Nat) (w : Word) : (s.setReg off w).reg off = w := by simp

theorem State.reg_setReg_other (s : State) (off x : Nat) (w : Word) (h : x ≠ off) : (s.setReg off w).reg x = s.reg x := by simp [h]

@[simp] theorem State.reg_setFld (s : State) (off x : Nat) (f : Fld) (n : Nat) :
    (s.setFld off f n).reg x = if x = off then f.put (s.reg off) n else s.reg x := State.reg_setReg _ _ _ _

@[simp] theorem State.reg_setFlag (s : State) (off x : Nat) (f : Fld) (b : Bool) :
    (s.setFlag off f b).reg x = if x = off then f.put (s.reg off) b.toNat else s.reg x := State.reg_setReg _ _ _ _

@[simp] theorem State.reg_addSat (s : State) (off x : Nat) (f : Fld) (n : Nat) :
    (s.addSat off f n).reg x = if x = off then f.put (s.reg off) (Nat.min f.max (s.fld off f + n)) else s.reg x := State.reg_setReg _ _ _ _

@[simp] theorem State.reg_addWrap (s : State) (off x : Nat) (f : Fld) (n : Nat) :
    (s.addWrap off f n).reg x = if x = off then f.put (s.reg off) (s.fld off f + n) else s.reg x := State.reg_setReg _ _ _ _

@[simp] theorem State.reg_setPair (s : State) (lo hi v x : Nat) :
    (s.setPair lo hi v).reg x =
      if x = hi then BitVec.ofNat 32 (v / 2 ^ 32) else if x = lo then BitVec.ofNat 32 v else s.reg x := by
  unfold State.setPair; rw [State.reg_setReg, State.reg_setReg]

/-- The bits of a field that has been put into a word. -/
theorem Fld.getLsbD_put (f : Fld) (w : Word) (n i : Nat) (hi : f.lo ≤ f.hi) (h : i < 32) :
    (f.put w n).getLsbD i = if f.lo ≤ i ∧ i ≤ f.hi then n.testBit (i - f.lo) else w.getLsbD i := by
  unfold Fld.put Fld.mask
  simp only [BitVec.getLsbD_or, BitVec.getLsbD_and, BitVec.getLsbD_not, BitVec.getLsbD_ofNat, h, decide_true, Bool.true_and,
    Nat.testBit_mul_two_pow, Nat.testBit_two_pow_sub_one, Nat.testBit_mod_two_pow]
  by_cases h1 : f.lo ≤ i
  · by_cases h2 : i ≤ f.hi
    · have : i - f.lo < f.hi + 1 - f.lo := by omega
      simp [h1, h2, this]
    · have : ¬ i - f.lo < f.hi + 1 - f.lo := by omega
      simp [h1, h2, this]
  · simp [h1]

/-- The bits of a field read from a word. -/
theorem Fld.testBit_get (f : Fld) (w : Word) (j : Nat) : (f.get w).testBit j = (decide (j < f.hi + 1 - f.lo) && w.getLsbD (f.lo + j)) := by
  unfold Fld.get bitsOf
  rw [Nat.testBit_mod_two_pow, Nat.testBit_div_two_pow, BitVec.testBit_toNat, Nat.add_comm j f.lo]

theorem Fld.get_put (f : Fld) (w : Word) (n : Nat) (hl : f.lo ≤ f.hi) (hh : f.hi < 32) :
    f.get (f.put w n) = n % 2 ^ (f.hi + 1 - f.lo) := by
  apply Nat.eq_of_testBit_eq
  intro j
  rw [Fld.testBit_get, Nat.testBit_mod_two_pow]
  by_cases h : j < f.hi + 1 - f.lo
  · rw [Fld.getLsbD_put f w n _ hl (by omega)]
    have h1 : f.lo + j ≤ f.hi := by omega
    simp [h, h1]
  · simp [h]

/-- Two fields of one register that share no bit. -/
abbrev Fld.apart (f g : Fld) : Prop := f.hi < g.lo ∨ g.hi < f.lo

theorem Fld.get_put_apart (f g : Fld) (w : Word) (n : Nat) (hl : f.lo ≤ f.hi) (hg : g.hi < 32) (h : f.apart g) :
    g.get (f.put w n) = g.get w := by
  apply Nat.eq_of_testBit_eq
  intro j
  rw [Fld.testBit_get, Fld.testBit_get]
  by_cases hj : j < g.hi + 1 - g.lo
  · rw [Fld.getLsbD_put f w n _ hl (by omega)]
    have h1 : ¬(f.lo ≤ g.lo + j ∧ g.lo + j ≤ f.hi) := by unfold Fld.apart at h; omega
    simp [h1]
  · simp [hj]

theorem State.fld_setFld_same (s : State) (off : Nat) (f : Fld) (n : Nat) (hl : f.lo ≤ f.hi) (hh : f.hi < 32) :
    (s.setFld off f n).fld off f = n % 2 ^ (f.hi + 1 - f.lo) := by
  unfold State.fld State.setFld; rw [State.reg_setReg_same, Fld.get_put f _ n hl hh]

theorem State.fld_setFld_apart (s : State) (off : Nat) (f g : Fld) (n : Nat) (hl : f.lo ≤ f.hi) (hg : g.hi < 32) (h : f.apart g) :
    (s.setFld off f n).fld off g = s.fld off g := by
  unfold State.fld State.setFld; rw [State.reg_setReg_same, Fld.get_put_apart f g _ n hl hg h]

theorem State.fld_setFld_other (s : State) (off x : Nat) (f g : Fld) (n : Nat) (h : x ≠ off) :
    (s.setFld off f n).fld x g = s.fld x g := by
  unfold State.fld State.setFld; rw [State.reg_setReg_other _ _ _ _ h]

theorem State.reg_setFld_other (s : State) (off x : Nat) (f : Fld) (n : Nat) (h : x ≠ off) : (s.setFld off f n).reg x = s.reg x := by
  unfold State.setFld; rw [State.reg_setReg_other _ _ _ _ h]

theorem State.flag_setFlag_same (s : State) (off : Nat) (f : Fld) (b : Bool) (hl : f.lo ≤ f.hi) (hh : f.hi < 32) :
    (s.setFlag off f b).flag off f = b := by
  unfold State.flag State.setFlag
  rw [State.fld_setFld_same _ _ _ _ hl hh]
  have : b.toNat % 2 ^ (f.hi + 1 - f.lo) = b.toNat := Nat.mod_eq_of_lt (by
    have : 2 ^ 1 ≤ 2 ^ (f.hi + 1 - f.lo) := Nat.pow_le_pow_right (by decide) (by omega)
    cases b <;> simp <;> omega)
  rw [this]; cases b <;> rfl

theorem State.reg_setFlag_other (s : State) (off x : Nat) (f : Fld) (b : Bool) (h : x ≠ off) : (s.setFlag off f b).reg x = s.reg x :=
  State.reg_setFld_other _ _ _ _ _ h

/-- A field that shares no bit with the one written reads as before, whichever register was written. -/
theorem State.fld_setFld_apart' (s : State) (off x : Nat) (f g : Fld) (n : Nat) (hl : f.lo ≤ f.hi) (hg : g.hi < 32) (h : f.apart g) :
    (s.setFld off f n).fld x g = s.fld x g := by
  by_cases hx : x = off
  · subst hx; exact State.fld_setFld_apart s x f g n hl hg h
  · exact State.fld_setFld_other s off x f g n hx

theorem State.flag_setFlag_apart (s : State) (off x : Nat) (f g : Fld) (b : Bool) (hl : f.lo ≤ f.hi) (hg : g.hi < 32) (h : f.apart g) :
    (s.setFlag off f b).flag x g = s.flag x g := by
  unfold State.flag State.setFlag; rw [State.fld_setFld_apart' _ _ _ _ _ _ hl hg h]

theorem State.flag_setFlag_other (s : State) (off x : Nat) (f g : Fld) (b : Bool) (h : x ≠ off) :
    (s.setFlag off f b).flag x g = s.flag x g := by
  unfold State.flag State.setFlag; rw [State.fld_setFld_other _ _ _ _ _ _ h]

theorem State.flag_setFld_apart (s : State) (off x : Nat) (f g : Fld) (n : Nat) (hl : f.lo ≤ f.hi) (hg : g.hi < 32) (h : f.apart g) :
    (s.setFld off f n).flag x g = s.flag x g := by
  unfold State.flag; rw [State.fld_setFld_apart' _ _ _ _ _ _ hl hg h]

theorem State.flag_setFld_other (s : State) (off x : Nat) (f g : Fld) (n : Nat) (h : x ≠ off) :
    (s.setFld off f n).flag x g = s.flag x g := by
  unfold State.flag; rw [State.fld_setFld_other _ _ _ _ _ _ h]

theorem State.fld_setFlag_apart (s : State) (off x : Nat) (f g : Fld) (b : Bool) (hl : f.lo ≤ f.hi) (hg : g.hi < 32) (h : f.apart g) :
    (s.setFlag off f b).fld x g = s.fld x g := State.fld_setFld_apart' _ _ _ _ _ _ hl hg h

theorem State.fld_setFlag_other (s : State) (off x : Nat) (f g : Fld) (b : Bool) (h : x ≠ off) :
    (s.setFlag off f b).fld x g = s.fld x g := State.fld_setFld_other _ _ _ _ _ _ h

theorem State.fld_setReg_other (s : State) (off x : Nat) (g : Fld) (w : Word) (h : x ≠ off) : (s.setReg off w).fld x g = s.fld x g := by
  unfold State.fld; rw [State.reg_setReg_other _ _ _ _ h]

theorem State.flag_setReg_other (s : State) (off x : Nat) (g : Fld) (w : Word) (h : x ≠ off) : (s.setReg off w).flag x g = s.flag x g := by
  unfold State.flag; rw [State.fld_setReg_other _ _ _ _ _ h]

/-- A field never exceeds its width. -/
theorem State.fld_lt (s : State) (off : Nat) (f : Fld) : s.fld off f < 2 ^ (f.hi + 1 - f.lo) := Nat.mod_lt _ (Nat.two_pow_pos _)

/-- A counter that saturates stays at its largest value. -/
theorem State.fld_addSat_same (s : State) (off : Nat) (f : Fld) (n : Nat) (hl : f.lo ≤ f.hi) (hh : f.hi < 32) :
    (s.addSat off f n).fld off f = Nat.min f.max (s.fld off f + n) := by
  unfold State.addSat
  rw [State.fld_setFld_same _ _ _ _ hl hh]
  refine Nat.mod_eq_of_lt ?_
  have h1 : Nat.min f.max (s.fld off f + n) ≤ f.max := Nat.min_le_left _ _
  have h2 := Nat.two_pow_pos (f.hi + 1 - f.lo)
  unfold Fld.max Fld.mask at h1 ⊢; omega

end Sys2Proof.Machine
end

