-- ==== Sys2Proof/Laws/State.lean ====
section
/-! SUPPORT. What each update of the state leaves: one lemma for each field an update does not touch, so that no proof unfolds a
record update. -/

namespace Sys2Proof.Machine

@[simp] theorem State.setReg_bel (s : State) (off : Nat) (w : Word) : (s.setReg off w).bel = s.bel := rfl
@[simp] theorem State.setReg_mem (s : State) (off : Nat) (w : Word) : (s.setReg off w).mem = s.mem := rfl
@[simp] theorem State.setReg_rfi (s : State) (off : Nat) (w : Word) : (s.setReg off w).rfi = s.rfi := rfl
@[simp] theorem State.setReg_clo (s : State) (off : Nat) (w : Word) : (s.setReg off w).clo = s.clo := rfl
@[simp] theorem State.setReg_nav (s : State) (off : Nat) (w : Word) : (s.setReg off w).nav = s.nav := rfl
@[simp] theorem State.setReg_se (s : State) (off : Nat) (w : Word) : (s.setReg off w).se = s.se := rfl
@[simp] theorem State.setReg_units (s : State) (off : Nat) (w : Word) : (s.setReg off w).units = s.units := rfl
@[simp] theorem State.setReg_cry (s : State) (off : Nat) (w : Word) : (s.setReg off w).cry = s.cry := rfl
@[simp] theorem State.setReg_seq (s : State) (off : Nat) (w : Word) : (s.setReg off w).seq = s.seq := rfl
@[simp] theorem State.setReg_fwl (s : State) (off : Nat) (w : Word) : (s.setReg off w).fwl = s.fwl := rfl
@[simp] theorem State.setReg_spk (s : State) (off : Nat) (w : Word) : (s.setReg off w).spk = s.spk := rfl
@[simp] theorem State.setReg_fhs (s : State) (off : Nat) (w : Word) : (s.setReg off w).fhs = s.fhs := rfl
@[simp] theorem State.setReg_chm (s : State) (off : Nat) (w : Word) : (s.setReg off w).chm = s.chm := rfl
@[simp] theorem State.setReg_host (s : State) (off : Nat) (w : Word) : (s.setReg off w).host = s.host := rfl
@[simp] theorem State.setReg_hbm (s : State) (off : Nat) (w : Word) : (s.setReg off w).hbm = s.hbm := rfl
@[simp] theorem State.setReg_hostMem (s : State) (off : Nat) (w : Word) : (s.setReg off w).hostMem = s.hostMem := rfl
@[simp] theorem State.setReg_out (s : State) (off : Nat) (w : Word) : (s.setReg off w).out = s.out := rfl
@[simp] theorem State.setReg_free (s : State) (off : Nat) (w : Word) : (s.setReg off w).free = s.free := rfl
@[simp] theorem State.setReg_pending (s : State) (off : Nat) (w : Word) : (s.setReg off w).pending = s.pending := rfl

@[simp] theorem State.setFld_bel (s : State) (off : Nat) (f : Fld) (n : Nat) : (s.setFld off f n).bel = s.bel := rfl
@[simp] theorem State.setFld_mem (s : State) (off : Nat) (f : Fld) (n : Nat) : (s.setFld off f n).mem = s.mem := rfl
@[simp] theorem State.setFld_rfi (s : State) (off : Nat) (f : Fld) (n : Nat) : (s.setFld off f n).rfi = s.rfi := rfl
@[simp] theorem State.setFld_clo (s : State) (off : Nat) (f : Fld) (n : Nat) : (s.setFld off f n).clo = s.clo := rfl
@[simp] theorem State.setFld_nav (s : State) (off : Nat) (f : Fld) (n : Nat) : (s.setFld off f n).nav = s.nav := rfl
@[simp] theorem State.setFld_se (s : State) (off : Nat) (f : Fld) (n : Nat) : (s.setFld off f n).se = s.se := rfl
@[simp] theorem State.setFld_units (s : State) (off : Nat) (f : Fld) (n : Nat) : (s.setFld off f n).units = s.units := rfl
@[simp] theorem State.setFld_cry (s : State) (off : Nat) (f : Fld) (n : Nat) : (s.setFld off f n).cry = s.cry := rfl
@[simp] theorem State.setFld_seq (s : State) (off : Nat) (f : Fld) (n : Nat) : (s.setFld off f n).seq = s.seq := rfl
@[simp] theorem State.setFld_fwl (s : State) (off : Nat) (f : Fld) (n : Nat) : (s.setFld off f n).fwl = s.fwl := rfl
@[simp] theorem State.setFld_spk (s : State) (off : Nat) (f : Fld) (n : Nat) : (s.setFld off f n).spk = s.spk := rfl
@[simp] theorem State.setFld_fhs (s : State) (off : Nat) (f : Fld) (n : Nat) : (s.setFld off f n).fhs = s.fhs := rfl
@[simp] theorem State.setFld_chm (s : State) (off : Nat) (f : Fld) (n : Nat) : (s.setFld off f n).chm = s.chm := rfl
@[simp] theorem State.setFld_host (s : State) (off : Nat) (f : Fld) (n : Nat) : (s.setFld off f n).host = s.host := rfl
@[simp] theorem State.setFld_hbm (s : State) (off : Nat) (f : Fld) (n : Nat) : (s.setFld off f n).hbm = s.hbm := rfl
@[simp] theorem State.setFld_hostMem (s : State) (off : Nat) (f : Fld) (n : Nat) : (s.setFld off f n).hostMem = s.hostMem := rfl
@[simp] theorem State.setFld_out (s : State) (off : Nat) (f : Fld) (n : Nat) : (s.setFld off f n).out = s.out := rfl
@[simp] theorem State.setFld_free (s : State) (off : Nat) (f : Fld) (n : Nat) : (s.setFld off f n).free = s.free := rfl
@[simp] theorem State.setFld_pending (s : State) (off : Nat) (f : Fld) (n : Nat) : (s.setFld off f n).pending = s.pending := rfl

@[simp] theorem State.setFlag_bel (s : State) (off : Nat) (f : Fld) (b : Bool) : (s.setFlag off f b).bel = s.bel := rfl
@[simp] theorem State.setFlag_mem (s : State) (off : Nat) (f : Fld) (b : Bool) : (s.setFlag off f b).mem = s.mem := rfl
@[simp] theorem State.setFlag_rfi (s : State) (off : Nat) (f : Fld) (b : Bool) : (s.setFlag off f b).rfi = s.rfi := rfl
@[simp] theorem State.setFlag_clo (s : State) (off : Nat) (f : Fld) (b : Bool) : (s.setFlag off f b).clo = s.clo := rfl
@[simp] theorem State.setFlag_nav (s : State) (off : Nat) (f : Fld) (b : Bool) : (s.setFlag off f b).nav = s.nav := rfl
@[simp] theorem State.setFlag_se (s : State) (off : Nat) (f : Fld) (b : Bool) : (s.setFlag off f b).se = s.se := rfl
@[simp] theorem State.setFlag_units (s : State) (off : Nat) (f : Fld) (b : Bool) : (s.setFlag off f b).units = s.units := rfl
@[simp] theorem State.setFlag_cry (s : State) (off : Nat) (f : Fld) (b : Bool) : (s.setFlag off f b).cry = s.cry := rfl
@[simp] theorem State.setFlag_seq (s : State) (off : Nat) (f : Fld) (b : Bool) : (s.setFlag off f b).seq = s.seq := rfl
@[simp] theorem State.setFlag_fwl (s : State) (off : Nat) (f : Fld) (b : Bool) : (s.setFlag off f b).fwl = s.fwl := rfl
@[simp] theorem State.setFlag_spk (s : State) (off : Nat) (f : Fld) (b : Bool) : (s.setFlag off f b).spk = s.spk := rfl
@[simp] theorem State.setFlag_fhs (s : State) (off : Nat) (f : Fld) (b : Bool) : (s.setFlag off f b).fhs = s.fhs := rfl
@[simp] theorem State.setFlag_chm (s : State) (off : Nat) (f : Fld) (b : Bool) : (s.setFlag off f b).chm = s.chm := rfl
@[simp] theorem State.setFlag_host (s : State) (off : Nat) (f : Fld) (b : Bool) : (s.setFlag off f b).host = s.host := rfl
@[simp] theorem State.setFlag_hbm (s : State) (off : Nat) (f : Fld) (b : Bool) : (s.setFlag off f b).hbm = s.hbm := rfl
@[simp] theorem State.setFlag_hostMem (s : State) (off : Nat) (f : Fld) (b : Bool) : (s.setFlag off f b).hostMem = s.hostMem := rfl
@[simp] theorem State.setFlag_out (s : State) (off : Nat) (f : Fld) (b : Bool) : (s.setFlag off f b).out = s.out := rfl
@[simp] theorem State.setFlag_free (s : State) (off : Nat) (f : Fld) (b : Bool) : (s.setFlag off f b).free = s.free := rfl
@[simp] theorem State.setFlag_pending (s : State) (off : Nat) (f : Fld) (b : Bool) : (s.setFlag off f b).pending = s.pending := rfl

@[simp] theorem State.addSat_bel (s : State) (off : Nat) (f : Fld) (n : Nat) : (s.addSat off f n).bel = s.bel := rfl
@[simp] theorem State.addSat_mem (s : State) (off : Nat) (f : Fld) (n : Nat) : (s.addSat off f n).mem = s.mem := rfl
@[simp] theorem State.addSat_rfi (s : State) (off : Nat) (f : Fld) (n : Nat) : (s.addSat off f n).rfi = s.rfi := rfl
@[simp] theorem State.addSat_clo (s : State) (off : Nat) (f : Fld) (n : Nat) : (s.addSat off f n).clo = s.clo := rfl
@[simp] theorem State.addSat_nav (s : State) (off : Nat) (f : Fld) (n : Nat) : (s.addSat off f n).nav = s.nav := rfl
@[simp] theorem State.addSat_se (s : State) (off : Nat) (f : Fld) (n : Nat) : (s.addSat off f n).se = s.se := rfl
@[simp] theorem State.addSat_units (s : State) (off : Nat) (f : Fld) (n : Nat) : (s.addSat off f n).units = s.units := rfl
@[simp] theorem State.addSat_cry (s : State) (off : Nat) (f : Fld) (n : Nat) : (s.addSat off f n).cry = s.cry := rfl
@[simp] theorem State.addSat_seq (s : State) (off : Nat) (f : Fld) (n : Nat) : (s.addSat off f n).seq = s.seq := rfl
@[simp] theorem State.addSat_fwl (s : State) (off : Nat) (f : Fld) (n : Nat) : (s.addSat off f n).fwl = s.fwl := rfl
@[simp] theorem State.addSat_spk (s : State) (off : Nat) (f : Fld) (n : Nat) : (s.addSat off f n).spk = s.spk := rfl
@[simp] theorem State.addSat_fhs (s : State) (off : Nat) (f : Fld) (n : Nat) : (s.addSat off f n).fhs = s.fhs := rfl
@[simp] theorem State.addSat_chm (s : State) (off : Nat) (f : Fld) (n : Nat) : (s.addSat off f n).chm = s.chm := rfl
@[simp] theorem State.addSat_host (s : State) (off : Nat) (f : Fld) (n : Nat) : (s.addSat off f n).host = s.host := rfl
@[simp] theorem State.addSat_hbm (s : State) (off : Nat) (f : Fld) (n : Nat) : (s.addSat off f n).hbm = s.hbm := rfl
@[simp] theorem State.addSat_hostMem (s : State) (off : Nat) (f : Fld) (n : Nat) : (s.addSat off f n).hostMem = s.hostMem := rfl
@[simp] theorem State.addSat_out (s : State) (off : Nat) (f : Fld) (n : Nat) : (s.addSat off f n).out = s.out := rfl
@[simp] theorem State.addSat_free (s : State) (off : Nat) (f : Fld) (n : Nat) : (s.addSat off f n).free = s.free := rfl
@[simp] theorem State.addSat_pending (s : State) (off : Nat) (f : Fld) (n : Nat) : (s.addSat off f n).pending = s.pending := rfl

@[simp] theorem State.addWrap_bel (s : State) (off : Nat) (f : Fld) (n : Nat) : (s.addWrap off f n).bel = s.bel := rfl
@[simp] theorem State.addWrap_mem (s : State) (off : Nat) (f : Fld) (n : Nat) : (s.addWrap off f n).mem = s.mem := rfl
@[simp] theorem State.addWrap_rfi (s : State) (off : Nat) (f : Fld) (n : Nat) : (s.addWrap off f n).rfi = s.rfi := rfl
@[simp] theorem State.addWrap_clo (s : State) (off : Nat) (f : Fld) (n : Nat) : (s.addWrap off f n).clo = s.clo := rfl
@[simp] theorem State.addWrap_nav (s : State) (off : Nat) (f : Fld) (n : Nat) : (s.addWrap off f n).nav = s.nav := rfl
@[simp] theorem State.addWrap_se (s : State) (off : Nat) (f : Fld) (n : Nat) : (s.addWrap off f n).se = s.se := rfl
@[simp] theorem State.addWrap_units (s : State) (off : Nat) (f : Fld) (n : Nat) : (s.addWrap off f n).units = s.units := rfl
@[simp] theorem State.addWrap_cry (s : State) (off : Nat) (f : Fld) (n : Nat) : (s.addWrap off f n).cry = s.cry := rfl
@[simp] theorem State.addWrap_seq (s : State) (off : Nat) (f : Fld) (n : Nat) : (s.addWrap off f n).seq = s.seq := rfl
@[simp] theorem State.addWrap_fwl (s : State) (off : Nat) (f : Fld) (n : Nat) : (s.addWrap off f n).fwl = s.fwl := rfl
@[simp] theorem State.addWrap_spk (s : State) (off : Nat) (f : Fld) (n : Nat) : (s.addWrap off f n).spk = s.spk := rfl
@[simp] theorem State.addWrap_fhs (s : State) (off : Nat) (f : Fld) (n : Nat) : (s.addWrap off f n).fhs = s.fhs := rfl
@[simp] theorem State.addWrap_chm (s : State) (off : Nat) (f : Fld) (n : Nat) : (s.addWrap off f n).chm = s.chm := rfl
@[simp] theorem State.addWrap_host (s : State) (off : Nat) (f : Fld) (n : Nat) : (s.addWrap off f n).host = s.host := rfl
@[simp] theorem State.addWrap_hbm (s : State) (off : Nat) (f : Fld) (n : Nat) : (s.addWrap off f n).hbm = s.hbm := rfl
@[simp] theorem State.addWrap_hostMem (s : State) (off : Nat) (f : Fld) (n : Nat) : (s.addWrap off f n).hostMem = s.hostMem := rfl
@[simp] theorem State.addWrap_out (s : State) (off : Nat) (f : Fld) (n : Nat) : (s.addWrap off f n).out = s.out := rfl
@[simp] theorem State.addWrap_free (s : State) (off : Nat) (f : Fld) (n : Nat) : (s.addWrap off f n).free = s.free := rfl
@[simp] theorem State.addWrap_pending (s : State) (off : Nat) (f : Fld) (n : Nat) : (s.addWrap off f n).pending = s.pending := rfl

@[simp] theorem State.setPair_bel (s : State) (lo hi v : Nat) : (s.setPair lo hi v).bel = s.bel := rfl
@[simp] theorem State.setPair_mem (s : State) (lo hi v : Nat) : (s.setPair lo hi v).mem = s.mem := rfl
@[simp] theorem State.setPair_rfi (s : State) (lo hi v : Nat) : (s.setPair lo hi v).rfi = s.rfi := rfl
@[simp] theorem State.setPair_clo (s : State) (lo hi v : Nat) : (s.setPair lo hi v).clo = s.clo := rfl
@[simp] theorem State.setPair_nav (s : State) (lo hi v : Nat) : (s.setPair lo hi v).nav = s.nav := rfl
@[simp] theorem State.setPair_se (s : State) (lo hi v : Nat) : (s.setPair lo hi v).se = s.se := rfl
@[simp] theorem State.setPair_units (s : State) (lo hi v : Nat) : (s.setPair lo hi v).units = s.units := rfl
@[simp] theorem State.setPair_cry (s : State) (lo hi v : Nat) : (s.setPair lo hi v).cry = s.cry := rfl
@[simp] theorem State.setPair_seq (s : State) (lo hi v : Nat) : (s.setPair lo hi v).seq = s.seq := rfl
@[simp] theorem State.setPair_fwl (s : State) (lo hi v : Nat) : (s.setPair lo hi v).fwl = s.fwl := rfl
@[simp] theorem State.setPair_spk (s : State) (lo hi v : Nat) : (s.setPair lo hi v).spk = s.spk := rfl
@[simp] theorem State.setPair_fhs (s : State) (lo hi v : Nat) : (s.setPair lo hi v).fhs = s.fhs := rfl
@[simp] theorem State.setPair_chm (s : State) (lo hi v : Nat) : (s.setPair lo hi v).chm = s.chm := rfl
@[simp] theorem State.setPair_host (s : State) (lo hi v : Nat) : (s.setPair lo hi v).host = s.host := rfl
@[simp] theorem State.setPair_hbm (s : State) (lo hi v : Nat) : (s.setPair lo hi v).hbm = s.hbm := rfl
@[simp] theorem State.setPair_hostMem (s : State) (lo hi v : Nat) : (s.setPair lo hi v).hostMem = s.hostMem := rfl
@[simp] theorem State.setPair_out (s : State) (lo hi v : Nat) : (s.setPair lo hi v).out = s.out := rfl
@[simp] theorem State.setPair_free (s : State) (lo hi v : Nat) : (s.setPair lo hi v).free = s.free := rfl
@[simp] theorem State.setPair_pending (s : State) (lo hi v : Nat) : (s.setPair lo hi v).pending = s.pending := rfl

@[simp] theorem State.emit_regs (s : State) (m : OutMsg) : (s.emit m).regs = s.regs := rfl
@[simp] theorem State.emit_bel (s : State) (m : OutMsg) : (s.emit m).bel = s.bel := rfl
@[simp] theorem State.emit_mem (s : State) (m : OutMsg) : (s.emit m).mem = s.mem := rfl
@[simp] theorem State.emit_rfi (s : State) (m : OutMsg) : (s.emit m).rfi = s.rfi := rfl
@[simp] theorem State.emit_clo (s : State) (m : OutMsg) : (s.emit m).clo = s.clo := rfl
@[simp] theorem State.emit_nav (s : State) (m : OutMsg) : (s.emit m).nav = s.nav := rfl
@[simp] theorem State.emit_se (s : State) (m : OutMsg) : (s.emit m).se = s.se := rfl
@[simp] theorem State.emit_units (s : State) (m : OutMsg) : (s.emit m).units = s.units := rfl
@[simp] theorem State.emit_cry (s : State) (m : OutMsg) : (s.emit m).cry = s.cry := rfl
@[simp] theorem State.emit_seq (s : State) (m : OutMsg) : (s.emit m).seq = s.seq := rfl
@[simp] theorem State.emit_fwl (s : State) (m : OutMsg) : (s.emit m).fwl = s.fwl := rfl
@[simp] theorem State.emit_spk (s : State) (m : OutMsg) : (s.emit m).spk = s.spk := rfl
@[simp] theorem State.emit_fhs (s : State) (m : OutMsg) : (s.emit m).fhs = s.fhs := rfl
@[simp] theorem State.emit_chm (s : State) (m : OutMsg) : (s.emit m).chm = s.chm := rfl
@[simp] theorem State.emit_host (s : State) (m : OutMsg) : (s.emit m).host = s.host := rfl
@[simp] theorem State.emit_hbm (s : State) (m : OutMsg) : (s.emit m).hbm = s.hbm := rfl
@[simp] theorem State.emit_hostMem (s : State) (m : OutMsg) : (s.emit m).hostMem = s.hostMem := rfl
@[simp] theorem State.emit_free (s : State) (m : OutMsg) : (s.emit m).free = s.free := rfl
@[simp] theorem State.emit_pending (s : State) (m : OutMsg) : (s.emit m).pending = s.pending := rfl

@[simp] theorem State.setRing_regs (s : State) (f k : Nat) (r : Ring) : (s.setRing f k r).regs = s.regs := rfl
@[simp] theorem State.setRing_bel (s : State) (f k : Nat) (r : Ring) : (s.setRing f k r).bel = s.bel := rfl
@[simp] theorem State.setRing_mem (s : State) (f k : Nat) (r : Ring) : (s.setRing f k r).mem = s.mem := rfl
@[simp] theorem State.setRing_rfi (s : State) (f k : Nat) (r : Ring) : (s.setRing f k r).rfi = s.rfi := rfl
@[simp] theorem State.setRing_clo (s : State) (f k : Nat) (r : Ring) : (s.setRing f k r).clo = s.clo := rfl
@[simp] theorem State.setRing_nav (s : State) (f k : Nat) (r : Ring) : (s.setRing f k r).nav = s.nav := rfl
@[simp] theorem State.setRing_se (s : State) (f k : Nat) (r : Ring) : (s.setRing f k r).se = s.se := rfl
@[simp] theorem State.setRing_units (s : State) (f k : Nat) (r : Ring) : (s.setRing f k r).units = s.units := rfl
@[simp] theorem State.setRing_cry (s : State) (f k : Nat) (r : Ring) : (s.setRing f k r).cry = s.cry := rfl
@[simp] theorem State.setRing_seq (s : State) (f k : Nat) (r : Ring) : (s.setRing f k r).seq = s.seq := rfl
@[simp] theorem State.setRing_fwl (s : State) (f k : Nat) (r : Ring) : (s.setRing f k r).fwl = s.fwl := rfl
@[simp] theorem State.setRing_spk (s : State) (f k : Nat) (r : Ring) : (s.setRing f k r).spk = s.spk := rfl
@[simp] theorem State.setRing_fhs (s : State) (f k : Nat) (r : Ring) : (s.setRing f k r).fhs = s.fhs := rfl
@[simp] theorem State.setRing_chm (s : State) (f k : Nat) (r : Ring) : (s.setRing f k r).chm = s.chm := rfl
@[simp] theorem State.setRing_hbm (s : State) (f k : Nat) (r : Ring) : (s.setRing f k r).hbm = s.hbm := rfl
@[simp] theorem State.setRing_hostMem (s : State) (f k : Nat) (r : Ring) : (s.setRing f k r).hostMem = s.hostMem := rfl
@[simp] theorem State.setRing_out (s : State) (f k : Nat) (r : Ring) : (s.setRing f k r).out = s.out := rfl
@[simp] theorem State.setRing_free (s : State) (f k : Nat) (r : Ring) : (s.setRing f k r).free = s.free := rfl
@[simp] theorem State.setRing_pending (s : State) (f k : Nat) (r : Ring) : (s.setRing f k r).pending = s.pending := rfl

@[simp] theorem State.setGen_regs (s : State) (g : Nat) (x : Gen) : (s.setGen g x).regs = s.regs := rfl
@[simp] theorem State.setGen_mem (s : State) (g : Nat) (x : Gen) : (s.setGen g x).mem = s.mem := rfl
@[simp] theorem State.setGen_rfi (s : State) (g : Nat) (x : Gen) : (s.setGen g x).rfi = s.rfi := rfl
@[simp] theorem State.setGen_clo (s : State) (g : Nat) (x : Gen) : (s.setGen g x).clo = s.clo := rfl
@[simp] theorem State.setGen_nav (s : State) (g : Nat) (x : Gen) : (s.setGen g x).nav = s.nav := rfl
@[simp] theorem State.setGen_se (s : State) (g : Nat) (x : Gen) : (s.setGen g x).se = s.se := rfl
@[simp] theorem State.setGen_units (s : State) (g : Nat) (x : Gen) : (s.setGen g x).units = s.units := rfl
@[simp] theorem State.setGen_cry (s : State) (g : Nat) (x : Gen) : (s.setGen g x).cry = s.cry := rfl
@[simp] theorem State.setGen_seq (s : State) (g : Nat) (x : Gen) : (s.setGen g x).seq = s.seq := rfl
@[simp] theorem State.setGen_fwl (s : State) (g : Nat) (x : Gen) : (s.setGen g x).fwl = s.fwl := rfl
@[simp] theorem State.setGen_spk (s : State) (g : Nat) (x : Gen) : (s.setGen g x).spk = s.spk := rfl
@[simp] theorem State.setGen_fhs (s : State) (g : Nat) (x : Gen) : (s.setGen g x).fhs = s.fhs := rfl
@[simp] theorem State.setGen_chm (s : State) (g : Nat) (x : Gen) : (s.setGen g x).chm = s.chm := rfl
@[simp] theorem State.setGen_host (s : State) (g : Nat) (x : Gen) : (s.setGen g x).host = s.host := rfl
@[simp] theorem State.setGen_hbm (s : State) (g : Nat) (x : Gen) : (s.setGen g x).hbm = s.hbm := rfl
@[simp] theorem State.setGen_hostMem (s : State) (g : Nat) (x : Gen) : (s.setGen g x).hostMem = s.hostMem := rfl
@[simp] theorem State.setGen_out (s : State) (g : Nat) (x : Gen) : (s.setGen g x).out = s.out := rfl
@[simp] theorem State.setGen_free (s : State) (g : Nat) (x : Gen) : (s.setGen g x).free = s.free := rfl
@[simp] theorem State.setGen_pending (s : State) (g : Nat) (x : Gen) : (s.setGen g x).pending = s.pending := rfl

@[simp] theorem State.setCmp_regs (s : State) (c : Nat) (x : Cmp) : (s.setCmp c x).regs = s.regs := rfl
@[simp] theorem State.setCmp_mem (s : State) (c : Nat) (x : Cmp) : (s.setCmp c x).mem = s.mem := rfl
@[simp] theorem State.setCmp_rfi (s : State) (c : Nat) (x : Cmp) : (s.setCmp c x).rfi = s.rfi := rfl
@[simp] theorem State.setCmp_clo (s : State) (c : Nat) (x : Cmp) : (s.setCmp c x).clo = s.clo := rfl
@[simp] theorem State.setCmp_nav (s : State) (c : Nat) (x : Cmp) : (s.setCmp c x).nav = s.nav := rfl
@[simp] theorem State.setCmp_se (s : State) (c : Nat) (x : Cmp) : (s.setCmp c x).se = s.se := rfl
@[simp] theorem State.setCmp_units (s : State) (c : Nat) (x : Cmp) : (s.setCmp c x).units = s.units := rfl
@[simp] theorem State.setCmp_cry (s : State) (c : Nat) (x : Cmp) : (s.setCmp c x).cry = s.cry := rfl
@[simp] theorem State.setCmp_seq (s : State) (c : Nat) (x : Cmp) : (s.setCmp c x).seq = s.seq := rfl
@[simp] theorem State.setCmp_fwl (s : State) (c : Nat) (x : Cmp) : (s.setCmp c x).fwl = s.fwl := rfl
@[simp] theorem State.setCmp_spk (s : State) (c : Nat) (x : Cmp) : (s.setCmp c x).spk = s.spk := rfl
@[simp] theorem State.setCmp_fhs (s : State) (c : Nat) (x : Cmp) : (s.setCmp c x).fhs = s.fhs := rfl
@[simp] theorem State.setCmp_chm (s : State) (c : Nat) (x : Cmp) : (s.setCmp c x).chm = s.chm := rfl
@[simp] theorem State.setCmp_host (s : State) (c : Nat) (x : Cmp) : (s.setCmp c x).host = s.host := rfl
@[simp] theorem State.setCmp_hbm (s : State) (c : Nat) (x : Cmp) : (s.setCmp c x).hbm = s.hbm := rfl
@[simp] theorem State.setCmp_hostMem (s : State) (c : Nat) (x : Cmp) : (s.setCmp c x).hostMem = s.hostMem := rfl
@[simp] theorem State.setCmp_out (s : State) (c : Nat) (x : Cmp) : (s.setCmp c x).out = s.out := rfl
@[simp] theorem State.setCmp_free (s : State) (c : Nat) (x : Cmp) : (s.setCmp c x).free = s.free := rfl
@[simp] theorem State.setCmp_pending (s : State) (c : Nat) (x : Cmp) : (s.setCmp c x).pending = s.pending := rfl

@[simp] theorem State.setRxAnt_regs (s : State) (a : Nat) (x : RxAnt) : (s.setRxAnt a x).regs = s.regs := rfl
@[simp] theorem State.setRxAnt_bel (s : State) (a : Nat) (x : RxAnt) : (s.setRxAnt a x).bel = s.bel := rfl
@[simp] theorem State.setRxAnt_mem (s : State) (a : Nat) (x : RxAnt) : (s.setRxAnt a x).mem = s.mem := rfl
@[simp] theorem State.setRxAnt_clo (s : State) (a : Nat) (x : RxAnt) : (s.setRxAnt a x).clo = s.clo := rfl
@[simp] theorem State.setRxAnt_nav (s : State) (a : Nat) (x : RxAnt) : (s.setRxAnt a x).nav = s.nav := rfl
@[simp] theorem State.setRxAnt_se (s : State) (a : Nat) (x : RxAnt) : (s.setRxAnt a x).se = s.se := rfl
@[simp] theorem State.setRxAnt_units (s : State) (a : Nat) (x : RxAnt) : (s.setRxAnt a x).units = s.units := rfl
@[simp] theorem State.setRxAnt_cry (s : State) (a : Nat) (x : RxAnt) : (s.setRxAnt a x).cry = s.cry := rfl
@[simp] theorem State.setRxAnt_seq (s : State) (a : Nat) (x : RxAnt) : (s.setRxAnt a x).seq = s.seq := rfl
@[simp] theorem State.setRxAnt_fwl (s : State) (a : Nat) (x : RxAnt) : (s.setRxAnt a x).fwl = s.fwl := rfl
@[simp] theorem State.setRxAnt_spk (s : State) (a : Nat) (x : RxAnt) : (s.setRxAnt a x).spk = s.spk := rfl
@[simp] theorem State.setRxAnt_fhs (s : State) (a : Nat) (x : RxAnt) : (s.setRxAnt a x).fhs = s.fhs := rfl
@[simp] theorem State.setRxAnt_chm (s : State) (a : Nat) (x : RxAnt) : (s.setRxAnt a x).chm = s.chm := rfl
@[simp] theorem State.setRxAnt_host (s : State) (a : Nat) (x : RxAnt) : (s.setRxAnt a x).host = s.host := rfl
@[simp] theorem State.setRxAnt_hbm (s : State) (a : Nat) (x : RxAnt) : (s.setRxAnt a x).hbm = s.hbm := rfl
@[simp] theorem State.setRxAnt_hostMem (s : State) (a : Nat) (x : RxAnt) : (s.setRxAnt a x).hostMem = s.hostMem := rfl
@[simp] theorem State.setRxAnt_out (s : State) (a : Nat) (x : RxAnt) : (s.setRxAnt a x).out = s.out := rfl
@[simp] theorem State.setRxAnt_free (s : State) (a : Nat) (x : RxAnt) : (s.setRxAnt a x).free = s.free := rfl
@[simp] theorem State.setRxAnt_pending (s : State) (a : Nat) (x : RxAnt) : (s.setRxAnt a x).pending = s.pending := rfl

@[simp] theorem State.setTxChain_regs (s : State) (t : Nat) (x : TxChain) : (s.setTxChain t x).regs = s.regs := rfl
@[simp] theorem State.setTxChain_bel (s : State) (t : Nat) (x : TxChain) : (s.setTxChain t x).bel = s.bel := rfl
@[simp] theorem State.setTxChain_mem (s : State) (t : Nat) (x : TxChain) : (s.setTxChain t x).mem = s.mem := rfl
@[simp] theorem State.setTxChain_clo (s : State) (t : Nat) (x : TxChain) : (s.setTxChain t x).clo = s.clo := rfl
@[simp] theorem State.setTxChain_nav (s : State) (t : Nat) (x : TxChain) : (s.setTxChain t x).nav = s.nav := rfl
@[simp] theorem State.setTxChain_se (s : State) (t : Nat) (x : TxChain) : (s.setTxChain t x).se = s.se := rfl
@[simp] theorem State.setTxChain_units (s : State) (t : Nat) (x : TxChain) : (s.setTxChain t x).units = s.units := rfl
@[simp] theorem State.setTxChain_cry (s : State) (t : Nat) (x : TxChain) : (s.setTxChain t x).cry = s.cry := rfl
@[simp] theorem State.setTxChain_seq (s : State) (t : Nat) (x : TxChain) : (s.setTxChain t x).seq = s.seq := rfl
@[simp] theorem State.setTxChain_fwl (s : State) (t : Nat) (x : TxChain) : (s.setTxChain t x).fwl = s.fwl := rfl
@[simp] theorem State.setTxChain_spk (s : State) (t : Nat) (x : TxChain) : (s.setTxChain t x).spk = s.spk := rfl
@[simp] theorem State.setTxChain_fhs (s : State) (t : Nat) (x : TxChain) : (s.setTxChain t x).fhs = s.fhs := rfl
@[simp] theorem State.setTxChain_chm (s : State) (t : Nat) (x : TxChain) : (s.setTxChain t x).chm = s.chm := rfl
@[simp] theorem State.setTxChain_host (s : State) (t : Nat) (x : TxChain) : (s.setTxChain t x).host = s.host := rfl
@[simp] theorem State.setTxChain_hbm (s : State) (t : Nat) (x : TxChain) : (s.setTxChain t x).hbm = s.hbm := rfl
@[simp] theorem State.setTxChain_hostMem (s : State) (t : Nat) (x : TxChain) : (s.setTxChain t x).hostMem = s.hostMem := rfl
@[simp] theorem State.setTxChain_out (s : State) (t : Nat) (x : TxChain) : (s.setTxChain t x).out = s.out := rfl
@[simp] theorem State.setTxChain_free (s : State) (t : Nat) (x : TxChain) : (s.setTxChain t x).free = s.free := rfl
@[simp] theorem State.setTxChain_pending (s : State) (t : Nat) (x : TxChain) : (s.setTxChain t x).pending = s.pending := rfl

@[simp] theorem State.setAgc_regs (s : State) (a : Nat) (x : Agc) : (s.setAgc a x).regs = s.regs := rfl
@[simp] theorem State.setAgc_bel (s : State) (a : Nat) (x : Agc) : (s.setAgc a x).bel = s.bel := rfl
@[simp] theorem State.setAgc_mem (s : State) (a : Nat) (x : Agc) : (s.setAgc a x).mem = s.mem := rfl
@[simp] theorem State.setAgc_clo (s : State) (a : Nat) (x : Agc) : (s.setAgc a x).clo = s.clo := rfl
@[simp] theorem State.setAgc_nav (s : State) (a : Nat) (x : Agc) : (s.setAgc a x).nav = s.nav := rfl
@[simp] theorem State.setAgc_se (s : State) (a : Nat) (x : Agc) : (s.setAgc a x).se = s.se := rfl
@[simp] theorem State.setAgc_units (s : State) (a : Nat) (x : Agc) : (s.setAgc a x).units = s.units := rfl
@[simp] theorem State.setAgc_cry (s : State) (a : Nat) (x : Agc) : (s.setAgc a x).cry = s.cry := rfl
@[simp] theorem State.setAgc_seq (s : State) (a : Nat) (x : Agc) : (s.setAgc a x).seq = s.seq := rfl
@[simp] theorem State.setAgc_fwl (s : State) (a : Nat) (x : Agc) : (s.setAgc a x).fwl = s.fwl := rfl
@[simp] theorem State.setAgc_spk (s : State) (a : Nat) (x : Agc) : (s.setAgc a x).spk = s.spk := rfl
@[simp] theorem State.setAgc_fhs (s : State) (a : Nat) (x : Agc) : (s.setAgc a x).fhs = s.fhs := rfl
@[simp] theorem State.setAgc_chm (s : State) (a : Nat) (x : Agc) : (s.setAgc a x).chm = s.chm := rfl
@[simp] theorem State.setAgc_host (s : State) (a : Nat) (x : Agc) : (s.setAgc a x).host = s.host := rfl
@[simp] theorem State.setAgc_hbm (s : State) (a : Nat) (x : Agc) : (s.setAgc a x).hbm = s.hbm := rfl
@[simp] theorem State.setAgc_hostMem (s : State) (a : Nat) (x : Agc) : (s.setAgc a x).hostMem = s.hostMem := rfl
@[simp] theorem State.setAgc_out (s : State) (a : Nat) (x : Agc) : (s.setAgc a x).out = s.out := rfl
@[simp] theorem State.setAgc_free (s : State) (a : Nat) (x : Agc) : (s.setAgc a x).free = s.free := rfl
@[simp] theorem State.setAgc_pending (s : State) (a : Nat) (x : Agc) : (s.setAgc a x).pending = s.pending := rfl

@[simp] theorem State.setRadioCell_regs (s : State) (c : Nat) (x : RadioCell) : (s.setRadioCell c x).regs = s.regs := rfl
@[simp] theorem State.setRadioCell_bel (s : State) (c : Nat) (x : RadioCell) : (s.setRadioCell c x).bel = s.bel := rfl
@[simp] theorem State.setRadioCell_mem (s : State) (c : Nat) (x : RadioCell) : (s.setRadioCell c x).mem = s.mem := rfl
@[simp] theorem State.setRadioCell_clo (s : State) (c : Nat) (x : RadioCell) : (s.setRadioCell c x).clo = s.clo := rfl
@[simp] theorem State.setRadioCell_nav (s : State) (c : Nat) (x : RadioCell) : (s.setRadioCell c x).nav = s.nav := rfl
@[simp] theorem State.setRadioCell_se (s : State) (c : Nat) (x : RadioCell) : (s.setRadioCell c x).se = s.se := rfl
@[simp] theorem State.setRadioCell_units (s : State) (c : Nat) (x : RadioCell) : (s.setRadioCell c x).units = s.units := rfl
@[simp] theorem State.setRadioCell_cry (s : State) (c : Nat) (x : RadioCell) : (s.setRadioCell c x).cry = s.cry := rfl
@[simp] theorem State.setRadioCell_seq (s : State) (c : Nat) (x : RadioCell) : (s.setRadioCell c x).seq = s.seq := rfl
@[simp] theorem State.setRadioCell_fwl (s : State) (c : Nat) (x : RadioCell) : (s.setRadioCell c x).fwl = s.fwl := rfl
@[simp] theorem State.setRadioCell_spk (s : State) (c : Nat) (x : RadioCell) : (s.setRadioCell c x).spk = s.spk := rfl
@[simp] theorem State.setRadioCell_fhs (s : State) (c : Nat) (x : RadioCell) : (s.setRadioCell c x).fhs = s.fhs := rfl
@[simp] theorem State.setRadioCell_chm (s : State) (c : Nat) (x : RadioCell) : (s.setRadioCell c x).chm = s.chm := rfl
@[simp] theorem State.setRadioCell_host (s : State) (c : Nat) (x : RadioCell) : (s.setRadioCell c x).host = s.host := rfl
@[simp] theorem State.setRadioCell_hbm (s : State) (c : Nat) (x : RadioCell) : (s.setRadioCell c x).hbm = s.hbm := rfl
@[simp] theorem State.setRadioCell_hostMem (s : State) (c : Nat) (x : RadioCell) : (s.setRadioCell c x).hostMem = s.hostMem := rfl
@[simp] theorem State.setRadioCell_out (s : State) (c : Nat) (x : RadioCell) : (s.setRadioCell c x).out = s.out := rfl
@[simp] theorem State.setRadioCell_free (s : State) (c : Nat) (x : RadioCell) : (s.setRadioCell c x).free = s.free := rfl
@[simp] theorem State.setRadioCell_pending (s : State) (c : Nat) (x : RadioCell) : (s.setRadioCell c x).pending = s.pending := rfl

@[simp] theorem State.setIsl_regs (s : State) (cl : Bool) (x : IslandSt) : (s.setIsl cl x).regs = s.regs := rfl
@[simp] theorem State.setIsl_bel (s : State) (cl : Bool) (x : IslandSt) : (s.setIsl cl x).bel = s.bel := rfl
@[simp] theorem State.setIsl_mem (s : State) (cl : Bool) (x : IslandSt) : (s.setIsl cl x).mem = s.mem := rfl
@[simp] theorem State.setIsl_rfi (s : State) (cl : Bool) (x : IslandSt) : (s.setIsl cl x).rfi = s.rfi := rfl
@[simp] theorem State.setIsl_clo (s : State) (cl : Bool) (x : IslandSt) : (s.setIsl cl x).clo = s.clo := rfl
@[simp] theorem State.setIsl_nav (s : State) (cl : Bool) (x : IslandSt) : (s.setIsl cl x).nav = s.nav := rfl
@[simp] theorem State.setIsl_se (s : State) (cl : Bool) (x : IslandSt) : (s.setIsl cl x).se = s.se := rfl
@[simp] theorem State.setIsl_units (s : State) (cl : Bool) (x : IslandSt) : (s.setIsl cl x).units = s.units := rfl
@[simp] theorem State.setIsl_cry (s : State) (cl : Bool) (x : IslandSt) : (s.setIsl cl x).cry = s.cry := rfl
@[simp] theorem State.setIsl_seq (s : State) (cl : Bool) (x : IslandSt) : (s.setIsl cl x).seq = s.seq := rfl
@[simp] theorem State.setIsl_fwl (s : State) (cl : Bool) (x : IslandSt) : (s.setIsl cl x).fwl = s.fwl := rfl
@[simp] theorem State.setIsl_spk (s : State) (cl : Bool) (x : IslandSt) : (s.setIsl cl x).spk = s.spk := rfl
@[simp] theorem State.setIsl_fhs (s : State) (cl : Bool) (x : IslandSt) : (s.setIsl cl x).fhs = s.fhs := rfl
@[simp] theorem State.setIsl_host (s : State) (cl : Bool) (x : IslandSt) : (s.setIsl cl x).host = s.host := rfl
@[simp] theorem State.setIsl_hbm (s : State) (cl : Bool) (x : IslandSt) : (s.setIsl cl x).hbm = s.hbm := rfl
@[simp] theorem State.setIsl_hostMem (s : State) (cl : Bool) (x : IslandSt) : (s.setIsl cl x).hostMem = s.hostMem := rfl
@[simp] theorem State.setIsl_out (s : State) (cl : Bool) (x : IslandSt) : (s.setIsl cl x).out = s.out := rfl
@[simp] theorem State.setIsl_free (s : State) (cl : Bool) (x : IslandSt) : (s.setIsl cl x).free = s.free := rfl
@[simp] theorem State.setIsl_pending (s : State) (cl : Bool) (x : IslandSt) : (s.setIsl cl x).pending = s.pending := rfl

@[simp] theorem State.setTile_regs (s : State) (t : Nat) (x : Tile) : (s.setTile t x).regs = s.regs := rfl
@[simp] theorem State.setTile_bel (s : State) (t : Nat) (x : Tile) : (s.setTile t x).bel = s.bel := rfl
@[simp] theorem State.setTile_mem (s : State) (t : Nat) (x : Tile) : (s.setTile t x).mem = s.mem := rfl
@[simp] theorem State.setTile_rfi (s : State) (t : Nat) (x : Tile) : (s.setTile t x).rfi = s.rfi := rfl
@[simp] theorem State.setTile_clo (s : State) (t : Nat) (x : Tile) : (s.setTile t x).clo = s.clo := rfl
@[simp] theorem State.setTile_se (s : State) (t : Nat) (x : Tile) : (s.setTile t x).se = s.se := rfl
@[simp] theorem State.setTile_units (s : State) (t : Nat) (x : Tile) : (s.setTile t x).units = s.units := rfl
@[simp] theorem State.setTile_cry (s : State) (t : Nat) (x : Tile) : (s.setTile t x).cry = s.cry := rfl
@[simp] theorem State.setTile_seq (s : State) (t : Nat) (x : Tile) : (s.setTile t x).seq = s.seq := rfl
@[simp] theorem State.setTile_fwl (s : State) (t : Nat) (x : Tile) : (s.setTile t x).fwl = s.fwl := rfl
@[simp] theorem State.setTile_spk (s : State) (t : Nat) (x : Tile) : (s.setTile t x).spk = s.spk := rfl
@[simp] theorem State.setTile_fhs (s : State) (t : Nat) (x : Tile) : (s.setTile t x).fhs = s.fhs := rfl
@[simp] theorem State.setTile_chm (s : State) (t : Nat) (x : Tile) : (s.setTile t x).chm = s.chm := rfl
@[simp] theorem State.setTile_host (s : State) (t : Nat) (x : Tile) : (s.setTile t x).host = s.host := rfl
@[simp] theorem State.setTile_hbm (s : State) (t : Nat) (x : Tile) : (s.setTile t x).hbm = s.hbm := rfl
@[simp] theorem State.setTile_hostMem (s : State) (t : Nat) (x : Tile) : (s.setTile t x).hostMem = s.hostMem := rfl
@[simp] theorem State.setTile_out (s : State) (t : Nat) (x : Tile) : (s.setTile t x).out = s.out := rfl
@[simp] theorem State.setTile_free (s : State) (t : Nat) (x : Tile) : (s.setTile t x).free = s.free := rfl
@[simp] theorem State.setTile_pending (s : State) (t : Nat) (x : Tile) : (s.setTile t x).pending = s.pending := rfl

@[simp] theorem State.setCore_regs (s : State) (c : Nat) (x : Core) : (s.setCore c x).regs = s.regs := rfl
@[simp] theorem State.setCore_bel (s : State) (c : Nat) (x : Core) : (s.setCore c x).bel = s.bel := rfl
@[simp] theorem State.setCore_mem (s : State) (c : Nat) (x : Core) : (s.setCore c x).mem = s.mem := rfl
@[simp] theorem State.setCore_rfi (s : State) (c : Nat) (x : Core) : (s.setCore c x).rfi = s.rfi := rfl
@[simp] theorem State.setCore_nav (s : State) (c : Nat) (x : Core) : (s.setCore c x).nav = s.nav := rfl
@[simp] theorem State.setCore_se (s : State) (c : Nat) (x : Core) : (s.setCore c x).se = s.se := rfl
@[simp] theorem State.setCore_units (s : State) (c : Nat) (x : Core) : (s.setCore c x).units = s.units := rfl
@[simp] theorem State.setCore_cry (s : State) (c : Nat) (x : Core) : (s.setCore c x).cry = s.cry := rfl
@[simp] theorem State.setCore_seq (s : State) (c : Nat) (x : Core) : (s.setCore c x).seq = s.seq := rfl
@[simp] theorem State.setCore_fwl (s : State) (c : Nat) (x : Core) : (s.setCore c x).fwl = s.fwl := rfl
@[simp] theorem State.setCore_spk (s : State) (c : Nat) (x : Core) : (s.setCore c x).spk = s.spk := rfl
@[simp] theorem State.setCore_fhs (s : State) (c : Nat) (x : Core) : (s.setCore c x).fhs = s.fhs := rfl
@[simp] theorem State.setCore_chm (s : State) (c : Nat) (x : Core) : (s.setCore c x).chm = s.chm := rfl
@[simp] theorem State.setCore_host (s : State) (c : Nat) (x : Core) : (s.setCore c x).host = s.host := rfl
@[simp] theorem State.setCore_hbm (s : State) (c : Nat) (x : Core) : (s.setCore c x).hbm = s.hbm := rfl
@[simp] theorem State.setCore_hostMem (s : State) (c : Nat) (x : Core) : (s.setCore c x).hostMem = s.hostMem := rfl
@[simp] theorem State.setCore_out (s : State) (c : Nat) (x : Core) : (s.setCore c x).out = s.out := rfl
@[simp] theorem State.setCore_free (s : State) (c : Nat) (x : Core) : (s.setCore c x).free = s.free := rfl
@[simp] theorem State.setCore_pending (s : State) (c : Nat) (x : Core) : (s.setCore c x).pending = s.pending := rfl

@[simp] theorem State.setChan_regs (s : State) (c : Nat) (x : Chan) : (s.setChan c x).regs = s.regs := rfl
@[simp] theorem State.setChan_bel (s : State) (c : Nat) (x : Chan) : (s.setChan c x).bel = s.bel := rfl
@[simp] theorem State.setChan_mem (s : State) (c : Nat) (x : Chan) : (s.setChan c x).mem = s.mem := rfl
@[simp] theorem State.setChan_rfi (s : State) (c : Nat) (x : Chan) : (s.setChan c x).rfi = s.rfi := rfl
@[simp] theorem State.setChan_clo (s : State) (c : Nat) (x : Chan) : (s.setChan c x).clo = s.clo := rfl
@[simp] theorem State.setChan_nav (s : State) (c : Nat) (x : Chan) : (s.setChan c x).nav = s.nav := rfl
@[simp] theorem State.setChan_units (s : State) (c : Nat) (x : Chan) : (s.setChan c x).units = s.units := rfl
@[simp] theorem State.setChan_cry (s : State) (c : Nat) (x : Chan) : (s.setChan c x).cry = s.cry := rfl
@[simp] theorem State.setChan_seq (s : State) (c : Nat) (x : Chan) : (s.setChan c x).seq = s.seq := rfl
@[simp] theorem State.setChan_fwl (s : State) (c : Nat) (x : Chan) : (s.setChan c x).fwl = s.fwl := rfl
@[simp] theorem State.setChan_spk (s : State) (c : Nat) (x : Chan) : (s.setChan c x).spk = s.spk := rfl
@[simp] theorem State.setChan_fhs (s : State) (c : Nat) (x : Chan) : (s.setChan c x).fhs = s.fhs := rfl
@[simp] theorem State.setChan_chm (s : State) (c : Nat) (x : Chan) : (s.setChan c x).chm = s.chm := rfl
@[simp] theorem State.setChan_host (s : State) (c : Nat) (x : Chan) : (s.setChan c x).host = s.host := rfl
@[simp] theorem State.setChan_hbm (s : State) (c : Nat) (x : Chan) : (s.setChan c x).hbm = s.hbm := rfl
@[simp] theorem State.setChan_hostMem (s : State) (c : Nat) (x : Chan) : (s.setChan c x).hostMem = s.hostMem := rfl
@[simp] theorem State.setChan_out (s : State) (c : Nat) (x : Chan) : (s.setChan c x).out = s.out := rfl
@[simp] theorem State.setChan_free (s : State) (c : Nat) (x : Chan) : (s.setChan c x).free = s.free := rfl
@[simp] theorem State.setChan_pending (s : State) (c : Nat) (x : Chan) : (s.setChan c x).pending = s.pending := rfl

@[simp] theorem State.setSem_regs (s : State) (p : Nat) (x : Sem) : (s.setSem p x).regs = s.regs := rfl
@[simp] theorem State.setSem_bel (s : State) (p : Nat) (x : Sem) : (s.setSem p x).bel = s.bel := rfl
@[simp] theorem State.setSem_mem (s : State) (p : Nat) (x : Sem) : (s.setSem p x).mem = s.mem := rfl
@[simp] theorem State.setSem_rfi (s : State) (p : Nat) (x : Sem) : (s.setSem p x).rfi = s.rfi := rfl
@[simp] theorem State.setSem_clo (s : State) (p : Nat) (x : Sem) : (s.setSem p x).clo = s.clo := rfl
@[simp] theorem State.setSem_nav (s : State) (p : Nat) (x : Sem) : (s.setSem p x).nav = s.nav := rfl
@[simp] theorem State.setSem_units (s : State) (p : Nat) (x : Sem) : (s.setSem p x).units = s.units := rfl
@[simp] theorem State.setSem_cry (s : State) (p : Nat) (x : Sem) : (s.setSem p x).cry = s.cry := rfl
@[simp] theorem State.setSem_seq (s : State) (p : Nat) (x : Sem) : (s.setSem p x).seq = s.seq := rfl
@[simp] theorem State.setSem_fwl (s : State) (p : Nat) (x : Sem) : (s.setSem p x).fwl = s.fwl := rfl
@[simp] theorem State.setSem_spk (s : State) (p : Nat) (x : Sem) : (s.setSem p x).spk = s.spk := rfl
@[simp] theorem State.setSem_fhs (s : State) (p : Nat) (x : Sem) : (s.setSem p x).fhs = s.fhs := rfl
@[simp] theorem State.setSem_chm (s : State) (p : Nat) (x : Sem) : (s.setSem p x).chm = s.chm := rfl
@[simp] theorem State.setSem_host (s : State) (p : Nat) (x : Sem) : (s.setSem p x).host = s.host := rfl
@[simp] theorem State.setSem_hbm (s : State) (p : Nat) (x : Sem) : (s.setSem p x).hbm = s.hbm := rfl
@[simp] theorem State.setSem_hostMem (s : State) (p : Nat) (x : Sem) : (s.setSem p x).hostMem = s.hostMem := rfl
@[simp] theorem State.setSem_out (s : State) (p : Nat) (x : Sem) : (s.setSem p x).out = s.out := rfl
@[simp] theorem State.setSem_free (s : State) (p : Nat) (x : Sem) : (s.setSem p x).free = s.free := rfl
@[simp] theorem State.setSem_pending (s : State) (p : Nat) (x : Sem) : (s.setSem p x).pending = s.pending := rfl

@[simp] theorem State.setUnit_regs (s : State) (kind i : Nat) (x : UnitSt) : (s.setUnit kind i x).regs = s.regs := rfl
@[simp] theorem State.setUnit_bel (s : State) (kind i : Nat) (x : UnitSt) : (s.setUnit kind i x).bel = s.bel := rfl
@[simp] theorem State.setUnit_mem (s : State) (kind i : Nat) (x : UnitSt) : (s.setUnit kind i x).mem = s.mem := rfl
@[simp] theorem State.setUnit_rfi (s : State) (kind i : Nat) (x : UnitSt) : (s.setUnit kind i x).rfi = s.rfi := rfl
@[simp] theorem State.setUnit_clo (s : State) (kind i : Nat) (x : UnitSt) : (s.setUnit kind i x).clo = s.clo := rfl
@[simp] theorem State.setUnit_nav (s : State) (kind i : Nat) (x : UnitSt) : (s.setUnit kind i x).nav = s.nav := rfl
@[simp] theorem State.setUnit_se (s : State) (kind i : Nat) (x : UnitSt) : (s.setUnit kind i x).se = s.se := rfl
@[simp] theorem State.setUnit_cry (s : State) (kind i : Nat) (x : UnitSt) : (s.setUnit kind i x).cry = s.cry := rfl
@[simp] theorem State.setUnit_seq (s : State) (kind i : Nat) (x : UnitSt) : (s.setUnit kind i x).seq = s.seq := rfl
@[simp] theorem State.setUnit_fwl (s : State) (kind i : Nat) (x : UnitSt) : (s.setUnit kind i x).fwl = s.fwl := rfl
@[simp] theorem State.setUnit_spk (s : State) (kind i : Nat) (x : UnitSt) : (s.setUnit kind i x).spk = s.spk := rfl
@[simp] theorem State.setUnit_fhs (s : State) (kind i : Nat) (x : UnitSt) : (s.setUnit kind i x).fhs = s.fhs := rfl
@[simp] theorem State.setUnit_chm (s : State) (kind i : Nat) (x : UnitSt) : (s.setUnit kind i x).chm = s.chm := rfl
@[simp] theorem State.setUnit_host (s : State) (kind i : Nat) (x : UnitSt) : (s.setUnit kind i x).host = s.host := rfl
@[simp] theorem State.setUnit_hbm (s : State) (kind i : Nat) (x : UnitSt) : (s.setUnit kind i x).hbm = s.hbm := rfl
@[simp] theorem State.setUnit_hostMem (s : State) (kind i : Nat) (x : UnitSt) : (s.setUnit kind i x).hostMem = s.hostMem := rfl
@[simp] theorem State.setUnit_out (s : State) (kind i : Nat) (x : UnitSt) : (s.setUnit kind i x).out = s.out := rfl
@[simp] theorem State.setUnit_free (s : State) (kind i : Nat) (x : UnitSt) : (s.setUnit kind i x).free = s.free := rfl
@[simp] theorem State.setUnit_pending (s : State) (kind i : Nat) (x : UnitSt) : (s.setUnit kind i x).pending = s.pending := rfl

@[simp] theorem State.setFp_regs (s : State) (p : Nat) (x : FhPort) : (s.setFp p x).regs = s.regs := rfl
@[simp] theorem State.setFp_bel (s : State) (p : Nat) (x : FhPort) : (s.setFp p x).bel = s.bel := rfl
@[simp] theorem State.setFp_mem (s : State) (p : Nat) (x : FhPort) : (s.setFp p x).mem = s.mem := rfl
@[simp] theorem State.setFp_rfi (s : State) (p : Nat) (x : FhPort) : (s.setFp p x).rfi = s.rfi := rfl
@[simp] theorem State.setFp_clo (s : State) (p : Nat) (x : FhPort) : (s.setFp p x).clo = s.clo := rfl
@[simp] theorem State.setFp_nav (s : State) (p : Nat) (x : FhPort) : (s.setFp p x).nav = s.nav := rfl
@[simp] theorem State.setFp_se (s : State) (p : Nat) (x : FhPort) : (s.setFp p x).se = s.se := rfl
@[simp] theorem State.setFp_units (s : State) (p : Nat) (x : FhPort) : (s.setFp p x).units = s.units := rfl
@[simp] theorem State.setFp_cry (s : State) (p : Nat) (x : FhPort) : (s.setFp p x).cry = s.cry := rfl
@[simp] theorem State.setFp_seq (s : State) (p : Nat) (x : FhPort) : (s.setFp p x).seq = s.seq := rfl
@[simp] theorem State.setFp_fwl (s : State) (p : Nat) (x : FhPort) : (s.setFp p x).fwl = s.fwl := rfl
@[simp] theorem State.setFp_spk (s : State) (p : Nat) (x : FhPort) : (s.setFp p x).spk = s.spk := rfl
@[simp] theorem State.setFp_chm (s : State) (p : Nat) (x : FhPort) : (s.setFp p x).chm = s.chm := rfl
@[simp] theorem State.setFp_host (s : State) (p : Nat) (x : FhPort) : (s.setFp p x).host = s.host := rfl
@[simp] theorem State.setFp_hbm (s : State) (p : Nat) (x : FhPort) : (s.setFp p x).hbm = s.hbm := rfl
@[simp] theorem State.setFp_hostMem (s : State) (p : Nat) (x : FhPort) : (s.setFp p x).hostMem = s.hostMem := rfl
@[simp] theorem State.setFp_out (s : State) (p : Nat) (x : FhPort) : (s.setFp p x).out = s.out := rfl
@[simp] theorem State.setFp_free (s : State) (p : Nat) (x : FhPort) : (s.setFp p x).free = s.free := rfl
@[simp] theorem State.setFp_pending (s : State) (p : Nat) (x : FhPort) : (s.setFp p x).pending = s.pending := rfl

@[simp] theorem State.setFq_regs (s : State) (p q : Nat) (x : FhQueue) : (s.setFq p q x).regs = s.regs := rfl
@[simp] theorem State.setFq_bel (s : State) (p q : Nat) (x : FhQueue) : (s.setFq p q x).bel = s.bel := rfl
@[simp] theorem State.setFq_mem (s : State) (p q : Nat) (x : FhQueue) : (s.setFq p q x).mem = s.mem := rfl
@[simp] theorem State.setFq_rfi (s : State) (p q : Nat) (x : FhQueue) : (s.setFq p q x).rfi = s.rfi := rfl
@[simp] theorem State.setFq_clo (s : State) (p q : Nat) (x : FhQueue) : (s.setFq p q x).clo = s.clo := rfl
@[simp] theorem State.setFq_nav (s : State) (p q : Nat) (x : FhQueue) : (s.setFq p q x).nav = s.nav := rfl
@[simp] theorem State.setFq_se (s : State) (p q : Nat) (x : FhQueue) : (s.setFq p q x).se = s.se := rfl
@[simp] theorem State.setFq_units (s : State) (p q : Nat) (x : FhQueue) : (s.setFq p q x).units = s.units := rfl
@[simp] theorem State.setFq_cry (s : State) (p q : Nat) (x : FhQueue) : (s.setFq p q x).cry = s.cry := rfl
@[simp] theorem State.setFq_seq (s : State) (p q : Nat) (x : FhQueue) : (s.setFq p q x).seq = s.seq := rfl
@[simp] theorem State.setFq_fwl (s : State) (p q : Nat) (x : FhQueue) : (s.setFq p q x).fwl = s.fwl := rfl
@[simp] theorem State.setFq_spk (s : State) (p q : Nat) (x : FhQueue) : (s.setFq p q x).spk = s.spk := rfl
@[simp] theorem State.setFq_chm (s : State) (p q : Nat) (x : FhQueue) : (s.setFq p q x).chm = s.chm := rfl
@[simp] theorem State.setFq_host (s : State) (p q : Nat) (x : FhQueue) : (s.setFq p q x).host = s.host := rfl
@[simp] theorem State.setFq_hbm (s : State) (p q : Nat) (x : FhQueue) : (s.setFq p q x).hbm = s.hbm := rfl
@[simp] theorem State.setFq_hostMem (s : State) (p q : Nat) (x : FhQueue) : (s.setFq p q x).hostMem = s.hostMem := rfl
@[simp] theorem State.setFq_out (s : State) (p q : Nat) (x : FhQueue) : (s.setFq p q x).out = s.out := rfl
@[simp] theorem State.setFq_free (s : State) (p q : Nat) (x : FhQueue) : (s.setFq p q x).free = s.free := rfl
@[simp] theorem State.setFq_pending (s : State) (p q : Nat) (x : FhQueue) : (s.setFq p q x).pending = s.pending := rfl

@[simp] theorem State.setCell_regs (s : State) (c : Nat) (x : FwCell) : (s.setCell c x).regs = s.regs := rfl
@[simp] theorem State.setCell_bel (s : State) (c : Nat) (x : FwCell) : (s.setCell c x).bel = s.bel := rfl
@[simp] theorem State.setCell_mem (s : State) (c : Nat) (x : FwCell) : (s.setCell c x).mem = s.mem := rfl
@[simp] theorem State.setCell_rfi (s : State) (c : Nat) (x : FwCell) : (s.setCell c x).rfi = s.rfi := rfl
@[simp] theorem State.setCell_clo (s : State) (c : Nat) (x : FwCell) : (s.setCell c x).clo = s.clo := rfl
@[simp] theorem State.setCell_nav (s : State) (c : Nat) (x : FwCell) : (s.setCell c x).nav = s.nav := rfl
@[simp] theorem State.setCell_se (s : State) (c : Nat) (x : FwCell) : (s.setCell c x).se = s.se := rfl
@[simp] theorem State.setCell_units (s : State) (c : Nat) (x : FwCell) : (s.setCell c x).units = s.units := rfl
@[simp] theorem State.setCell_cry (s : State) (c : Nat) (x : FwCell) : (s.setCell c x).cry = s.cry := rfl
@[simp] theorem State.setCell_seq (s : State) (c : Nat) (x : FwCell) : (s.setCell c x).seq = s.seq := rfl
@[simp] theorem State.setCell_spk (s : State) (c : Nat) (x : FwCell) : (s.setCell c x).spk = s.spk := rfl
@[simp] theorem State.setCell_fhs (s : State) (c : Nat) (x : FwCell) : (s.setCell c x).fhs = s.fhs := rfl
@[simp] theorem State.setCell_chm (s : State) (c : Nat) (x : FwCell) : (s.setCell c x).chm = s.chm := rfl
@[simp] theorem State.setCell_host (s : State) (c : Nat) (x : FwCell) : (s.setCell c x).host = s.host := rfl
@[simp] theorem State.setCell_hbm (s : State) (c : Nat) (x : FwCell) : (s.setCell c x).hbm = s.hbm := rfl
@[simp] theorem State.setCell_hostMem (s : State) (c : Nat) (x : FwCell) : (s.setCell c x).hostMem = s.hostMem := rfl
@[simp] theorem State.setCell_out (s : State) (c : Nat) (x : FwCell) : (s.setCell c x).out = s.out := rfl
@[simp] theorem State.setCell_free (s : State) (c : Nat) (x : FwCell) : (s.setCell c x).free = s.free := rfl
@[simp] theorem State.setCell_pending (s : State) (c : Nat) (x : FwCell) : (s.setCell c x).pending = s.pending := rfl

@[simp] theorem State.setPort_regs (s : State) (p : Nat) (x : SpkPort) : (s.setPort p x).regs = s.regs := rfl
@[simp] theorem State.setPort_bel (s : State) (p : Nat) (x : SpkPort) : (s.setPort p x).bel = s.bel := rfl
@[simp] theorem State.setPort_mem (s : State) (p : Nat) (x : SpkPort) : (s.setPort p x).mem = s.mem := rfl
@[simp] theorem State.setPort_rfi (s : State) (p : Nat) (x : SpkPort) : (s.setPort p x).rfi = s.rfi := rfl
@[simp] theorem State.setPort_clo (s : State) (p : Nat) (x : SpkPort) : (s.setPort p x).clo = s.clo := rfl
@[simp] theorem State.setPort_nav (s : State) (p : Nat) (x : SpkPort) : (s.setPort p x).nav = s.nav := rfl
@[simp] theorem State.setPort_se (s : State) (p : Nat) (x : SpkPort) : (s.setPort p x).se = s.se := rfl
@[simp] theorem State.setPort_units (s : State) (p : Nat) (x : SpkPort) : (s.setPort p x).units = s.units := rfl
@[simp] theorem State.setPort_cry (s : State) (p : Nat) (x : SpkPort) : (s.setPort p x).cry = s.cry := rfl
@[simp] theorem State.setPort_seq (s : State) (p : Nat) (x : SpkPort) : (s.setPort p x).seq = s.seq := rfl
@[simp] theorem State.setPort_fwl (s : State) (p : Nat) (x : SpkPort) : (s.setPort p x).fwl = s.fwl := rfl
@[simp] theorem State.setPort_fhs (s : State) (p : Nat) (x : SpkPort) : (s.setPort p x).fhs = s.fhs := rfl
@[simp] theorem State.setPort_chm (s : State) (p : Nat) (x : SpkPort) : (s.setPort p x).chm = s.chm := rfl
@[simp] theorem State.setPort_host (s : State) (p : Nat) (x : SpkPort) : (s.setPort p x).host = s.host := rfl
@[simp] theorem State.setPort_hbm (s : State) (p : Nat) (x : SpkPort) : (s.setPort p x).hbm = s.hbm := rfl
@[simp] theorem State.setPort_hostMem (s : State) (p : Nat) (x : SpkPort) : (s.setPort p x).hostMem = s.hostMem := rfl
@[simp] theorem State.setPort_out (s : State) (p : Nat) (x : SpkPort) : (s.setPort p x).out = s.out := rfl
@[simp] theorem State.setPort_free (s : State) (p : Nat) (x : SpkPort) : (s.setPort p x).free = s.free := rfl
@[simp] theorem State.setPort_pending (s : State) (p : Nat) (x : SpkPort) : (s.setPort p x).pending = s.pending := rfl

@[simp] theorem State.setTlb_regs (s : State) (space : Nat) (l : List TlbEnt) : (s.setTlb space l).regs = s.regs := rfl
@[simp] theorem State.setTlb_bel (s : State) (space : Nat) (l : List TlbEnt) : (s.setTlb space l).bel = s.bel := rfl
@[simp] theorem State.setTlb_rfi (s : State) (space : Nat) (l : List TlbEnt) : (s.setTlb space l).rfi = s.rfi := rfl
@[simp] theorem State.setTlb_clo (s : State) (space : Nat) (l : List TlbEnt) : (s.setTlb space l).clo = s.clo := rfl
@[simp] theorem State.setTlb_nav (s : State) (space : Nat) (l : List TlbEnt) : (s.setTlb space l).nav = s.nav := rfl
@[simp] theorem State.setTlb_se (s : State) (space : Nat) (l : List TlbEnt) : (s.setTlb space l).se = s.se := rfl
@[simp] theorem State.setTlb_units (s : State) (space : Nat) (l : List TlbEnt) : (s.setTlb space l).units = s.units := rfl
@[simp] theorem State.setTlb_cry (s : State) (space : Nat) (l : List TlbEnt) : (s.setTlb space l).cry = s.cry := rfl
@[simp] theorem State.setTlb_seq (s : State) (space : Nat) (l : List TlbEnt) : (s.setTlb space l).seq = s.seq := rfl
@[simp] theorem State.setTlb_fwl (s : State) (space : Nat) (l : List TlbEnt) : (s.setTlb space l).fwl = s.fwl := rfl
@[simp] theorem State.setTlb_spk (s : State) (space : Nat) (l : List TlbEnt) : (s.setTlb space l).spk = s.spk := rfl
@[simp] theorem State.setTlb_fhs (s : State) (space : Nat) (l : List TlbEnt) : (s.setTlb space l).fhs = s.fhs := rfl
@[simp] theorem State.setTlb_chm (s : State) (space : Nat) (l : List TlbEnt) : (s.setTlb space l).chm = s.chm := rfl
@[simp] theorem State.setTlb_host (s : State) (space : Nat) (l : List TlbEnt) : (s.setTlb space l).host = s.host := rfl
@[simp] theorem State.setTlb_hbm (s : State) (space : Nat) (l : List TlbEnt) : (s.setTlb space l).hbm = s.hbm := rfl
@[simp] theorem State.setTlb_hostMem (s : State) (space : Nat) (l : List TlbEnt) : (s.setTlb space l).hostMem = s.hostMem := rfl
@[simp] theorem State.setTlb_out (s : State) (space : Nat) (l : List TlbEnt) : (s.setTlb space l).out = s.out := rfl
@[simp] theorem State.setTlb_free (s : State) (space : Nat) (l : List TlbEnt) : (s.setTlb space l).free = s.free := rfl
@[simp] theorem State.setTlb_pending (s : State) (space : Nat) (l : List TlbEnt) : (s.setTlb space l).pending = s.pending := rfl

@[simp] theorem State.draw_regs (s : State) : s.draw.2.regs = s.regs := rfl
@[simp] theorem State.draw_bel (s : State) : s.draw.2.bel = s.bel := rfl
@[simp] theorem State.draw_mem (s : State) : s.draw.2.mem = s.mem := rfl
@[simp] theorem State.draw_rfi (s : State) : s.draw.2.rfi = s.rfi := rfl
@[simp] theorem State.draw_clo (s : State) : s.draw.2.clo = s.clo := rfl
@[simp] theorem State.draw_nav (s : State) : s.draw.2.nav = s.nav := rfl
@[simp] theorem State.draw_se (s : State) : s.draw.2.se = s.se := rfl
@[simp] theorem State.draw_units (s : State) : s.draw.2.units = s.units := rfl
@[simp] theorem State.draw_cry (s : State) : s.draw.2.cry = s.cry := rfl
@[simp] theorem State.draw_seq (s : State) : s.draw.2.seq = s.seq := rfl
@[simp] theorem State.draw_fwl (s : State) : s.draw.2.fwl = s.fwl := rfl
@[simp] theorem State.draw_spk (s : State) : s.draw.2.spk = s.spk := rfl
@[simp] theorem State.draw_fhs (s : State) : s.draw.2.fhs = s.fhs := rfl
@[simp] theorem State.draw_chm (s : State) : s.draw.2.chm = s.chm := rfl
@[simp] theorem State.draw_host (s : State) : s.draw.2.host = s.host := rfl
@[simp] theorem State.draw_hbm (s : State) : s.draw.2.hbm = s.hbm := rfl
@[simp] theorem State.draw_hostMem (s : State) : s.draw.2.hostMem = s.hostMem := rfl
@[simp] theorem State.draw_out (s : State) : s.draw.2.out = s.out := rfl
@[simp] theorem State.draw_pending (s : State) : s.draw.2.pending = s.pending := rfl

@[simp] theorem State.reg_emit (s : State) (m : OutMsg) (o : Nat) : (s.emit m).reg o = s.reg o := rfl
@[simp] theorem State.reg_setRing (s : State) (f k : Nat) (r : Ring) (o : Nat) : (s.setRing f k r).reg o = s.reg o := rfl
@[simp] theorem State.reg_setGen (s : State) (g : Nat) (x : Gen) (o : Nat) : (s.setGen g x).reg o = s.reg o := rfl
@[simp] theorem State.reg_setCmp (s : State) (c : Nat) (x : Cmp) (o : Nat) : (s.setCmp c x).reg o = s.reg o := rfl
@[simp] theorem State.reg_setRxAnt (s : State) (a : Nat) (x : RxAnt) (o : Nat) : (s.setRxAnt a x).reg o = s.reg o := rfl
@[simp] theorem State.reg_setTxChain (s : State) (t : Nat) (x : TxChain) (o : Nat) : (s.setTxChain t x).reg o = s.reg o := rfl
@[simp] theorem State.reg_setAgc (s : State) (a : Nat) (x : Agc) (o : Nat) : (s.setAgc a x).reg o = s.reg o := rfl
@[simp] theorem State.reg_setRadioCell (s : State) (c : Nat) (x : RadioCell) (o : Nat) : (s.setRadioCell c x).reg o = s.reg o := rfl
@[simp] theorem State.reg_setIsl (s : State) (cl : Bool) (x : IslandSt) (o : Nat) : (s.setIsl cl x).reg o = s.reg o := rfl
@[simp] theorem State.reg_setTile (s : State) (t : Nat) (x : Tile) (o : Nat) : (s.setTile t x).reg o = s.reg o := rfl
@[simp] theorem State.reg_setCore (s : State) (c : Nat) (x : Core) (o : Nat) : (s.setCore c x).reg o = s.reg o := rfl
@[simp] theorem State.reg_setChan (s : State) (c : Nat) (x : Chan) (o : Nat) : (s.setChan c x).reg o = s.reg o := rfl
@[simp] theorem State.reg_setSem (s : State) (p : Nat) (x : Sem) (o : Nat) : (s.setSem p x).reg o = s.reg o := rfl
@[simp] theorem State.reg_setUnit (s : State) (kind i : Nat) (x : UnitSt) (o : Nat) : (s.setUnit kind i x).reg o = s.reg o := rfl
@[simp] theorem State.reg_setFp (s : State) (p : Nat) (x : FhPort) (o : Nat) : (s.setFp p x).reg o = s.reg o := rfl
@[simp] theorem State.reg_setFq (s : State) (p q : Nat) (x : FhQueue) (o : Nat) : (s.setFq p q x).reg o = s.reg o := rfl
@[simp] theorem State.reg_setCell (s : State) (c : Nat) (x : FwCell) (o : Nat) : (s.setCell c x).reg o = s.reg o := rfl
@[simp] theorem State.reg_setPort (s : State) (p : Nat) (x : SpkPort) (o : Nat) : (s.setPort p x).reg o = s.reg o := rfl
@[simp] theorem State.reg_setTlb (s : State) (space : Nat) (l : List TlbEnt) (o : Nat) : (s.setTlb space l).reg o = s.reg o := rfl
@[simp] theorem State.reg_draw (s : State) (x : Nat) : s.draw.2.reg x = s.reg x := rfl
@[simp] theorem State.fld_emit (s : State) (m : OutMsg) (o : Nat) (fl : Fld) : (s.emit m).fld o fl = s.fld o fl := rfl
@[simp] theorem State.flag_emit (s : State) (m : OutMsg) (o : Nat) (fl : Fld) : (s.emit m).flag o fl = s.flag o fl := rfl
@[simp] theorem State.fld_setRing (s : State) (f k : Nat) (r : Ring) (o : Nat) (fl : Fld) : (s.setRing f k r).fld o fl = s.fld o fl := rfl
@[simp] theorem State.flag_setRing (s : State) (f k : Nat) (r : Ring) (o : Nat) (fl : Fld) : (s.setRing f k r).flag o fl = s.flag o fl := rfl
@[simp] theorem State.fld_setGen (s : State) (g : Nat) (x : Gen) (o : Nat) (fl : Fld) : (s.setGen g x).fld o fl = s.fld o fl := rfl
@[simp] theorem State.flag_setGen (s : State) (g : Nat) (x : Gen) (o : Nat) (fl : Fld) : (s.setGen g x).flag o fl = s.flag o fl := rfl
@[simp] theorem State.fld_setCmp (s : State) (c : Nat) (x : Cmp) (o : Nat) (fl : Fld) : (s.setCmp c x).fld o fl = s.fld o fl := rfl
@[simp] theorem State.flag_setCmp (s : State) (c : Nat) (x : Cmp) (o : Nat) (fl : Fld) : (s.setCmp c x).flag o fl = s.flag o fl := rfl
@[simp] theorem State.fld_setRxAnt (s : State) (a : Nat) (x : RxAnt) (o : Nat) (fl : Fld) : (s.setRxAnt a x).fld o fl = s.fld o fl := rfl
@[simp] theorem State.flag_setRxAnt (s : State) (a : Nat) (x : RxAnt) (o : Nat) (fl : Fld) : (s.setRxAnt a x).flag o fl = s.flag o fl := rfl
@[simp] theorem State.fld_setTxChain (s : State) (t : Nat) (x : TxChain) (o : Nat) (fl : Fld) : (s.setTxChain t x).fld o fl = s.fld o fl := rfl
@[simp] theorem State.flag_setTxChain (s : State) (t : Nat) (x : TxChain) (o : Nat) (fl : Fld) : (s.setTxChain t x).flag o fl = s.flag o fl := rfl
@[simp] theorem State.fld_setAgc (s : State) (a : Nat) (x : Agc) (o : Nat) (fl : Fld) : (s.setAgc a x).fld o fl = s.fld o fl := rfl
@[simp] theorem State.flag_setAgc (s : State) (a : Nat) (x : Agc) (o : Nat) (fl : Fld) : (s.setAgc a x).flag o fl = s.flag o fl := rfl
@[simp] theorem State.fld_setRadioCell (s : State) (c : Nat) (x : RadioCell) (o : Nat) (fl : Fld) : (s.setRadioCell c x).fld o fl = s.fld o fl := rfl
@[simp] theorem State.flag_setRadioCell (s : State) (c : Nat) (x : RadioCell) (o : Nat) (fl : Fld) : (s.setRadioCell c x).flag o fl = s.flag o fl := rfl
@[simp] theorem State.fld_setIsl (s : State) (cl : Bool) (x : IslandSt) (o : Nat) (fl : Fld) : (s.setIsl cl x).fld o fl = s.fld o fl := rfl
@[simp] theorem State.flag_setIsl (s : State) (cl : Bool) (x : IslandSt) (o : Nat) (fl : Fld) : (s.setIsl cl x).flag o fl = s.flag o fl := rfl
@[simp] theorem State.fld_setTile (s : State) (t : Nat) (x : Tile) (o : Nat) (fl : Fld) : (s.setTile t x).fld o fl = s.fld o fl := rfl
@[simp] theorem State.flag_setTile (s : State) (t : Nat) (x : Tile) (o : Nat) (fl : Fld) : (s.setTile t x).flag o fl = s.flag o fl := rfl
@[simp] theorem State.fld_setCore (s : State) (c : Nat) (x : Core) (o : Nat) (fl : Fld) : (s.setCore c x).fld o fl = s.fld o fl := rfl
@[simp] theorem State.flag_setCore (s : State) (c : Nat) (x : Core) (o : Nat) (fl : Fld) : (s.setCore c x).flag o fl = s.flag o fl := rfl
@[simp] theorem State.fld_setChan (s : State) (c : Nat) (x : Chan) (o : Nat) (fl : Fld) : (s.setChan c x).fld o fl = s.fld o fl := rfl
@[simp] theorem State.flag_setChan (s : State) (c : Nat) (x : Chan) (o : Nat) (fl : Fld) : (s.setChan c x).flag o fl = s.flag o fl := rfl
@[simp] theorem State.fld_setSem (s : State) (p : Nat) (x : Sem) (o : Nat) (fl : Fld) : (s.setSem p x).fld o fl = s.fld o fl := rfl
@[simp] theorem State.flag_setSem (s : State) (p : Nat) (x : Sem) (o : Nat) (fl : Fld) : (s.setSem p x).flag o fl = s.flag o fl := rfl
@[simp] theorem State.fld_setUnit (s : State) (kind i : Nat) (x : UnitSt) (o : Nat) (fl : Fld) : (s.setUnit kind i x).fld o fl = s.fld o fl := rfl
@[simp] theorem State.flag_setUnit (s : State) (kind i : Nat) (x : UnitSt) (o : Nat) (fl : Fld) : (s.setUnit kind i x).flag o fl = s.flag o fl := rfl
@[simp] theorem State.fld_setFp (s : State) (p : Nat) (x : FhPort) (o : Nat) (fl : Fld) : (s.setFp p x).fld o fl = s.fld o fl := rfl
@[simp] theorem State.flag_setFp (s : State) (p : Nat) (x : FhPort) (o : Nat) (fl : Fld) : (s.setFp p x).flag o fl = s.flag o fl := rfl
@[simp] theorem State.fld_setFq (s : State) (p q : Nat) (x : FhQueue) (o : Nat) (fl : Fld) : (s.setFq p q x).fld o fl = s.fld o fl := rfl
@[simp] theorem State.flag_setFq (s : State) (p q : Nat) (x : FhQueue) (o : Nat) (fl : Fld) : (s.setFq p q x).flag o fl = s.flag o fl := rfl
@[simp] theorem State.fld_setCell (s : State) (c : Nat) (x : FwCell) (o : Nat) (fl : Fld) : (s.setCell c x).fld o fl = s.fld o fl := rfl
@[simp] theorem State.flag_setCell (s : State) (c : Nat) (x : FwCell) (o : Nat) (fl : Fld) : (s.setCell c x).flag o fl = s.flag o fl := rfl
@[simp] theorem State.fld_setPort (s : State) (p : Nat) (x : SpkPort) (o : Nat) (fl : Fld) : (s.setPort p x).fld o fl = s.fld o fl := rfl
@[simp] theorem State.flag_setPort (s : State) (p : Nat) (x : SpkPort) (o : Nat) (fl : Fld) : (s.setPort p x).flag o fl = s.flag o fl := rfl
@[simp] theorem State.fld_setTlb (s : State) (space : Nat) (l : List TlbEnt) (o : Nat) (fl : Fld) : (s.setTlb space l).fld o fl = s.fld o fl := rfl
@[simp] theorem State.flag_setTlb (s : State) (space : Nat) (l : List TlbEnt) (o : Nat) (fl : Fld) : (s.setTlb space l).flag o fl = s.flag o fl := rfl
@[simp] theorem State.fld_draw (s : State) (o : Nat) (fl : Fld) : s.draw.2.fld o fl = s.fld o fl := rfl

end Sys2Proof.Machine
end

