-- ==== Sys2Proof/Laws/Event.lean ====
section
/-! SUPPORT. What raising an event, an interrupt or a discarded-write record can touch: the event rings' registers in the VIS pages,
the host part of the state, host memory and what has been sent. -/

namespace Sys2Proof.Machine

/-- Offsets of BAR0 outside every function's VIS page and outside the PF's pending-bit array. -/
def outsidePages (off : Nat) : Prop := off / 0x10000 ≠ 1 ∧ off < 0x1000000 ∧ off / 8 ≠ 0xE8000 / 8

theorem not_outside {f off d : Nat} (hd : d < 0x10000) (h : outsidePages off) : off ≠ visPage f + d := by
  unfold outsidePages at h; unfold visPage; split <;> omega

theorem msixPba_inside (f vec off : Nat) (hv : vec < 64) (h : outsidePages off) : off ≠ msixPba f vec := by
  unfold msixPba; split
  · unfold outsidePages at h; unfold R.PF_PBA; omega
  · exact not_outside (d := 0xF000) (by decide) h

/-- Everything but registers of the VIS pages, the host part, host memory and what has been sent; the link stays. -/
structure HostOnly (s t : State) : Prop where
  frame : t = { s with regs := t.regs, host := t.host, hostMem := t.hostMem, out := t.out }
  link  : t.host.link = s.host.link
  regs  : ∀ off, outsidePages off → t.reg off = s.reg off

theorem HostOnly.refl (s : State) : HostOnly s s := ⟨rfl, rfl, fun _ _ => rfl⟩

theorem HostOnly.trans {s t u : State} (h : HostOnly s t) (k : HostOnly t u) : HostOnly s u := by
  refine ⟨?_, k.link.trans h.link, fun off ho => (k.regs off ho).trans (h.regs off ho)⟩
  rw [k.frame, h.frame]

theorem hostWrite_hostOnly (addr : Nat) (bs : List Byte) (s : State) : HostOnly s (hostWrite addr bs s) := by
  unfold hostWrite; split
  · exact ⟨rfl, rfl, fun _ _ => rfl⟩
  · exact HostOnly.refl s

theorem setRing_hostOnly (f k : Nat) (r : Ring) (s : State) : HostOnly s (s.setRing f k r) := ⟨rfl, rfl, fun _ _ => rfl⟩

theorem emit_hostOnly (m : OutMsg) (s : State) : HostOnly s (s.emit m) := ⟨rfl, rfl, fun _ _ => rfl⟩

theorem setReg_hostOnly (p d : Nat) (w : Word) (s : State) (hd : d < 0x10000) : HostOnly s (s.setReg (visPage p + d) w) :=
  ⟨rfl, rfl, fun off ho => by rw [State.reg_setReg, if_neg (not_outside hd ho)]⟩

theorem raiseVec_hostOnly (f vec : Nat) (s : State) (hv : vec < 64) : HostOnly s (raiseVec f vec s) := by
  unfold raiseVec; split
  · exact ⟨rfl, rfl, fun off ho => by rw [State.reg_setReg, if_neg (msixPba_inside f vec off hv ho)]⟩
  · split
    · exact emit_hostOnly _ s
    · exact HostOnly.refl s

theorem shadowWrite_hostOnly (f k : Nat) (s : State) : HostOnly s (shadowWrite f k s) := hostWrite_hostOnly _ _ s

theorem countEntry_hostOnly (f k : Nat) (s : State) : HostOnly s (countEntry f k s) := by
  unfold countEntry; dsimp only
  split
  · split
    · exact (setRing_hostOnly _ _ _ s).trans (raiseVec_hostOnly _ _ _ (State.fld_lt s (ringCfg f k) F.VIS_CQ_CFG_VEC))
    · exact setRing_hostOnly _ _ _ s
  · exact HostOnly.refl s

theorem freshRead_hostOnly (f k : Nat) (s : State) : HostOnly s (freshRead f k s) := setRing_hostOnly _ _ _ s

theorem dropEvent_hostOnly (g : Nat) (s : State) : HostOnly s (dropEvent g s) := by
  refine ⟨rfl, rfl, fun off ho => ?_⟩
  show (((s.addSat (R.VIS_EQ_DROP (visPage g)) F.VIS_EQ_DROP_CNT 1).setFlag (R.VIS_EQ_STAT (visPage g)) F.VIS_EQ_STAT_OVF true)).reg off = _
  have h1 : off ≠ R.VIS_EQ_STAT (visPage g) := not_outside (d := 0x314) (by decide) ho
  have h2 : off ≠ R.VIS_EQ_DROP (visPage g) := not_outside (d := 0x310) (by decide) ho
  rw [State.reg_setFlag, if_neg h1, State.reg_addSat, if_neg h2]

theorem postEq_hostOnly (g code f info : Nat) (s : State) : HostOnly s (postEq g code f info s) := by
  unfold postEq; dsimp only
  split
  · have h1 : HostOnly s (if freeSlots s g 16 = 0 then freshRead g 16 s else s) := by
      split
      · exact freshRead_hostOnly _ _ s
      · exact HostOnly.refl s
    generalize (if freeSlots s g 16 = 0 then freshRead g 16 s else s) = s1 at h1 ⊢
    split
    · exact h1.trans (dropEvent_hostOnly _ _)
    · refine h1.trans (HostOnly.trans ?_ (countEntry_hostOnly _ _ _))
      refine HostOnly.trans ?_ (shadowWrite_hostOnly _ _ _)
      generalize hw : hostWrite _ _ s1 = s2
      have h2 : HostOnly s1 s2 := hw ▸ hostWrite_hostOnly _ _ s1
      exact h2.trans ⟨rfl, rfl, fun _ _ => rfl⟩
  · exact dropEvent_hostOnly g s

theorem event_hostOnly (code f info : Nat) (s : State) : HostOnly s (event code f info s) := postEq_hostOnly 16 code f info s

theorem eventVi_hostOnly (code f info : Nat) (s : State) : HostOnly s (eventVi code f info s) := by
  unfold eventVi; split
  · exact (postEq_hostOnly _ _ _ _ s).trans (postEq_hostOnly _ _ _ _ _)
  · exact postEq_hostOnly _ _ _ _ s

/-- A discarded write is recorded in GLB_DISC and raised as an event. -/
theorem recordDisc_frame (a : Agent) (off kind : Nat) (s : State) :
    HostOnly (s.setReg R.GLB_DISC ((recordDisc a off kind s).reg R.GLB_DISC)) (recordDisc a off kind s) := by
  unfold recordDisc
  split
  · refine ⟨rfl, rfl, fun o _ => ?_⟩
    rw [State.reg_setReg]; split <;> simp_all
  · dsimp only
    generalize (barOff a off % 2 ^ 25 + 2 ^ 25 * (if isVf a = true then agentNo a + 1 else 0) + 2 ^ 30 * kind + 2 ^ 31) = w
    have h := event_hostOnly 0x0002 (agentNo a) w (s.setReg R.GLB_DISC (BitVec.ofNat 32 w))
    have e := h.regs R.GLB_DISC (by unfold outsidePages R.GLB_DISC; omega)
    rw [State.reg_setReg_same] at e
    rw [e]; exact h

theorem recordDisc_reg (a : Agent) (off kind : Nat) (s : State) (o : Nat) (h : outsidePages o) (hd : o ≠ R.GLB_DISC) :
    (recordDisc a off kind s).reg o = s.reg o := by
  rw [(recordDisc_frame a off kind s).regs o h, State.reg_setReg_other _ _ _ _ hd]

end Sys2Proof.Machine
end

