-- ==== Sys2Proof/Laws/Exec.lean ====
section
/-! SUPPORT. The meaning of each command, one lemma for each arm of `exec`. -/

namespace Sys2Proof.Machine

theorem exec_porstNAssert (s : State) : exec (.porstNAssert) s = execPorstNAssert s := rfl
theorem exec_pgFall (pg : Fin 4) (s : State) : exec (.pgFall pg) s = execPgFall pg s := rfl
theorem exec_porstNRelease (bootSrc profile : Fin 4) (twinEn : Bool) (s : State) : exec (.porstNRelease bootSrc profile twinEn) s = execPorstNRelease bootSrc profile twinEn s := rfl
theorem exec_sysrstN (s : State) : exec (.sysrstN) s = execSysrstN s := rfl
theorem exec_perstN (s : State) : exec (.perstN) s = execPerstN s := rfl
theorem exec_perstNRelease (s : State) : exec (.perstNRelease) s = execPerstNRelease s := rfl
theorem exec_pfFlr (s : State) : exec (.pfFlr) s = execPfFlr s := rfl
theorem exec_hotReset (s : State) : exec (.hotReset) s = execHotReset s := rfl
theorem exec_pcieLinkDown (s : State) : exec (.pcieLinkDown) s = execPcieLinkDown s := rfl
theorem exec_pcieLinkUp (s : State) : exec (.pcieLinkUp) s = execPcieLinkUp s := rfl
theorem exec_thermtripN (sensor : Fin 24) (s : State) : exec (.thermtripN sensor) s = execThermtripN sensor s := rfl
theorem exec_startDecision (s : State) : exec (.startDecision) s = execStartDecision s := rfl
theorem exec_todSnapshot (a : Agent) (s : State) : exec (.todSnapshot a) s = execTodSnapshot a s := rfl
theorem exec_dncSnapshot (a : Agent) (s : State) : exec (.dncSnapshot a) s = execDncSnapshot a s := rfl
theorem exec_freqAdjWrite (a : Agent) (v : Word) (s : State) : exec (.freqAdjWrite a v) s = execFreqAdjWrite a v s := rfl
theorem exec_timeSetGo (a : Agent) (v : Word) (s : State) : exec (.timeSetGo a v) s = execTimeSetGo a v s := rfl
theorem exec_ofsGo (a : Agent) (v : Word) (s : State) : exec (.ofsGo a v) s = execOfsGo a v s := rfl
theorem exec_cancel (a : Agent) (v : Word) (s : State) : exec (.cancel a v) s = execCancel a v s := rfl
theorem exec_timeSetApply (s : State) : exec (.timeSetApply) s = execTimeSetApply s := rfl
theorem exec_timeOffsetApply (s : State) : exec (.timeOffsetApply) s = execTimeOffsetApply s := rfl
theorem exec_timeCancelApply (s : State) : exec (.timeCancelApply) s = execTimeCancelApply s := rfl
theorem exec_sgEnable (a : Agent) (g : Fin 4) (v : Word) (s : State) : exec (.sgEnable a g v) s = execSgEnable a g v s := rfl
theorem exec_sgDisable (a : Agent) (g : Fin 4) (v : Word) (s : State) : exec (.sgDisable a g v) s = execSgDisable a g v s := rfl
theorem exec_sgStop (g : Fin 4) (s : State) : exec (.sgStop g) s = execSgStop g s := rfl
theorem exec_slotStrobe (g : Fin 4) (s : State) : exec (.slotStrobe g) s = execSlotStrobe g s := rfl
theorem exec_symbolStrobe (g : Fin 4) (s : State) : exec (.symbolStrobe g) s = execSymbolStrobe g s := rfl
theorem exec_cmpArm (a : Agent) (c : Fin 16) (v : Word) (s : State) : exec (.cmpArm a c v) s = execCmpArm a c v s := rfl
theorem exec_cmpDisarm (a : Agent) (c : Fin 16) (v : Word) (s : State) : exec (.cmpDisarm a c v) s = execCmpDisarm a c v s := rfl
theorem exec_cmpTargetLoad (a : Agent) (c : Fin 16) (v : Word) (s : State) : exec (.cmpTargetLoad a c v) s = execCmpTargetLoad a c v s := rfl
theorem exec_cmpFire (c : Fin 16) (s : State) : exec (.cmpFire c) s = execCmpFire c s := rfl
theorem exec_ppsOutAssert (s : State) : exec (.ppsOutAssert) s = execPpsOutAssert s := rfl
theorem exec_ppsOutWidthEnd (s : State) : exec (.ppsOutWidthEnd) s = execPpsOutWidthEnd s := rfl
theorem exec_ppsInEdge (falling : Bool) (s : State) : exec (.ppsInEdge falling) s = execPpsInEdge falling s := rfl
theorem exec_jesdLinkEnable (a : Agent) (v : Word) (s : State) : exec (.jesdLinkEnable a v) s = execJesdLinkEnable a v s := rfl
theorem exec_slotStartMarker (clocks : BitVec 12) (s : State) : exec (.slotStartMarker clocks) s = execSlotStartMarker clocks s := rfl
theorem exec_rxLockLost (s : State) : exec (.rxLockLost) s = execRxLockLost s := rfl
theorem exec_txLockLost (s : State) : exec (.txLockLost) s = execTxLockLost s := rfl
theorem exec_rxSamples (ant : Fin 5) (x : List IQ) (s : State) : exec (.rxSamples ant x) s = execRxSamples ant x s := rfl
theorem exec_dpdSwap (a : Agent) (t : Fin 4) (v : Word) (s : State) : exec (.dpdSwap a t v) s = execDpdSwap a t v s := rfl
theorem exec_dpdBankWrite (a : Agent) (t : Fin 4) (bank : Fin 2) (word : Fin 384) (v : Word) (s : State) : exec (.dpdBankWrite a t bank word v) s = execDpdBankWrite a t bank word v s := rfl
theorem exec_ltCorrection (t : Fin 4) (c : IQ) (s : State) : exec (.ltCorrection t c) s = execLtCorrection t c s := rfl
theorem exec_ltUnder (t : Fin 4) (s : State) : exec (.ltUnder t) s = execLtUnder t s := rfl
theorem exec_dpdCaptureGo (a : Agent) (t : Fin 4) (v : Word) (s : State) : exec (.dpdCaptureGo a t v) s = execDpdCaptureGo a t v s := rfl
theorem exec_dpdCaptureStart (s : State) : exec (.dpdCaptureStart) s = execDpdCaptureStart s := rfl
theorem exec_dpdCaptureDone (x orx : List IQ) (s : State) : exec (.dpdCaptureDone x orx) s = execDpdCaptureDone x orx s := rfl
theorem exec_agcGridPoint (ch : Fin 5) (p : BitVec 16) (fullScale : Bool) (sidx : Word) (s : State) : exec (.agcGridPoint ch p fullScale sidx) s = execAgcGridPoint ch p fullScale sidx s := rfl
theorem exec_agcFreezeDelay (ch : Fin 5) (s : State) : exec (.agcFreezeDelay ch) s = execAgcFreezeDelay ch s := rfl
theorem exec_agcWindowEnd (ch : Fin 5) (p : BitVec 16) (sidx : Word) (s : State) : exec (.agcWindowEnd ch p sidx) s = execAgcWindowEnd ch p sidx s := rfl
theorem exec_agcModeWrite (a : Agent) (ch : Fin 5) (v : Word) (s : State) : exec (.agcModeWrite a ch v) s = execAgcModeWrite a ch v s := rfl
theorem exec_cnvSpiFrame (sidx : Word) (s : State) : exec (.cnvSpiFrame sidx) s = execCnvSpiFrame sidx s := rfl
theorem exec_prachEnable (a : Agent) (c : Fin 4) (v : Word) (s : State) : exec (.prachEnable a c v) s = execPrachEnable a c v s := rfl
theorem exec_prachOccasion (c : Fin 4) (s : State) : exec (.prachOccasion c) s = execPrachOccasion c s := rfl
theorem exec_preambleDetection (c : Fin 16) (peaks : List Peak) (s : State) : exec (.preambleDetection c peaks) s = execPreambleDetection c peaks s := rfl
theorem exec_monitorMeasurement (ch : Fin 5) (fofs terr : Word) (s : State) : exec (.monitorMeasurement ch fofs terr) s = execMonitorMeasurement ch fofs terr s := rfl
theorem exec_bundleIssue (core : Fin 16) (stallOpnd stallExt : BitVec 8) (s : State) : exec (.bundleIssue core stallOpnd stallExt) s = execBundleIssue core stallOpnd stallExt s := rfl
theorem exec_waitevWake (core : Fin 16) (s : State) : exec (.waitevWake core) s = execWaitevWake core s := rfl
theorem exec_interruptEntry (core : Fin 16) (s : State) : exec (.interruptEntry core) s = execInterruptEntry core s := rfl
theorem exec_evpEvent (core : Fin 16) (ev : Fin 19) (s : State) : exec (.evpEvent core ev) s = execEvpEvent core ev s := rfl
theorem exec_externalDmemAccess (core : Fin 16) (chan : Fin 192) (write : Bool) (addr : BitVec 19) (data : List Byte) (waited : BitVec 4) (s : State) : exec (.externalDmemAccess core chan write addr data waited) s = execExternalDmemAccess core chan write addr data waited s := rfl
theorem exec_coreEnable (a : Agent) (core : Fin 16) (v : Word) (s : State) : exec (.coreEnable a core v) s = execCoreEnable a core v s := rfl
theorem exec_coreDisable (a : Agent) (core : Fin 16) (v : Word) (s : State) : exec (.coreDisable a core v) s = execCoreDisable a core v s := rfl
theorem exec_coreStop (core : Fin 16) (s : State) : exec (.coreStop core) s = execCoreStop core s := rfl
theorem exec_coreHalt (a : Agent) (core : Fin 16) (v : Word) (s : State) : exec (.coreHalt a core v) s = execCoreHalt a core v s := rfl
theorem exec_coreStep (a : Agent) (core : Fin 16) (v : Word) (s : State) : exec (.coreStep a core v) s = execCoreStep a core v s := rfl
theorem exec_coreResume (a : Agent) (core : Fin 16) (v : Word) (s : State) : exec (.coreResume a core v) s = execCoreResume a core v s := rfl
theorem exec_cloClr (a : Agent) (core : Fin 16) (v : Word) (s : State) : exec (.cloClr a core v) s = execCloClr a core v s := rfl
theorem exec_imemIndirectAccess (a : Agent) (core : Fin 16) (write : Option Word) (s : State) : exec (.imemIndirectAccess a core write) s = execImemIndirectAccess a core write s := rfl
theorem exec_dmemIndirectAccess (a : Agent) (core : Fin 16) (write : Option Word) (s : State) : exec (.dmemIndirectAccess a core write) s = execDmemIndirectAccess a core write s := rfl
theorem exec_chmCoreSig (a : Agent) (v : Word) (s : State) : exec (.chmCoreSig a v) s = execChmCoreSig a v s := rfl
theorem exec_coreTaskPlacement (f : Fin 17) (s : State) : exec (.coreTaskPlacement f) s = execCoreTaskPlacement f s := rfl
theorem exec_planArm (a : Agent) (cell : Fin 16) (v : Word) (s : State) : exec (.planArm a cell v) s = execPlanArm a cell v s := rfl
theorem exec_planValidationEnd (cell : Fin 16) (imagesUseRoleB : Bool) (s : State) : exec (.planValidationEnd cell imagesUseRoleB) s = execPlanValidationEnd cell imagesUseRoleB s := rfl
theorem exec_fwlSlotStrobe (cell : Fin 16) (s : State) : exec (.fwlSlotStrobe cell) s = execFwlSlotStrobe cell s := rfl
theorem exec_predictionLanded (cell : Fin 16) (epoch : BitVec 16) (idx : Fin 1024) (grid : List GridEl) (s : State) : exec (.predictionLanded cell epoch idx grid) s = execPredictionLanded cell epoch idx grid s := rfl
theorem exec_predictionFault (cell : Fin 16) (epoch : BitVec 16) (idx : Fin 1024) (s : State) : exec (.predictionFault cell epoch idx) s = execPredictionFault cell epoch idx s := rfl
theorem exec_estimateReady (cell : Fin 16) (epoch : BitVec 16) (idx : Fin 1024) (grid : List GridEl) (s : State) : exec (.estimateReady cell epoch idx grid) s = execEstimateReady cell epoch idx grid s := rfl
theorem exec_itemFinal (cell : Fin 16) (epoch : BitVec 16) (idx : Fin 1024) (out soft elements : List Byte) (s : State) : exec (.itemFinal cell epoch idx out soft elements) s = execItemFinal cell epoch idx out soft elements s := rfl
theorem exec_deadlineEvent (cell : Fin 16) (s : State) : exec (.deadlineEvent cell) s = execDeadlineEvent cell s := rfl
theorem exec_kvAppend (cell : Fin 16) (epoch : BitVec 16) (idx : Fin 1024) (records : List (List Byte)) (s : State) : exec (.kvAppend cell epoch idx records) s = execKvAppend cell epoch idx records s := rfl
theorem exec_arrayPass (tile : Fin 32) (ctx : Fin 8) (s : State) : exec (.arrayPass tile ctx) s = execArrayPass tile ctx s := rfl
theorem exec_feederRefill (tile : Fin 32) (need spent : BitVec 16) (requests : List (Fin 16 × Fin 32)) (s : State) : exec (.feederRefill tile need spent requests) s = execFeederRefill tile need spent requests s := rfl
theorem exec_mvpVector (tile : Fin 32) (ctx : Fin 8) (s : State) : exec (.mvpVector tile ctx) s = execMvpVector tile ctx s := rfl
theorem exec_fillTimeout (tile : Fin 32) (ctx : Fin 8) (s : State) : exec (.fillTimeout tile ctx) s = execFillTimeout tile ctx s := rfl
theorem exec_stageTrigger (cell : Fin 16) (stage : Fin 16) (s : State) : exec (.stageTrigger cell stage) s = execStageTrigger cell stage s := rfl
theorem exec_stageItemPlacement (cell : Fin 16) (stage : Fin 16) (s : State) : exec (.stageItemPlacement cell stage) s = execStageItemPlacement cell stage s := rfl
theorem exec_preemptionRequest (tile : Fin 32) (s : State) : exec (.preemptionRequest tile) s = execPreemptionRequest tile s := rfl
theorem exec_spillStart (tile : Fin 32) (s : State) : exec (.spillStart tile) s = execSpillStart tile s := rfl
theorem exec_spillDone (tile : Fin 32) (took : BitVec 16) (s : State) : exec (.spillDone tile took) s = execSpillDone tile took s := rfl
theorem exec_preOver (tile : Fin 32) (s : State) : exec (.preOver tile) s = execPreOver tile s := rfl
theorem exec_lendingEnd (tile : Fin 32) (s : State) : exec (.lendingEnd tile) s = execLendingEnd tile s := rfl
theorem exec_restoreDone (tile : Fin 32) (s : State) : exec (.restoreDone tile) s = execRestoreDone tile s := rfl
theorem exec_preReq (a : Agent) (tile : Fin 32) (v : Word) (s : State) : exec (.preReq a tile v) s = execPreReq a tile v s := rfl
theorem exec_preRel (a : Agent) (tile : Fin 32) (v : Word) (s : State) : exec (.preRel a tile v) s = execPreRel a tile v s := rfl
theorem exec_navClr (a : Agent) (tile : Fin 32) (v : Word) (s : State) : exec (.navClr a tile v) s = execNavClr a tile v s := rfl
theorem exec_tileSramUe (tile : Fin 32) (part : TilePart) (s : State) : exec (.tileSramUe tile part) s = execTileSramUe tile part s := rfl
theorem exec_taskPlacement (f : Fin 17) (s : State) : exec (.taskPlacement f) s = execTaskPlacement f s := rfl
theorem exec_channelGo (a : Agent) (ch : Fin 192) (v : Word) (s : State) : exec (.channelGo a ch v) s = execChannelGo a ch v s := rfl
theorem exec_streamNop (ch : Fin 192) (s : State) : exec (.streamNop ch) s = execStreamNop ch s := rfl
theorem exec_copy (ch : Fin 192) (s : State) : exec (.copy ch) s = execCopy ch s := rfl
theorem exec_header (ch : Fin 192) (s : State) : exec (.header ch) s = execHeader ch s := rfl
theorem exec_rows (ch : Fin 192) (s : State) : exec (.rows ch) s = execRows ch s := rfl
theorem exec_link (ch : Fin 192) (s : State) : exec (.link ch) s = execLink ch s := rfl
theorem exec_collSend (ch : Fin 192) (s : State) : exec (.collSend ch) s = execCollSend ch s := rfl
theorem exec_collRecv (ch : Fin 192) (s : State) : exec (.collRecv ch) s = execCollRecv ch s := rfl
theorem exec_collRecvSum (ch : Fin 192) (s : State) : exec (.collRecvSum ch) s = execCollRecvSum ch s := rfl
theorem exec_undefinedStreamOpcode (ch : Fin 192) (s : State) : exec (.undefinedStreamOpcode ch) s = execUndefinedStreamOpcode ch s := rfl
theorem exec_seBurst (e : Fin 24) (s : State) : exec (.seBurst e) s = execSeBurst e s := rfl
theorem exec_semWaitGrant (p : Fin 256) (consumer : Bool) (s : State) : exec (.semWaitGrant p consumer) s = execSemWaitGrant p consumer s := rfl
theorem exec_semCfgWrite (a : Agent) (p : Fin 256) (v : Word) (s : State) : exec (.semCfgWrite a p v) s = execSemCfgWrite a p v s := rfl
theorem exec_semOwnWrite (a : Agent) (p : Fin 256) (v : Word) (s : State) : exec (.semOwnWrite a p v) s = execSemOwnWrite a p v s := rfl
theorem exec_semOpProducer (a : Agent) (p : Fin 256) (s : State) : exec (.semOpProducer a p) s = execSemOpProducer a p s := rfl
theorem exec_semOpConsumer (a : Agent) (p : Fin 256) (s : State) : exec (.semOpConsumer a p) s = execSemOpConsumer a p s := rfl
theorem exec_cslCommand (core : Fin 16) (s : State) : exec (.cslCommand core) s = execCslCommand core s := rfl
theorem exec_swapEffect (tile : Fin 32) (s : State) : exec (.swapEffect tile) s = execSwapEffect tile s := rfl
theorem exec_fenceComplete (f : Fin 17) (took : BitVec 16) (s : State) : exec (.fenceComplete f took) s = execFenceComplete f took s := rfl
theorem exec_hbmRead (block : BitVec 32) (symbols : Fin 65) (agent : Fin 192) (s : State) : exec (.hbmRead block symbols agent) s = execHbmRead block symbols agent s := rfl
theorem exec_hbmWrite (addr : BitVec 37) (data : List Byte) (badMerge : Bool) (agent : Fin 192) (s : State) : exec (.hbmWrite addr data badMerge agent) s = execHbmWrite addr data badMerge agent s := rfl
theorem exec_cacheAccess (addr : BitVec 37) (space : Fin 17) (write full : Bool) (attr : CacheAttr) (badWord : Bool) (s : State) : exec (.cacheAccess addr space write full attr badWord) s = execCacheAccess addr space write full attr badWord s := rfl
theorem exec_cacheFill (line : BitVec 30) (s : State) : exec (.cacheFill line) s = execCacheFill line s := rfl
theorem exec_hbmRefresh (block : BitVec 32) (s : State) : exec (.hbmRefresh block) s = execHbmRefresh block s := rfl
theorem exec_hbmHotChange (stack : Fin 8) (temp : BitVec 8) (s : State) : exec (.hbmHotChange stack temp) s = execHbmHotChange stack temp s := rfl
theorem exec_translationWalk (space : Fin 17) (va : DWord) (write : Bool) (agent : Byte) (s : State) : exec (.translationWalk space va write agent) s = execTranslationWalk space va write agent s := rfl
theorem exec_mmuInvGo (a : Agent) (v : Word) (s : State) : exec (.mmuInvGo a v) s = execMmuInvGo a v s := rfl
theorem exec_mmuInvDone (s : State) : exec (.mmuInvDone) s = execMmuInvDone s := rfl
theorem exec_spillWaysWrite (a : Agent) (v : Word) (s : State) : exec (.spillWaysWrite a v) s = execSpillWaysWrite a v s := rfl
theorem exec_navRoleMaskWrite (a : Agent) (pre : Bool) (v : Word) (s : State) : exec (.navRoleMaskWrite a pre v) s = execNavRoleMaskWrite a pre v s := rfl
theorem exec_hostReadCompletion (addr : DWord) (r : HostRead) (ch : Fin 192) (s : State) : exec (.hostReadCompletion addr r ch) s = execHostReadCompletion addr r ch s := rfl
theorem exec_hostReadTimeout (ch : Fin 192) (s : State) : exec (.hostReadTimeout ch) s = execHostReadTimeout ch s := rfl
theorem exec_selfRefreshEntry (s : State) : exec (.selfRefreshEntry) s = execSelfRefreshEntry s := rfl
theorem exec_seqOpen (a : Agent) (page : Option (Fin 17)) (v : Word) (s : State) : exec (.seqOpen a page v) s = execSeqOpen a page v s := rfl
theorem exec_seqClose (a : Agent) (page : Option (Fin 17)) (v : Word) (s : State) : exec (.seqClose a page v) s = execSeqClose a page v s := rfl
theorem exec_seqCloseEnd (page : Option (Fin 17)) (s : State) : exec (.seqCloseEnd page) s = execSeqCloseEnd page s := rfl
theorem exec_seqBadOp (a : Agent) (page : Option (Fin 17)) (v : Word) (s : State) : exec (.seqBadOp a page v) s = execSeqBadOp a page v s := rfl
theorem exec_seqGroupConfig (a : Agent) (g : Fin 64) (v : Word) (s : State) : exec (.seqGroupConfig a g v) s = execSeqGroupConfig a g v s := rfl
theorem exec_stepBegin (b : Fin 64) (s : State) : exec (.stepBegin b) s = execStepBegin b s := rfl
theorem exec_stepEnd (b : Fin 64) (outs : List EntryOut) (s : State) : exec (.stepEnd b outs) s = execStepEnd b outs s := rfl
theorem exec_doorbellPoll (f : Fin 17) (s : State) : exec (.doorbellPoll f) s = execDoorbellPoll f s := rfl
theorem exec_sqFetchError (f : Fin 17) (q : Fin 8) (s : State) : exec (.sqFetchError f q) s = execSqFetchError f q s := rfl
theorem exec_hostNop (f : Fin 17) (q : Fin 8) (s : State) : exec (.hostNop f q) s = execHostNop f q s := rfl
theorem exec_task (f : Fin 17) (q : Fin 8) (img : TaskImage) (s : State) : exec (.task f q img) s = execTask f q img s := rfl
theorem exec_step (f : Fin 17) (q : Fin 8) (s : State) : exec (.step f q) s = execStep f q s := rfl
theorem exec_collective (f : Fin 17) (q : Fin 8) (s : State) : exec (.collective f q) s = execCollective f q s := rfl
theorem exec_frameTx (f : Fin 17) (q : Fin 8) (s : State) : exec (.frameTx f q) s = execFrameTx f q s := rfl
theorem exec_rxPost (f : Fin 17) (q : Fin 8) (s : State) : exec (.rxPost f q) s = execRxPost f q s := rfl
theorem exec_undefinedHostOpcode (f : Fin 17) (q : Fin 8) (s : State) : exec (.undefinedHostOpcode f q) s = execUndefinedHostOpcode f q s := rfl
theorem exec_completionWrite (s : State) : exec (.completionWrite) s = execCompletionWrite s := rfl
theorem exec_coalTimeExpiry (f : Fin 17) (ring : Fin 18) (s : State) : exec (.coalTimeExpiry f ring) s = execCoalTimeExpiry f ring s := rfl
theorem exec_msixUnmask (a : Agent) (f : Fin 17) (vec : Fin 64) (s : State) : exec (.msixUnmask a f vec) s = execMsixUnmask a f vec s := rfl
theorem exec_rrBacklogMove (s : State) : exec (.rrBacklogMove) s = execRrBacklogMove s := rfl
theorem exec_ringEnable (a : Agent) (f : Fin 17) (ring : Fin 18) (v : Word) (s : State) : exec (.ringEnable a f ring v) s = execRingEnable a f ring v s := rfl
theorem exec_ringDisable (a : Agent) (f : Fin 17) (ring : Fin 18) (v : Word) (s : State) : exec (.ringDisable a f ring v) s = execRingDisable a f ring v s := rfl
theorem exec_ringConfigWrite (a : Agent) (f : Fin 17) (ring : Fin 18) (reg : Fin 3) (v : Word) (s : State) : exec (.ringConfigWrite a f ring reg v) s = execRingConfigWrite a f ring reg v s := rfl
theorem exec_glbSeal (a : Agent) (v : Word) (s : State) : exec (.glbSeal a v) s = execGlbSeal a v s := rfl
theorem exec_glbExpertWrite (a : Agent) (v : Word) (s : State) : exec (.glbExpertWrite a v) s = execGlbExpertWrite a v s := rfl
theorem exec_registerWrite (a : Agent) (off : BitVec 25) (v : Word) (s : State) : exec (.registerWrite a off v) s = execRegisterWrite a off v s := rfl
theorem exec_frameReceive (port : Fin 8) (bytes : List Byte) (s : State) : exec (.frameReceive port bytes) s = execFrameReceive port bytes s := rfl
theorem exec_macLearn (s : State) : exec (.macLearn) s = execMacLearn s := rfl
theorem exec_macAgeing (s : State) : exec (.macAgeing) s = execMacAgeing s := rfl
theorem exec_macRead (a : Agent) (v : Word) (s : State) : exec (.macRead a v) s = execMacRead a v s := rfl
theorem exec_macWrite (a : Agent) (v : Word) (s : State) : exec (.macWrite a v) s = execMacWrite a v s := rfl
theorem exec_macInvalidate (a : Agent) (v : Word) (s : State) : exec (.macInvalidate a v) s = execMacInvalidate a v s := rfl
theorem exec_flushPort (a : Agent) (v : Word) (s : State) : exec (.flushPort a v) s = execFlushPort a v s := rfl
theorem exec_fhLinkLost (port : Fin 8) (s : State) : exec (.fhLinkLost port) s = execFhLinkLost port s := rfl
theorem exec_fhLinkUp (port : Fin 8) (s : State) : exec (.fhLinkUp port) s = execFhLinkUp port s := rfl
theorem exec_egressSelect (port : Fin 8) (s : State) : exec (.egressSelect port) s = execEgressSelect port s := rfl
theorem exec_frameTxEnd (port : Fin 8) (s : State) : exec (.frameTxEnd port) s = execFrameTxEnd port s := rfl
theorem exec_shaperRefill (s : State) : exec (.shaperRefill) s = execShaperRefill s := rfl
theorem exec_cloisterPortFrame (bytes : List Byte) (s : State) : exec (.cloisterPortFrame bytes) s = execCloisterPortFrame bytes s := rfl
theorem exec_quadConfigWrite (a : Agent) (quad : Fin 2) (v : Word) (s : State) : exec (.quadConfigWrite a quad v) s = execQuadConfigWrite a quad v s := rfl
theorem exec_queueBufWrite (a : Agent) (port : Fin 8) (q : Fin 8) (v : Word) (s : State) : exec (.queueBufWrite a port q v) s = execQueueBufWrite a port q v s := rfl
theorem exec_spkEnable (a : Agent) (v : Word) (s : State) : exec (.spkEnable a v) s = execSpkEnable a v s := rfl
theorem exec_spkPortCtlWrite (a : Agent) (p : Fin 17) (v : Word) (s : State) : exec (.spkPortCtlWrite a p v) s = execSpkPortCtlWrite a p v s := rfl
theorem exec_spkFrameSend (p : Fin 17) (s : State) : exec (.spkFrameSend p) s = execSpkFrameSend p s := rfl
theorem exec_spkFrameReceive (p : Fin 17) (fecOk : Bool) (bytes : List Byte) (s : State) : exec (.spkFrameReceive p fecOk bytes) s = execSpkFrameReceive p fecOk bytes s := rfl
theorem exec_linkTrained (p : Fin 17) (rtt : BitVec 16) (s : State) : exec (.linkTrained p rtt) s = execLinkTrained p rtt s := rfl
theorem exec_spkLockLost (p : Fin 17) (s : State) : exec (.spkLockLost p) s = execSpkLockLost p s := rfl
theorem exec_helloSend (s : State) : exec (.helloSend) s = execHelloSend s := rfl
theorem exec_helloReceive (p : Fin 17) (uid : DWord) (hub : Bool) (partnerPort : Byte) (s : State) : exec (.helloReceive p uid hub partnerPort) s = execHelloReceive p uid hub partnerPort s := rfl
theorem exec_helloTimeout (p : Fin 17) (s : State) : exec (.helloTimeout p) s = execHelloTimeout p s := rfl
theorem exec_adjSend (s : State) : exec (.adjSend) s = execAdjSend s := rfl
theorem exec_adjReceive (p : Fin 17) (r : AdjRec) (s : State) : exec (.adjReceive p r) s = execAdjReceive p r s := rfl
theorem exec_settleExpiry (s : State) : exec (.settleExpiry) s = execSettleExpiry s := rfl
theorem exec_seatReceive (uid leader : DWord) (count seat : Byte) (s : State) : exec (.seatReceive uid leader count seat) s = execSeatReceive uid leader count seat s := rfl
theorem exec_reportSend (s : State) : exec (.reportSend) s = execReportSend s := rfl
theorem exec_assignReceive (p : Fin 17) (leader : DWord) (wheel count : Byte) (s : State) : exec (.assignReceive p leader wheel count) s = execAssignReceive p leader wheel count s := rfl
theorem exec_wheelNumReceive (uid : DWord) (wheel : Byte) (s : State) : exec (.wheelNumReceive uid wheel) s = execWheelNumReceive uid wheel s := rfl
theorem exec_hubTimeout (s : State) : exec (.hubTimeout) s = execHubTimeout s := rfl
theorem exec_discoveryWaitTimeout (item : BitVec 32) (s : State) : exec (.discoveryWaitTimeout item) s = execDiscoveryWaitTimeout item s := rfl
theorem exec_spkMessageReceive (p : Fin 17) (m : SpkMsg) (s : State) : exec (.spkMessageReceive p m) s = execSpkMessageReceive p m s := rfl
theorem exec_abortReceive (collId : Word) (reason : Byte) (s : State) : exec (.abortReceive collId reason) s = execAbortReceive collId reason s := rfl
theorem exec_collTimeout (item : BitVec 32) (s : State) : exec (.collTimeout item) s = execCollTimeout item s := rfl
theorem exec_twinEnable (a : Agent) (v : Word) (s : State) : exec (.twinEnable a v) s = execTwinEnable a v s := rfl
theorem exec_twinDisable (a : Agent) (v : Word) (s : State) : exec (.twinDisable a v) s = execTwinDisable a v s := rfl
theorem exec_twinHelloReceive (h : TwinHello) (s : State) : exec (.twinHelloReceive h) s = execTwinHelloReceive h s := rfl
theorem exec_compareRecordReceive (r : CompareRec) (s : State) : exec (.compareRecordReceive r) s = execCompareRecordReceive r s := rfl
theorem exec_twinWaitExpiry (s : State) : exec (.twinWaitExpiry) s = execTwinWaitExpiry s := rfl
theorem exec_digestFinal (s : State) : exec (.digestFinal) s = execDigestFinal s := rfl
theorem exec_cryInval (a : Agent) (v : Word) (s : State) : exec (.cryInval a v) s = execCryInval a v s := rfl
theorem exec_digestQuery (a : Agent) (v : Word) (s : State) : exec (.digestQuery a v) s = execDigestQuery a v s := rfl
theorem exec_replayArm (a : Agent) (v : Word) (s : State) : exec (.replayArm a v) s = execReplayArm a v s := rfl
theorem exec_viReset (a : Agent) (v : Word) (s : State) : exec (.viReset a v) s = execViReset a v s := rfl
theorem exec_vfFlr (vi : Fin 16) (s : State) : exec (.vfFlr vi) s = execVfFlr vi s := rfl
theorem exec_unitZeroingDone (u : UnitRef) (s : State) : exec (.unitZeroingDone u) s = execUnitZeroingDone u s := rfl
theorem exec_reconciliation (s : State) : exec (.reconciliation) s = execReconciliation s := rfl
theorem exec_glbUnitClr (a : Agent) (v : Word) (s : State) : exec (.glbUnitClr a v) s = execGlbUnitClr a v s := rfl
theorem exec_getFw (a : Agent) (v : Word) (s : State) : exec (.getFw a v) s = execGetFw a v s := rfl
theorem exec_updBegin (a : Agent) (v : Word) (s : State) : exec (.updBegin a v) s = execUpdBegin a v s := rfl
theorem exec_updImage (a : Agent) (v : Word) (s : State) : exec (.updImage a v) s = execUpdImage a v s := rfl
theorem exec_updChunk (a : Agent) (v : Word) (s : State) : exec (.updChunk a v) s = execUpdChunk a v s := rfl
theorem exec_updVerify (a : Agent) (v : Word) (s : State) : exec (.updVerify a v) s = execUpdVerify a v s := rfl
theorem exec_probe (a : Agent) (v : Word) (s : State) : exec (.probe a v) s = execProbe a v s := rfl
theorem exec_updActivate (a : Agent) (v : Word) (s : State) : exec (.updActivate a v) s = execUpdActivate a v s := rfl
theorem exec_updAbort (a : Agent) (v : Word) (s : State) : exec (.updAbort a v) s = execUpdAbort a v s := rfl
theorem exec_setUnit (a : Agent) (v : Word) (s : State) : exec (.setUnit a v) s = execSetUnit a v s := rfl
theorem exec_clearUnit (a : Agent) (v : Word) (s : State) : exec (.clearUnit a v) s = execClearUnit a v s := rfl
theorem exec_mailboxCommandEnd (s : State) : exec (.mailboxCommandEnd) s = execMailboxCommandEnd s := rfl
theorem exec_updSessionTimeout (s : State) : exec (.updSessionTimeout) s = execUpdSessionTimeout s := rfl
theorem exec_setEndpointId (eid : Byte) (s : State) : exec (.setEndpointId eid) s = execSetEndpointId eid s := rfl
theorem exec_getEndpointId (s : State) : exec (.getEndpointId) s = execGetEndpointId s := rfl
theorem exec_getEndpointUuid (s : State) : exec (.getEndpointUuid) s = execGetEndpointUuid s := rfl
theorem exec_getMctpVersionSupport (msgType : Byte) (s : State) : exec (.getMctpVersionSupport msgType) s = execGetMctpVersionSupport msgType s := rfl
theorem exec_getMessageTypeSupport (s : State) : exec (.getMessageTypeSupport) s = execGetMessageTypeSupport s := rfl
theorem exec_mctpOtherType (msgType : Byte) (wantsReply : Bool) (s : State) : exec (.mctpOtherType msgType wantsReply) s = execMctpOtherType msgType wantsReply s := rfl
theorem exec_getTid (s : State) : exec (.getTid) s = execGetTid s := rfl
theorem exec_getPldmVersion (ty : Byte) (s : State) : exec (.getPldmVersion ty) s = execGetPldmVersion ty s := rfl
theorem exec_getPldmTypes (s : State) : exec (.getPldmTypes) s = execGetPldmTypes s := rfl
theorem exec_getPldmCommands (ty : Byte) (s : State) : exec (.getPldmCommands ty) s = execGetPldmCommands ty s := rfl
theorem exec_getPdr (handle : Word) (s : State) : exec (.getPdr handle) s = execGetPdr handle s := rfl
theorem exec_getSensorReading (sensor : BitVec 16) (s : State) : exec (.getSensorReading sensor) s = execGetSensorReading sensor s := rfl
theorem exec_setNumericEffecterValue (effecter : BitVec 16) (v : Word) (s : State) : exec (.setNumericEffecterValue effecter v) s = execSetNumericEffecterValue effecter v s := rfl
theorem exec_requestUpdate (s : State) : exec (.requestUpdate) s = execRequestUpdate s := rfl
theorem exec_passComponentTable (kinds : List (Fin 4)) (s : State) : exec (.passComponentTable kinds) s = execPassComponentTable kinds s := rfl
theorem exec_updateComponent (kind : Fin 4) (size : Word) (s : State) : exec (.updateComponent kind size) s = execUpdateComponent kind size s := rfl
theorem exec_requestFirmwareData (offset : Word) (data : List Byte) (s : State) : exec (.requestFirmwareData offset data) s = execRequestFirmwareData offset data s := rfl
theorem exec_transferComplete (ok : Bool) (s : State) : exec (.transferComplete ok) s = execTransferComplete ok s := rfl
theorem exec_verifyComplete (s : State) : exec (.verifyComplete) s = execVerifyComplete s := rfl
theorem exec_applyComplete (ok : Bool) (s : State) : exec (.applyComplete ok) s = execApplyComplete ok s := rfl
theorem exec_activateFirmware (s : State) : exec (.activateFirmware) s = execActivateFirmware s := rfl
theorem exec_getStatus (s : State) : exec (.getStatus) s = execGetStatus s := rfl
theorem exec_cancelUpdate (s : State) : exec (.cancelUpdate) s = execCancelUpdate s := rfl
theorem exec_smbusTimeout (s : State) : exec (.smbusTimeout) s = execSmbusTimeout s := rfl
theorem exec_chmOvrWrite (a : Agent) (v : Word) (s : State) : exec (.chmOvrWrite a v) s = execChmOvrWrite a v s := rfl
theorem exec_profileRequest (a : Agent) (v : Word) (s : State) : exec (.profileRequest a v) s = execProfileRequest a v s := rfl
theorem exec_profileChangeComplete (s : State) : exec (.profileChangeComplete) s = execProfileChangeComplete s := rfl
theorem exec_dvfsRequest (a : Agent) (v : Word) (s : State) : exec (.dvfsRequest a v) s = execDvfsRequest a v s := rfl
theorem exec_dvfsStep (cl : Bool) (ack : Bool) (s : State) : exec (.dvfsStep cl ack) s = execDvfsStep cl ack s := rfl
theorem exec_slewWaitEnd (cl : Bool) (s : State) : exec (.slewWaitEnd cl) s = execSlewWaitEnd cl s := rfl
theorem exec_pmbusRetry (cl : Bool) (ack : Bool) (s : State) : exec (.pmbusRetry cl ack) s = execPmbusRetry cl ack s := rfl
theorem exec_sensorSample (temps : List (BitVec 12)) (s : State) : exec (.sensorSample temps) s = execSensorSample temps s := rfl
theorem exec_powerEstimate (mw : List Word) (s : State) : exec (.powerEstimate mw) s = execPowerEstimate mw s := rfl
theorem exec_throttleStep (s : State) : exec (.throttleStep) s = execThrottleStep s := rfl
theorem exec_throttleReleaseStep (s : State) : exec (.throttleReleaseStep) s = execThrottleReleaseStep s := rfl
theorem exec_tick (s : State) : exec (.tick) s = execTick s := rfl
theorem exec_rxLockGained (s : State) : exec (.rxLockGained) s = execRxLockGained s := rfl
theorem exec_txLockGained (s : State) : exec (.txLockGained) s = execTxLockGained s := rfl
theorem exec_sysrefEdge (s : State) : exec (.sysrefEdge) s = execSysrefEdge s := rfl
theorem exec_transmitSamples (t : Fin 4) (x : List IQ) (s : State) : exec (.transmitSamples t x) s = execTransmitSamples t x s := rfl
theorem exec_spkSignalPresent (p : Fin 17) (s : State) : exec (.spkSignalPresent p) s = execSpkSignalPresent p s := rfl
theorem exec_selfRefreshExit (s : State) : exec (.selfRefreshExit) s = execSelfRefreshExit s := rfl


end Sys2Proof.Machine
end

