-- ==== Sys2Proof/Laws/Keeps.lean ====
section
/-! SUPPORT. What every operation of the block keeps: a sound state the queue of waiting commands
and, but for the commands that move it, the time. The lemmas of Laws/Keep*.lean
say it of each operation; here are the shapes they are put together from. -/

namespace Sys2Proof.Machine

/-- What a run of operations is to keep: the queue of waiting commands and, where it is given, the time of day and the DNC. -/
structure Kept where
  queue : List Instr
  time  : Option (Tod × Nat)

/-- The same, without the time. -/
def Kept.untimed (q : Kept) : Kept := { q with time := none }

/-- The state is sound, its queue is that of `q`, and its time too where `q` gives one. -/
structure Keeps (q : Kept) (s : State) : Prop where
  sound   : Sound s
  pending : s.pending = q.queue
  clock   : ∀ x, q.time = some x → (s.bel.tod, s.bel.dnc) = x

theorem Keeps.untimed {q : Kept} {s : State} (h : Keeps q s) : Keeps q.untimed s := ⟨h.sound, h.pending, fun _ e => nomatch e⟩

theorem keeps_of_same {q : Kept} {s t : State} (h : Keeps q t) (hb : s.bel = t.bel) (hr : s.regs = t.regs) (hh : s.hbm = t.hbm)
    (hm : s.hostMem = t.hostMem) (hp : s.pending = t.pending) : Keeps q s :=
  ⟨⟨by rw [hb]; exact h.sound.time, by rw [hr]; exact h.sound.regs, by rw [hh]; exact h.sound.hbm, by rw [hm]; exact h.sound.hostMem⟩,
    by rw [hp]; exact h.pending, by rw [hb]; exact h.clock⟩

/-- A state that differs from a kept one outside the time, the registers, the memories and the queue. -/
theorem keeps_mk {q : Kept} {t : State} {regs : Tab Word} {bel : BelSt} {mem : MemSt} {rfi : RfiSt} {clo : Tab Core}
    {nav : Tab Tile} {se : SeSt} {units : Tab UnitSt} {cry : CrySt} {seq : SeqSt} {fwl : Tab FwCell} {spk : SpkSt} {fhs : FhsSt}
    {chm : ChmSt} {host : HostSt} {hbm hostMem : Mem} {out : List OutMsg} {free : Nat} {pending : List Instr}
    (hb : bel = t.bel) (hr : regs = t.regs) (hh : hbm = t.hbm) (hm : hostMem = t.hostMem) (hp : pending = t.pending) (h : Keeps q t) :
    Keeps q (State.mk regs bel mem rfi clo nav se units cry seq fwl spk fhs chm host hbm hostMem out free pending) :=
  keeps_of_same h hb hr hh hm hp

/-- New registers and memories in canonical form, beside the time and the queue of a kept state. -/
theorem keeps_parts {q : Kept} {t : State} {regs : Tab Word} {bel : BelSt} {mem : MemSt} {rfi : RfiSt} {clo : Tab Core}
    {nav : Tab Tile} {se : SeSt} {units : Tab UnitSt} {cry : CrySt} {seq : SeqSt} {fwl : Tab FwCell} {spk : SpkSt} {fhs : FhsSt}
    {chm : ChmSt} {host : HostSt} {hbm hostMem : Mem} {out : List OutMsg} {free : Nat} {pending : List Instr}
    (h : Keeps q t) (hb : bel = t.bel) (hr : Tab.wf resetVal regs = true) (hh : Tab.wf memDefault hbm = true)
    (hm : Tab.wf memDefault hostMem = true) (hp : pending = t.pending) :
    Keeps q (State.mk regs bel mem rfi clo nav se units cry seq fwl spk fhs chm host hbm hostMem out free pending) := by
  subst hb hp
  exact ⟨⟨h.sound.time, hr, hh, hm⟩, h.pending, h.clock⟩

/-- A completion of a read of host memory is placed there. -/
theorem keeps_hostMem {q : Kept} {t : State} (a : Nat) (bs : List Byte) (h : Keeps q t) :
    Keeps q { t with hostMem := t.hostMem.write a bs } :=
  keeps_parts h rfl h.sound.regs h.sound.hbm (Mem.wf_write _ _ _ h.sound.hostMem) rfl

/-- A new Belfry with the same time and a sound pending set, beside a state that is kept. -/
theorem keeps_time {q : Kept} {t : State} {b : BelSt} (h : Keeps q t) (h1 : b.tod = t.bel.tod) (h2 : b.dnc = t.bel.dnc)
    (h3 : ∀ x y, b.setPend = some (x, y) → x.ok) : Keeps q { t with bel := b } :=
  ⟨⟨⟨h1 ▸ h.sound.time.1, h2 ▸ h.sound.time.2.1, h3⟩, h.sound.regs, h.sound.hbm, h.sound.hostMem⟩, h.pending,
    fun x e => by rw [← h.clock x e, ← h1, ← h2]⟩

/-- A new Belfry whose time is sound, where the time is not to be kept. -/
theorem keeps_retimed {q : Kept} {t : State} {b : BelSt} (h : Keeps q.untimed t) (hb : b.ok) : Keeps q.untimed { t with bel := b } :=
  ⟨⟨hb, h.sound.regs, h.sound.hbm, h.sound.hostMem⟩, h.pending, fun _ e => nomatch e⟩

/-- Registers that a reset clears: the kept state with part of its registers. -/
theorem keeps_keep {q : Kept} {t : State} (p : Nat → Bool) (h : Keeps q t) : Keeps q { t with regs := Tab.keep p t.regs } :=
  keeps_parts h rfl (Tab.wf_keep _ _ _ h.sound.regs) h.sound.hbm h.sound.hostMem rfl

theorem belSt_ok_zero : ({} : BelSt).ok := ⟨⟨by decide, by decide, by decide⟩, by decide, fun _ _ e => nomatch e⟩

/-- The Belfry at zero, as when the device clock starts. -/
theorem keeps_zero {q : Kept} {t : State} {regs : Tab Word} {mem : MemSt} {rfi : RfiSt} {clo : Tab Core}
    {nav : Tab Tile} {se : SeSt} {units : Tab UnitSt} {cry : CrySt} {seq : SeqSt} {fwl : Tab FwCell} {spk : SpkSt} {fhs : FhsSt}
    {chm : ChmSt} {host : HostSt} {hbm hostMem : Mem} {out : List OutMsg} {free : Nat} {pending : List Instr}
    (hr : regs = t.regs) (hh : hbm = t.hbm) (hm : hostMem = t.hostMem) (hp : pending = t.pending) (h : Keeps q.untimed t) :
    Keeps q.untimed (State.mk regs {} mem rfi clo nav se units cry seq fwl spk fhs chm host hbm hostMem out free pending) := by
  subst hr hh hm hp
  exact ⟨⟨belSt_ok_zero, h.sound.regs, h.sound.hbm, h.sound.hostMem⟩, h.pending, fun _ e => nomatch e⟩

/-- A change of the Belfry that leaves its time, and sets no time to come. -/
theorem keeps_belfry {q : Kept} {t : State} {regs : Tab Word} {mem : MemSt} {rfi : RfiSt} {clo : Tab Core}
    {nav : Tab Tile} {se : SeSt} {units : Tab UnitSt} {cry : CrySt} {seq : SeqSt} {fwl : Tab FwCell} {spk : SpkSt} {fhs : FhsSt}
    {chm : ChmSt} {host : HostSt} {hbm hostMem : Mem} {out : List OutMsg} {free : Nat} {pending : List Instr} {tod : Tod} {dnc : Nat}
    {snaps : Tab Snap} {setPend : Option (Tod × Option Nat)} {ofsPend : Option Int} {gens : Tab Gen} {cmps : Tab Cmp}
    {ppsDue ppsHigh : Bool} {ppsEnd rclkAcc : Nat} {rclkLevel : Bool}
    (h1 : tod = t.bel.tod) (h2 : dnc = t.bel.dnc) (h3 : ∀ x, setPend = some x → t.bel.setPend = some x)
    (hr : regs = t.regs) (hh : hbm = t.hbm) (hm : hostMem = t.hostMem) (hp : pending = t.pending) (h : Keeps q t) :
    Keeps q (State.mk regs (BelSt.mk tod dnc snaps setPend ofsPend gens cmps ppsDue ppsHigh ppsEnd rclkAcc rclkLevel) mem rfi clo nav
      se units cry seq fwl spk fhs chm host hbm hostMem out free pending) := by
  subst h1 h2 hr hh hm hp
  exact ⟨⟨⟨h.sound.time.1, h.sound.time.2.1, fun a b e => h.sound.time.2.2 a b (h3 _ e)⟩, h.sound.regs, h.sound.hbm,
    h.sound.hostMem⟩, h.pending, h.clock⟩

theorem keeps_fst {α : Type} {q : Kept} {p : State × α} {s : State} {a : α} (e : p = (s, a)) (h : Keeps q p.1) : Keeps q s := by
  subst e; exact h

theorem keeps_snd {α : Type} {q : Kept} {p : α × State} {s : State} {a : α} (e : p = (a, s)) (h : Keeps q p.2) : Keeps q s := by
  subst e; exact h

theorem keeps_trd {α β : Type} {q : Kept} {p : α × β × State} {s : State} {a : α} {b : β} (e : p = (a, b, s))
    (h : Keeps q p.2.2) : Keeps q s := by
  subst e; exact h

theorem keeps_fst3 {α β : Type} {q : Kept} {p : State × α × β} {s : State} {a : α} {b : β} (e : p = (s, a, b))
    (h : Keeps q p.1) : Keeps q s := by
  subst e; exact h

theorem keeps_foldl {α : Type} {q : Kept} {f : State → α → State} (hf : ∀ s x, Keeps q s → Keeps q (f s x)) (l : List α) :
    ∀ {s : State}, Keeps q s → Keeps q (l.foldl f s) := by
  induction l with
  | nil => intro s h; exact h
  | cons a l ih => intro s h; exact ih (hf s a h)

theorem keeps_foldl_fst {α β : Type} {q : Kept} {f : State × β → α → State × β}
    (hf : ∀ r x, Keeps q r.1 → Keeps q (f r x).1) (l : List α) : ∀ {r : State × β}, Keeps q r.1 → Keeps q (l.foldl f r).1 := by
  induction l with
  | nil => intro r h; exact h
  | cons a l ih => intro r h; exact ih (hf r a h)

theorem keeps_ite {q : Kept} {c : Prop} [Decidable c] {s t : State} (hs : c → Keeps q s) (ht : ¬c → Keeps q t) :
    Keeps q (if c then s else t) := by
  split
  · exact hs ‹_›
  · exact ht ‹_›

theorem ends_next {P : State → Prop} {t : State} (h : P t) : Ends P (.next t) := ⟨t, rfl, h⟩

end Sys2Proof.Machine
end

