-- ==== Sys2Proof/Laws/KeepOps.lean ====
section
/-! SUPPORT. What the operations of Machine/Ops.lean keep. -/

namespace Sys2Proof.Machine

theorem State.setReg_keeps {pq : Kept} (s : State) (off : Nat) (w : Word) (h : Keeps pq s) : Keeps pq (State.setReg s off w) :=
  keeps_parts h rfl (Tab.wf_set _ _ _ _ h.sound.regs) h.sound.hbm h.sound.hostMem rfl

theorem State.setFld_keeps {pq : Kept} (s : State) (off : Nat) (f : Fld) (n : Nat) (hkp : Keeps pq s) : Keeps pq (State.setFld s off f n) := by
  unfold State.setFld
  repeat' (first | (with_reducible assumption) | (with_reducible apply State.setReg_keeps) | (intro _) | split | (dsimp only))

theorem State.setFlag_keeps {pq : Kept} (s : State) (off : Nat) (f : Fld) (b : Bool) (hkp : Keeps pq s) : Keeps pq (State.setFlag s off f b) := by
  unfold State.setFlag
  repeat' (first | (with_reducible assumption) | (with_reducible apply State.setFld_keeps) | (intro _) | split | (dsimp only))

theorem State.addSat_keeps {pq : Kept} (s : State) (off : Nat) (f : Fld) (n : Nat) (hkp : Keeps pq s) : Keeps pq (State.addSat s off f n) := by
  unfold State.addSat
  repeat' (first | (with_reducible assumption) | (with_reducible apply State.setFld_keeps) | (intro _) | split | (dsimp only))

theorem State.addWrap_keeps {pq : Kept} (s : State) (off : Nat) (f : Fld) (n : Nat) (hkp : Keeps pq s) : Keeps pq (State.addWrap s off f n) := by
  unfold State.addWrap
  repeat' (first | (with_reducible assumption) | (with_reducible apply State.setFld_keeps) | (intro _) | split | (dsimp only))

theorem State.setPair_keeps {pq : Kept} (s : State) (lo hi v : Nat) (hkp : Keeps pq s) : Keeps pq (State.setPair s lo hi v) := by
  unfold State.setPair
  repeat' (first | (with_reducible assumption) | (with_reducible apply State.setReg_keeps) | (intro _) | split | (dsimp only))

theorem State.draw_keeps {pq : Kept} (s : State) (hkp : Keeps pq s) : Keeps pq (State.draw s).2 := by
  unfold State.draw
  repeat' (first | (with_reducible assumption) | (intro _) | split | (dsimp only) | (with_reducible refine keeps_mk rfl rfl rfl rfl rfl ?_))

theorem State.emit_keeps {pq : Kept} (s : State) (m : OutMsg) (hkp : Keeps pq s) : Keeps pq (State.emit s m) := by
  unfold State.emit
  repeat' (first | (with_reducible assumption) | (intro _) | split | (dsimp only) | (with_reducible refine keeps_mk rfl rfl rfl rfl rfl ?_))

theorem hostWrite_keeps {pq : Kept} (addr : Nat) (bs : List Byte) (s : State) (h : Keeps pq s) : Keeps pq (hostWrite addr bs s) := by
  unfold hostWrite
  split
  · exact keeps_parts h rfl h.sound.regs h.sound.hbm (Mem.wf_write _ _ _ h.sound.hostMem) rfl
  · exact h

theorem State.setRing_keeps {pq : Kept} (s : State) (f k : Nat) (r : Ring) (hkp : Keeps pq s) : Keeps pq (State.setRing s f k r) := by
  unfold State.setRing
  repeat' (first | (with_reducible assumption) | (intro _) | split | (dsimp only) | (with_reducible refine keeps_mk rfl rfl rfl rfl rfl ?_))

theorem shadowWrite_keeps {pq : Kept} (f k : Nat) (s : State) (hkp : Keeps pq s) : Keeps pq (shadowWrite f k s) := by
  unfold shadowWrite
  repeat' (first | (with_reducible assumption) | (with_reducible apply hostWrite_keeps) | (intro _) | split | (dsimp only))

theorem freshRead_keeps {pq : Kept} (f k : Nat) (s : State) (hkp : Keeps pq s) : Keeps pq (freshRead f k s) := by
  unfold freshRead
  repeat' (first | (with_reducible assumption) | (with_reducible apply State.setRing_keeps) | (intro _) | split | (dsimp only))

theorem raiseVec_keeps {pq : Kept} (f vec : Nat) (s : State) (hkp : Keeps pq s) : Keeps pq (raiseVec f vec s) := by
  unfold raiseVec
  repeat' (first | (with_reducible assumption) | (with_reducible apply State.emit_keeps) | (with_reducible apply State.setReg_keeps) | (with_reducible apply keeps_ite) | (intro _) | split | (dsimp only))

theorem countEntry_keeps {pq : Kept} (f k : Nat) (s : State) (hkp : Keeps pq s) : Keeps pq (countEntry f k s) := by
  unfold countEntry
  repeat' (first | (with_reducible assumption) | (with_reducible apply State.setRing_keeps) | (with_reducible apply raiseVec_keeps) | (with_reducible apply keeps_ite) | (intro _) | split | (dsimp only))

theorem dropEvent_keeps {pq : Kept} (g : Nat) (s : State) (hkp : Keeps pq s) : Keeps pq (dropEvent g s) := by
  unfold dropEvent
  repeat' (first | (with_reducible assumption) | (with_reducible apply State.addSat_keeps) | (with_reducible apply State.setFlag_keeps) | (with_reducible apply keeps_ite) | (intro _) | split | (dsimp only) | (with_reducible refine keeps_mk rfl rfl rfl rfl rfl ?_))

theorem postEq_keeps {pq : Kept} (g code f info : Nat) (s : State) (hkp : Keeps pq s) : Keeps pq (postEq g code f info s) := by
  unfold postEq
  repeat' (first | (with_reducible assumption) | (with_reducible apply State.setRing_keeps) | (with_reducible apply countEntry_keeps) | (with_reducible apply dropEvent_keeps) | (with_reducible apply freshRead_keeps) | (with_reducible apply hostWrite_keeps) | (with_reducible apply shadowWrite_keeps) | (with_reducible apply keeps_ite) | (intro _) | split | (dsimp only) | (with_reducible refine keeps_mk rfl rfl rfl rfl rfl ?_))

theorem event_keeps {pq : Kept} (code f info : Nat) (s : State) (hkp : Keeps pq s) : Keeps pq (event code f info s) := by
  unfold event
  repeat' (first | (with_reducible assumption) | (with_reducible apply postEq_keeps) | (intro _) | split | (dsimp only))

theorem eventVi_keeps {pq : Kept} (code f info : Nat) (s : State) (hkp : Keeps pq s) : Keeps pq (eventVi code f info s) := by
  unfold eventVi
  repeat' (first | (with_reducible assumption) | (with_reducible apply postEq_keeps) | (with_reducible apply keeps_ite) | (intro _) | split | (dsimp only))

theorem recordDisc_keeps {pq : Kept} (a : Agent) (off kind : Nat) (s : State) (hkp : Keeps pq s) : Keeps pq (recordDisc a off kind s) := by
  unfold recordDisc
  repeat' (first | (with_reducible assumption) | (with_reducible apply State.setReg_keeps) | (with_reducible apply event_keeps) | (with_reducible apply keeps_ite) | (intro _) | split | (dsimp only))

theorem reportPf_keeps {pq : Kept} (a : Agent) (s : State) (hkp : Keeps pq s) : Keeps pq (reportPf a s) := by
  unfold reportPf
  repeat' (first | (with_reducible assumption) | (with_reducible apply State.setFlag_keeps) | (intro _) | split | (dsimp only))

theorem storeReg_keeps {pq : Kept} (a : Agent) (off : Nat) (v : Word) (s : State) (hkp : Keeps pq s) : Keeps pq (storeReg a off v s) := by
  unfold storeReg
  repeat' (first | (with_reducible assumption) | (with_reducible apply State.setFlag_keeps) | (with_reducible apply State.setReg_keeps) | (with_reducible apply recordDisc_keeps) | (with_reducible apply reportPf_keeps) | (with_reducible apply keeps_ite) | (intro _) | split | (dsimp only))

theorem reportExpert_keeps {pq : Kept} (a : Agent) (off : Nat) (s : State) (hkp : Keeps pq s) : Keeps pq (reportExpert a off s) := by
  unfold reportExpert
  repeat' (first | (with_reducible assumption) | (with_reducible apply State.setFlag_keeps) | (with_reducible apply recordDisc_keeps) | (intro _) | split | (dsimp only))

end Sys2Proof.Machine
end

