-- ==== Sys2Proof/Laws/KeepBelfry.lean ====
section
/-! SUPPORT. What the operations of Machine/Belfry.lean keep. -/

namespace Sys2Proof.Machine

theorem State.setGen_keeps {pq : Kept} (s : State) (g : Nat) (x : Gen) (hkp : Keeps pq s) : Keeps pq (State.setGen s g x) := by
  unfold State.setGen
  repeat' (first | (with_reducible assumption) | (intro _) | split | (dsimp only) | (with_reducible refine keeps_belfry rfl rfl (fun _ e => e) rfl rfl rfl rfl ?_) | (with_reducible refine keeps_belfry rfl rfl (fun _ e => nomatch e) rfl rfl rfl rfl ?_) | (with_reducible refine keeps_mk rfl rfl rfl rfl rfl ?_))

theorem State.setCmp_keeps {pq : Kept} (s : State) (c : Nat) (x : Cmp) (hkp : Keeps pq s) : Keeps pq (State.setCmp s c x) := by
  unfold State.setCmp
  repeat' (first | (with_reducible assumption) | (intro _) | split | (dsimp only) | (with_reducible refine keeps_belfry rfl rfl (fun _ e => e) rfl rfl rfl rfl ?_) | (with_reducible refine keeps_belfry rfl rfl (fun _ e => nomatch e) rfl rfl rfl rfl ?_) | (with_reducible refine keeps_mk rfl rfl rfl rfl rfl ?_))

theorem setSnap_keeps {pq : Kept} (a : Agent) (x : Snap) (s : State) (hkp : Keeps pq s) : Keeps pq (setSnap a x s) := by
  unfold setSnap
  repeat' (first | (with_reducible assumption) | (intro _) | split | (dsimp only) | (with_reducible refine keeps_belfry rfl rfl (fun _ e => e) rfl rfl rfl rfl ?_) | (with_reducible refine keeps_belfry rfl rfl (fun _ e => nomatch e) rfl rfl rfl rfl ?_) | (with_reducible refine keeps_mk rfl rfl rfl rfl rfl ?_))

theorem todSnapshot_keeps {pq : Kept} (a : Agent) (s : State) (hkp : Keeps pq s) : Keeps pq (todSnapshot a s) := by
  unfold todSnapshot
  repeat' (first | (with_reducible assumption) | (with_reducible apply setSnap_keeps) | (with_reducible apply keeps_ite) | (intro _) | split | (dsimp only))

theorem execTodSnapshot_keeps {pq : Kept} (a : Agent) (s : State) (hkp : Keeps pq s) : Ends (Keeps pq) (execTodSnapshot a s) := by
  unfold execTodSnapshot
  repeat' (first | (with_reducible assumption) | (with_reducible apply todSnapshot_keeps) | (with_reducible apply ends_next) | (intro _) | split | (dsimp only))

theorem dncSnapshot_keeps {pq : Kept} (a : Agent) (s : State) (hkp : Keeps pq s) : Keeps pq (dncSnapshot a s) := by
  unfold dncSnapshot
  repeat' (first | (with_reducible assumption) | (with_reducible apply setSnap_keeps) | (with_reducible apply keeps_ite) | (intro _) | split | (dsimp only))

theorem execDncSnapshot_keeps {pq : Kept} (a : Agent) (s : State) (hkp : Keeps pq s) : Ends (Keeps pq) (execDncSnapshot a s) := by
  unfold execDncSnapshot
  repeat' (first | (with_reducible assumption) | (with_reducible apply dncSnapshot_keeps) | (with_reducible apply ends_next) | (intro _) | split | (dsimp only))

theorem ownerWrite_keeps {pq : Kept} (a : Agent) (off : Nat) (s : State) (k : State → State) (h : Keeps pq s)
    (hk : ∀ s, Keeps pq s → Keeps pq (k s)) : Keeps pq (ownerWrite a off s k) := by
  unfold ownerWrite
  repeat' (first | (with_reducible assumption) | (with_reducible apply hk) | (with_reducible apply State.setFlag_keeps) | split)

theorem writeFreqAdj_keeps {pq : Kept} (a : Agent) (v : Word) (s : State) (hkp : Keeps pq s) : Keeps pq (writeFreqAdj a v s) := by
  unfold writeFreqAdj
  repeat' (first | (with_reducible assumption) | (with_reducible apply State.setFlag_keeps) | (with_reducible apply State.setReg_keeps) | (with_reducible apply ownerWrite_keeps) | (with_reducible apply keeps_ite) | (intro _) | split | (dsimp only))

theorem execFreqAdjWrite_keeps {pq : Kept} (a : Agent) (v : Word) (s : State) (hkp : Keeps pq s) : Ends (Keeps pq) (execFreqAdjWrite a v s) := by
  unfold execFreqAdjWrite
  repeat' (first | (with_reducible assumption) | (with_reducible apply writeFreqAdj_keeps) | (with_reducible apply ends_next) | (intro _) | split | (dsimp only))

theorem stagedTod_ok (s : State) (h : ¬(s.reg R.BEL_SET_NS).toNat > 999999999) : (stagedTod s).ok := by
  refine ⟨?_, by simp only [stagedTod]; omega, ?_⟩
  · have h1 := (s.reg R.BEL_SET_SEC_LO).isLt
    have h2 : s.fld R.BEL_SET_SEC_HI F.BEL_SET_SEC_HI_SEC < 2 ^ 16 := Nat.mod_lt _ (by decide)
    simp only [stagedTod]; omega
  · have h2 : s.fld R.BEL_SET_FRAC F.BEL_SET_FRAC_FRAC < 2 ^ 16 := Nat.mod_lt _ (by decide)
    simp only [stagedTod]; omega

theorem timeGo_keeps {pq : Kept} (s : State) (h : Keeps pq s) : Keeps pq (timeGo s) := by
  unfold timeGo
  split
  · exact h
  · split
    · exact State.setFlag_keeps _ _ _ _ h
    · rename_i hn
      refine keeps_time (State.setFlag_keeps _ _ _ _ h) rfl rfl ?_
      intro t a e
      simp only [Option.some.injEq, Prod.mk.injEq] at e
      exact e.1 ▸ stagedTod_ok s hn

theorem offsetGo_keeps {pq : Kept} (s : State) (h : Keeps pq s) : Keeps pq (offsetGo s) := by
  unfold offsetGo
  split
  · exact h
  · exact keeps_time (State.setFlag_keeps _ _ _ _ h) rfl rfl h.sound.time.2.2

theorem writeSetCtl_keeps {pq : Kept} (a : Agent) (v : Word) (s : State) (hkp : Keeps pq s) : Keeps pq (writeSetCtl a v s) := by
  unfold writeSetCtl
  repeat' (first | (with_reducible assumption) | (with_reducible apply State.setFlag_keeps) | (with_reducible apply offsetGo_keeps) | (with_reducible apply ownerWrite_keeps) | (with_reducible apply reportExpert_keeps) | (with_reducible apply timeGo_keeps) | (with_reducible apply keeps_ite) | (intro _) | split | (dsimp only))

theorem execTimeSetGo_keeps {pq : Kept} (a : Agent) (v : Word) (s : State) (hkp : Keeps pq s) : Ends (Keeps pq) (execTimeSetGo a v s) := by
  unfold execTimeSetGo
  repeat' (first | (with_reducible assumption) | (with_reducible apply writeSetCtl_keeps) | (with_reducible apply ends_next) | (intro _) | split | (dsimp only))

theorem execOfsGo_keeps {pq : Kept} (a : Agent) (v : Word) (s : State) (hkp : Keeps pq s) : Ends (Keeps pq) (execOfsGo a v s) := by
  unfold execOfsGo
  repeat' (first | (with_reducible assumption) | (with_reducible apply writeSetCtl_keeps) | (with_reducible apply ends_next) | (intro _) | split | (dsimp only))

theorem execCancel_keeps {pq : Kept} (a : Agent) (v : Word) (s : State) (hkp : Keeps pq s) : Ends (Keeps pq) (execCancel a v s) := by
  unfold execCancel
  repeat' (first | (with_reducible assumption) | (with_reducible apply writeSetCtl_keeps) | (with_reducible apply ends_next) | (intro _) | split | (dsimp only))

theorem writeTimeReg_keeps {pq : Kept} (a : Agent) (off : Nat) (v : Word) (s : State) (hkp : Keeps pq s) : Keeps pq (writeTimeReg a off v s) := by
  unfold writeTimeReg
  repeat' (first | (with_reducible assumption) | (with_reducible apply ownerWrite_keeps) | (with_reducible apply storeReg_keeps) | (intro _) | split | (dsimp only))

theorem writeSgCtl_keeps {pq : Kept} (a : Agent) (g : Nat) (v : Word) (s : State) (hkp : Keeps pq s) : Keeps pq (writeSgCtl a g v s) := by
  unfold writeSgCtl
  repeat' (first | (with_reducible assumption) | (with_reducible apply State.setFlag_keeps) | (with_reducible apply State.setFld_keeps) | (with_reducible apply State.setGen_keeps) | (with_reducible apply State.setReg_keeps) | (with_reducible apply keeps_ite) | (intro _) | split | (dsimp only))

theorem execSgEnable_keeps {pq : Kept} (a : Agent) (g : Fin 4) (v : Word) (s : State) (hkp : Keeps pq s) : Ends (Keeps pq) (execSgEnable a g v s) := by
  unfold execSgEnable
  repeat' (first | (with_reducible assumption) | (with_reducible apply writeSgCtl_keeps) | (with_reducible apply ends_next) | (intro _) | split | (dsimp only))

theorem execSgDisable_keeps {pq : Kept} (a : Agent) (g : Fin 4) (v : Word) (s : State) (hkp : Keeps pq s) : Ends (Keeps pq) (execSgDisable a g v s) := by
  unfold execSgDisable
  repeat' (first | (with_reducible assumption) | (with_reducible apply writeSgCtl_keeps) | (with_reducible apply ends_next) | (intro _) | split | (dsimp only))

theorem forBound_keeps {pq : Kept} (g : Nat) (k : Nat → State → State) (s : State) (h : Keeps pq s)
    (hk : ∀ n s, Keeps pq s → Keeps pq (k n s)) : Keeps pq (forBound g k s) := by
  unfold forBound
  refine keeps_foldl (fun s x hs => ?_) _ h
  split
  · exact hk _ _ hs
  · exact hs

theorem stopGen_keeps {pq : Kept} (g : Nat) (s : State) (hkp : Keeps pq s) : Keeps pq (stopGen g s) := by
  unfold stopGen
  repeat' (first | (with_reducible assumption) | (with_reducible apply State.setCmp_keeps) | (with_reducible apply State.setFld_keeps) | (with_reducible apply State.setGen_keeps) | (with_reducible apply forBound_keeps) | (intro _) | split | (dsimp only))

theorem sgStop_keeps {pq : Kept} (g : Nat) (s : State) (hkp : Keeps pq s) : Keeps pq (sgStop g s) := by
  unfold sgStop
  repeat' (first | (with_reducible assumption) | (with_reducible apply stopGen_keeps) | (with_reducible apply keeps_ite) | (intro _) | split | (dsimp only))

theorem execSgStop_keeps {pq : Kept} (g : Fin 4) (s : State) (hkp : Keeps pq s) : Ends (Keeps pq) (execSgStop g s) := by
  unfold execSgStop
  repeat' (first | (with_reducible assumption) | (with_reducible apply sgStop_keeps) | (with_reducible apply ends_next) | (intro _) | split | (dsimp only))

theorem symbolStrobe_keeps {pq : Kept} (g : Nat) (s : State) (hkp : Keeps pq s) : Keeps pq (symbolStrobe g s) := by
  unfold symbolStrobe
  repeat' (first | (with_reducible assumption) | (with_reducible apply State.emit_keeps) | (with_reducible apply State.setGen_keeps) | (with_reducible apply keeps_ite) | (intro _) | split | (dsimp only))

theorem execSymbolStrobe_keeps {pq : Kept} (g : Fin 4) (s : State) (hkp : Keeps pq s) : Ends (Keeps pq) (execSymbolStrobe g s) := by
  unfold execSymbolStrobe
  repeat' (first | (with_reducible assumption) | (with_reducible apply symbolStrobe_keeps) | (with_reducible apply ends_next) | (intro _) | split | (dsimp only))

theorem writeCmpCtl_keeps {pq : Kept} (a : Agent) (c : Nat) (v : Word) (s : State) (hkp : Keeps pq s) : Keeps pq (writeCmpCtl a c v s) := by
  unfold writeCmpCtl
  repeat' (first | (with_reducible assumption) | (with_reducible apply State.setCmp_keeps) | (with_reducible apply State.setFlag_keeps) | (with_reducible apply State.setFld_keeps) | (with_reducible apply reportExpert_keeps) | (with_reducible apply keeps_ite) | (intro _) | split | (dsimp only))

theorem execCmpArm_keeps {pq : Kept} (a : Agent) (c : Fin 16) (v : Word) (s : State) (hkp : Keeps pq s) : Ends (Keeps pq) (execCmpArm a c v s) := by
  unfold execCmpArm
  repeat' (first | (with_reducible assumption) | (with_reducible apply writeCmpCtl_keeps) | (with_reducible apply ends_next) | (intro _) | split | (dsimp only))

theorem execCmpDisarm_keeps {pq : Kept} (a : Agent) (c : Fin 16) (v : Word) (s : State) (hkp : Keeps pq s) : Ends (Keeps pq) (execCmpDisarm a c v s) := by
  unfold execCmpDisarm
  repeat' (first | (with_reducible assumption) | (with_reducible apply writeCmpCtl_keeps) | (with_reducible apply ends_next) | (intro _) | split | (dsimp only))

theorem loadTarget_keeps {pq : Kept} (a : Agent) (c : Nat) (v : Word) (s : State) (hkp : Keeps pq s) : Keeps pq (loadTarget a c v s) := by
  unfold loadTarget
  repeat' (first | (with_reducible assumption) | (with_reducible apply State.setCmp_keeps) | (with_reducible apply State.setReg_keeps) | (with_reducible apply keeps_ite) | (intro _) | split | (dsimp only))

theorem execCmpTargetLoad_keeps {pq : Kept} (a : Agent) (c : Fin 16) (v : Word) (s : State) (hkp : Keeps pq s) : Ends (Keeps pq) (execCmpTargetLoad a c v s) := by
  unfold execCmpTargetLoad
  repeat' (first | (with_reducible assumption) | (with_reducible apply loadTarget_keeps) | (with_reducible apply ends_next) | (intro _) | split | (dsimp only))

theorem fireCmp_keeps {pq : Kept} (c : Nat) (s : State) (hkp : Keeps pq s) : Keeps pq (fireCmp c s) := by
  unfold fireCmp
  repeat' (first | (with_reducible assumption) | (with_reducible apply State.emit_keeps) | (with_reducible apply State.setCmp_keeps) | (with_reducible apply State.setFlag_keeps) | (with_reducible apply State.setPair_keeps) | (with_reducible apply event_keeps) | (with_reducible apply keeps_ite) | (intro _) | split | (dsimp only))

theorem execCmpFire_keeps {pq : Kept} (c : Fin 16) (s : State) (hkp : Keeps pq s) : Ends (Keeps pq) (execCmpFire c s) := by
  unfold execCmpFire
  repeat' (first | (with_reducible assumption) | (with_reducible apply fireCmp_keeps) | (with_reducible apply ends_next) | (intro _) | split | (dsimp only))

theorem ppsAssert_keeps {pq : Kept} (s : State) (hkp : Keeps pq s) : Keeps pq (ppsAssert s) := by
  unfold ppsAssert
  repeat' (first | (with_reducible assumption) | (with_reducible apply keeps_ite) | (intro _) | split | (dsimp only) | (with_reducible refine keeps_belfry rfl rfl (fun _ e => e) rfl rfl rfl rfl ?_) | (with_reducible refine keeps_belfry rfl rfl (fun _ e => nomatch e) rfl rfl rfl rfl ?_) | (with_reducible refine keeps_mk rfl rfl rfl rfl rfl ?_))

theorem execPpsOutAssert_keeps {pq : Kept} (s : State) (hkp : Keeps pq s) : Ends (Keeps pq) (execPpsOutAssert s) := by
  unfold execPpsOutAssert
  repeat' (first | (with_reducible assumption) | (with_reducible apply ppsAssert_keeps) | (with_reducible apply ends_next) | (intro _) | split | (dsimp only))

theorem ppsWidthEnd_keeps {pq : Kept} (s : State) (hkp : Keeps pq s) : Keeps pq (ppsWidthEnd s) := by
  unfold ppsWidthEnd
  repeat' (first | (with_reducible assumption) | (with_reducible apply keeps_ite) | (intro _) | split | (dsimp only) | (with_reducible refine keeps_belfry rfl rfl (fun _ e => e) rfl rfl rfl rfl ?_) | (with_reducible refine keeps_belfry rfl rfl (fun _ e => nomatch e) rfl rfl rfl rfl ?_) | (with_reducible refine keeps_mk rfl rfl rfl rfl rfl ?_))

theorem execPpsOutWidthEnd_keeps {pq : Kept} (s : State) (hkp : Keeps pq s) : Ends (Keeps pq) (execPpsOutWidthEnd s) := by
  unfold execPpsOutWidthEnd
  repeat' (first | (with_reducible assumption) | (with_reducible apply ppsWidthEnd_keeps) | (with_reducible apply ends_next) | (intro _) | split | (dsimp only))

theorem ppsIn_keeps {pq : Kept} (falling : Bool) (s : State) (hkp : Keeps pq s) : Keeps pq (ppsIn falling s) := by
  unfold ppsIn
  repeat' (first | (with_reducible assumption) | (with_reducible apply State.addWrap_keeps) | (with_reducible apply State.setPair_keeps) | (with_reducible apply State.setReg_keeps) | (with_reducible apply keeps_ite) | (intro _) | split | (dsimp only))

theorem execPpsInEdge_keeps {pq : Kept} (falling : Bool) (s : State) (hkp : Keeps pq s) : Ends (Keeps pq) (execPpsInEdge falling s) := by
  unfold execPpsInEdge
  repeat' (first | (with_reducible assumption) | (with_reducible apply ppsIn_keeps) | (with_reducible apply ends_next) | (intro _) | split | (dsimp only))

theorem writeRclk_keeps {pq : Kept} (a : Agent) (v : Word) (s : State) (hkp : Keeps pq s) : Keeps pq (writeRclk a v s) := by
  unfold writeRclk
  repeat' (first | (with_reducible assumption) | (with_reducible apply State.setFlag_keeps) | (with_reducible apply State.setFld_keeps) | (with_reducible apply reportExpert_keeps) | (with_reducible apply keeps_ite) | (intro _) | split | (dsimp only) | (with_reducible refine keeps_belfry rfl rfl (fun _ e => e) rfl rfl rfl rfl ?_) | (with_reducible refine keeps_belfry rfl rfl (fun _ e => nomatch e) rfl rfl rfl rfl ?_) | (with_reducible refine keeps_mk rfl rfl rfl rfl rfl ?_))

end Sys2Proof.Machine
end

