-- ==== Sys2Proof/Laws/KeepEgress.lean ====
section
/-! SUPPORT. What the operations of Machine/Egress.lean keep. -/

namespace Sys2Proof.Machine

theorem State.setFp_keeps {pq : Kept} (s : State) (p : Nat) (x : FhPort) (hkp : Keeps pq s) : Keeps pq (State.setFp s p x) := by
  unfold State.setFp
  repeat' (first | (with_reducible assumption) | (intro _) | split | (dsimp only) | (with_reducible refine keeps_mk rfl rfl rfl rfl rfl ?_))

theorem State.setFq_keeps {pq : Kept} (s : State) (p q : Nat) (x : FhQueue) (hkp : Keeps pq s) : Keeps pq (State.setFq s p q x) := by
  unfold State.setFq
  repeat' (first | (with_reducible assumption) | (intro _) | split | (dsimp only) | (with_reducible refine keeps_mk rfl rfl rfl rfl rfl ?_))

theorem tsEntry_keeps {pq : Kept} (p tsId : Nat) (time : Option Tod) (s : State) (hkp : Keeps pq s) : Keeps pq (tsEntry p tsId time s) := by
  unfold tsEntry
  repeat' (first | (with_reducible assumption) | (with_reducible apply State.addSat_keeps) | (with_reducible apply State.setFlag_keeps) | (with_reducible apply State.setFld_keeps) | (with_reducible apply event_keeps) | (with_reducible apply hostWrite_keeps) | (with_reducible apply keeps_ite) | (intro _) | split | (dsimp only))

theorem tsNotSent_keeps {pq : Kept} (p : Nat) (f : FhFrame) (s : State) (hkp : Keeps pq s) : Keeps pq (tsNotSent p f s) := by
  unfold tsNotSent
  repeat' (first | (with_reducible assumption) | (with_reducible apply tsEntry_keeps) | (intro _) | split | (dsimp only))

theorem showQueue_keeps {pq : Kept} (p q : Nat) (s : State) (hkp : Keeps pq s) : Keeps pq (showQueue p q s) := by
  unfold showQueue
  repeat' (first | (with_reducible assumption) | (with_reducible apply State.setFld_keeps) | (with_reducible apply State.setReg_keeps) | (intro _) | split | (dsimp only))

theorem wakeQueue_keeps {pq : Kept} (p q : Nat) (s : State) (hkp : Keeps pq s) : Keeps pq (wakeQueue p q s) := by
  unfold wakeQueue
  repeat' (first | (with_reducible assumption) | (with_reducible apply State.setFq_keeps) | (with_reducible apply keeps_ite) | (intro _) | split | (dsimp only))

theorem setFrames_keeps {pq : Kept} (p q : Nat) (fs : List FhFrame) (s : State) (hkp : Keeps pq s) : Keeps pq (setFrames p q fs s) := by
  unfold setFrames
  repeat' (first | (with_reducible assumption) | (with_reducible apply State.setFq_keeps) | (with_reducible apply showQueue_keeps) | (with_reducible apply wakeQueue_keeps) | (intro _) | split | (dsimp only))

theorem purgeFrames_keeps {pq : Kept} (s : State) (hkp : Keeps pq s) : Keeps pq (purgeFrames s) := by
  unfold purgeFrames
  repeat' (first | (with_reducible assumption) | (with_reducible apply setFrames_keeps) | (with_reducible apply tsNotSent_keeps) | (with_reducible apply keeps_ite) | (with_reducible refine keeps_foldl ?_ _ ?_) | (intro _) | split | (dsimp only))

end Sys2Proof.Machine
end

