-- ==== Sys2Proof/Laws/KeepTranslate.lean ====
section
/-! SUPPORT. What the operations of Machine/Translate.lean keep. -/

namespace Sys2Proof.Machine

theorem setPoison_keeps {pq : Kept} (b : Nat) (v : Bool) (s : State) (h : Keeps pq s) : Keeps pq (setPoison b v s) :=
  keeps_of_same h rfl rfl rfl rfl rfl

theorem blockWrite_keeps {pq : Kept} (pa : Nat) (bs : List Byte) (s t : State) (h : Keeps pq s) (e : blockWrite pa bs s = .ok t) :
    Keeps pq t := by
  have w : Keeps pq { s with hbm := s.hbm.write pa bs } :=
    keeps_parts h rfl h.sound.regs (Mem.wf_write _ _ _ h.sound.hbm) h.sound.hostMem rfl
  unfold blockWrite at e
  split at e
  · cases e; exact setPoison_keeps _ _ _ w
  · split at e
    · cases e
    · cases e; exact w

theorem physStore_keeps {pq : Kept} (fuel : Nat) :
    ∀ (pa : Nat) (bs : List Byte) (s : State), Keeps pq s → Keeps pq (physStore fuel pa bs s).1 := by
  induction fuel with
  | zero => intro pa bs s h; exact h
  | succ n ih =>
    intro pa bs s h
    unfold physStore
    split
    · exact h
    · dsimp only
      split
      · exact h
      · exact ih _ _ _ (blockWrite_keeps _ _ _ _ h (by assumption))

theorem physWrite_keeps {pq : Kept} (pa : Nat) (bs : List Byte) (s : State) (hkp : Keeps pq s) : Keeps pq (physWrite pa bs s).1 := by
  unfold physWrite
  repeat' (first | (with_reducible assumption) | (with_reducible apply physStore_keeps) | (intro _) | split | (dsimp only))

theorem State.setTlb_keeps {pq : Kept} (s : State) (space : Nat) (l : List TlbEnt) (hkp : Keeps pq s) : Keeps pq (State.setTlb s space l) := by
  unfold State.setTlb
  repeat' (first | (with_reducible assumption) | (intro _) | split | (dsimp only) | (with_reducible refine keeps_mk rfl rfl rfl rfl rfl ?_))

theorem walkIn_keeps {pq : Kept} (space va : Nat) (l : List TlbEnt) (s : State) (hkp : Keeps pq s) : Keeps pq (walkIn space va l s).1 := by
  unfold walkIn
  repeat' (first | (with_reducible assumption) | (with_reducible apply State.setTlb_keeps) | (intro _) | split | (dsimp only))

theorem lookup_keeps {pq : Kept} (space va : Nat) (s : State) (hkp : Keeps pq s) : Keeps pq (lookup space va s).1 := by
  unfold lookup
  repeat' (first | (with_reducible assumption) | (with_reducible apply State.setTlb_keeps) | (with_reducible apply walkIn_keeps) | (with_reducible apply State.draw_keeps) | (intro _) | split | (dsimp only))

theorem translate_keeps {pq : Kept} (space va0 n : Nat) (write : Bool) (s : State) (hkp : Keeps pq s) : Keeps pq (translate space va0 n write s).1 := by
  unfold translate
  repeat' (first | (with_reducible assumption) | (with_reducible apply lookup_keeps) | (with_reducible apply keeps_ite) | (intro _) | split | (with_reducible refine keeps_fst (by assumption) ?_) | (with_reducible refine keeps_fst3 (by assumption) ?_) | (dsimp only))

theorem recordFault_keeps {pq : Kept} (space : Nat) (agent : Byte) (e : AccErr) (s : State) (hkp : Keeps pq s) : Keeps pq (recordFault space agent e s) := by
  unfold recordFault
  repeat' (first | (with_reducible assumption) | (with_reducible apply State.addSat_keeps) | (with_reducible apply State.setPair_keeps) | (with_reducible apply State.setReg_keeps) | (with_reducible apply eventVi_keeps) | (with_reducible apply keeps_ite) | (intro _) | split | (dsimp only))

theorem noteErr_keeps {pq : Kept} (space : Nat) (agent : Byte) (e : AccErr) (s : State) (hkp : Keeps pq s) : Keeps pq (noteErr space agent e s) := by
  unfold noteErr
  repeat' (first | (with_reducible assumption) | (with_reducible apply recordFault_keeps) | (with_reducible apply keeps_ite) | (intro _) | split | (dsimp only))

theorem pageRead_keeps {pq : Kept} (space va n : Nat) (s : State) (hkp : Keeps pq s) : Keeps pq (pageRead space va n s).1 := by
  unfold pageRead
  repeat' (first | (with_reducible assumption) | (with_reducible apply translate_keeps) | (with_reducible apply keeps_ite) | (intro _) | split | (with_reducible refine keeps_fst (by assumption) ?_) | (with_reducible refine keeps_fst3 (by assumption) ?_) | (dsimp only))

theorem pageWrite_keeps {pq : Kept} (space va : Nat) (bs : List Byte) (s : State) (hkp : Keeps pq s) : Keeps pq (pageWrite space va bs s).1 := by
  unfold pageWrite
  repeat' (first | (with_reducible assumption) | (with_reducible apply hostWrite_keeps) | (with_reducible apply physWrite_keeps) | (with_reducible apply translate_keeps) | (with_reducible apply keeps_ite) | (intro _) | split | (with_reducible refine keeps_fst (by assumption) ?_) | (with_reducible refine keeps_fst3 (by assumption) ?_) | (dsimp only))

theorem vaReadFrom_keeps {pq : Kept} (space fuel : Nat) :
    ∀ (va n : Nat) (s : State), Keeps pq s → Keeps pq (vaReadFrom space fuel va n s).1 := by
  induction fuel with
  | zero => intro va n s h; exact h
  | succ m ih =>
    intro va n s h
    unfold vaReadFrom
    split
    · exact h
    · dsimp only
      split
      · exact keeps_fst (by assumption) (pageRead_keeps _ _ _ _ h)
      · split
        · exact keeps_fst (by assumption) (ih _ _ _ (keeps_fst (by assumption) (pageRead_keeps _ _ _ _ h)))
        · exact keeps_fst (by assumption) (ih _ _ _ (keeps_fst (by assumption) (pageRead_keeps _ _ _ _ h)))

theorem vaRead_keeps {pq : Kept} (space va n : Nat) (s : State) (hkp : Keeps pq s) : Keeps pq (vaRead space va n s).1 := by
  unfold vaRead
  repeat' (first | (with_reducible assumption) | (with_reducible apply vaReadFrom_keeps) | (intro _) | split | (dsimp only))

theorem vaWriteFrom_keeps {pq : Kept} (space fuel : Nat) :
    ∀ (va : Nat) (bs : List Byte) (s : State), Keeps pq s → Keeps pq (vaWriteFrom space fuel va bs s).1 := by
  induction fuel with
  | zero => intro va bs s h; exact h
  | succ m ih =>
    intro va bs s h
    unfold vaWriteFrom
    split
    · exact h
    · dsimp only
      split
      · exact keeps_fst (by assumption) (pageWrite_keeps _ _ _ _ h)
      · exact ih _ _ _ (keeps_fst (by assumption) (pageWrite_keeps _ _ _ _ h))

theorem vaWrite_keeps {pq : Kept} (space va : Nat) (bs : List Byte) (s : State) (hkp : Keeps pq s) : Keeps pq (vaWrite space va bs s).1 := by
  unfold vaWrite
  repeat' (first | (with_reducible assumption) | (with_reducible apply vaWriteFrom_keeps) | (intro _) | split | (dsimp only))

theorem deviceWrite_keeps {pq : Kept} (space va : Nat) (bs : List Byte) (s : State) (hkp : Keeps pq s) : Keeps pq (deviceWrite space va bs s) := by
  unfold deviceWrite
  repeat' (first | (with_reducible assumption) | (with_reducible apply noteErr_keeps) | (with_reducible apply vaWrite_keeps) | (intro _) | split | (with_reducible refine keeps_fst (by assumption) ?_) | (with_reducible refine keeps_fst3 (by assumption) ?_) | (dsimp only))

theorem clearTlb_keeps {pq : Kept} (space : Nat) (s : State) (hkp : Keeps pq s) : Keeps pq (clearTlb space s) := by
  unfold clearTlb
  repeat' (first | (with_reducible assumption) | (with_reducible apply State.setTlb_keeps) | (intro _) | split | (dsimp only))

end Sys2Proof.Machine
end

