-- ==== Sys2Proof/Laws/KeepUnits.lean ====
section
/-! SUPPORT. What the operations of Machine/Units.lean keep. -/

namespace Sys2Proof.Machine

theorem State.setTile_keeps {pq : Kept} (s : State) (t : Nat) (x : Tile) (hkp : Keeps pq s) : Keeps pq (State.setTile s t x) := by
  unfold State.setTile
  repeat' (first | (with_reducible assumption) | (intro _) | split | (dsimp only) | (with_reducible refine keeps_mk rfl rfl rfl rfl rfl ?_))

theorem State.setCore_keeps {pq : Kept} (s : State) (c : Nat) (x : Core) (hkp : Keeps pq s) : Keeps pq (State.setCore s c x) := by
  unfold State.setCore
  repeat' (first | (with_reducible assumption) | (intro _) | split | (dsimp only) | (with_reducible refine keeps_mk rfl rfl rfl rfl rfl ?_))

theorem State.setChan_keeps {pq : Kept} (s : State) (c : Nat) (x : Chan) (hkp : Keeps pq s) : Keeps pq (State.setChan s c x) := by
  unfold State.setChan
  repeat' (first | (with_reducible assumption) | (intro _) | split | (dsimp only) | (with_reducible refine keeps_mk rfl rfl rfl rfl rfl ?_))

theorem State.setSem_keeps {pq : Kept} (s : State) (p : Nat) (x : Sem) (hkp : Keeps pq s) : Keeps pq (State.setSem s p x) := by
  unfold State.setSem
  repeat' (first | (with_reducible assumption) | (intro _) | split | (dsimp only) | (with_reducible refine keeps_mk rfl rfl rfl rfl rfl ?_))

theorem State.setUnit_keeps {pq : Kept} (s : State) (kind i : Nat) (x : UnitSt) (hkp : Keeps pq s) : Keeps pq (State.setUnit s kind i x) := by
  unfold State.setUnit
  repeat' (first | (with_reducible assumption) | (intro _) | split | (dsimp only) | (with_reducible refine keeps_mk rfl rfl rfl rfl rfl ?_))

theorem setTileState_keeps {pq : Kept} (t st : Nat) (s : State) (hkp : Keeps pq s) : Keeps pq (setTileState t st s) := by
  unfold setTileState
  repeat' (first | (with_reducible assumption) | (with_reducible apply State.setFld_keeps) | (intro _) | split | (dsimp only))

theorem setCoreState_keeps {pq : Kept} (c st : Nat) (s : State) (hkp : Keeps pq s) : Keeps pq (setCoreState c st s) := by
  unfold setCoreState
  repeat' (first | (with_reducible assumption) | (with_reducible apply State.setFld_keeps) | (intro _) | split | (dsimp only))

theorem setItems_keeps {pq : Kept} (l : List RItem) (s : State) (hkp : Keeps pq s) : Keeps pq (setItems l s) := by
  unfold setItems
  repeat' (first | (with_reducible assumption) | (intro _) | split | (dsimp only) | (with_reducible refine keeps_mk rfl rfl rfl rfl rfl ?_))

theorem updItem_keeps {pq : Kept} (id : Nat) (f : RItem → RItem) (s : State) (hkp : Keeps pq s) : Keeps pq (updItem id f s) := by
  unfold updItem
  repeat' (first | (with_reducible assumption) | (with_reducible apply setItems_keeps) | (with_reducible apply keeps_ite) | (intro _) | split | (dsimp only))

theorem addOutcome_keeps {pq : Kept} (id status detail : Nat) (s : State) (hkp : Keeps pq s) : Keeps pq (addOutcome id status detail s) := by
  unfold addOutcome
  repeat' (first | (with_reducible assumption) | (with_reducible apply updItem_keeps) | (intro _) | split | (dsimp only))

theorem markStarted_keeps {pq : Kept} (id : Nat) (s : State) (hkp : Keeps pq s) : Keeps pq (markStarted id s) := by
  unfold markStarted
  repeat' (first | (with_reducible assumption) | (with_reducible apply updItem_keeps) | (intro _) | split | (dsimp only))

theorem markStartedOpt_keeps {pq : Kept} (id : Option Nat) (s : State) (hkp : Keeps pq s) : Keeps pq (markStartedOpt id s) := by
  unfold markStartedOpt
  repeat' (first | (with_reducible assumption) | (with_reducible apply markStarted_keeps) | (intro _) | split | (dsimp only))

theorem showCtx_keeps {pq : Kept} (t k : Nat) (s : State) (hkp : Keeps pq s) : Keeps pq (showCtx t k s) := by
  unfold showCtx
  repeat' (first | (with_reducible assumption) | (with_reducible apply State.setReg_keeps) | (intro _) | split | (dsimp only))

theorem showTile_keeps {pq : Kept} (t : Nat) (s : State) (hkp : Keeps pq s) : Keeps pq (showTile t s) := by
  unfold showTile
  repeat' (first | (with_reducible assumption) | (with_reducible apply showCtx_keeps) | (with_reducible refine keeps_foldl ?_ _ ?_) | (intro _) | split | (dsimp only))

theorem releaseTile_keeps {pq : Kept} (t : Nat) (s : State) (hkp : Keeps pq s) : Keeps pq (releaseTile t s) := by
  unfold releaseTile
  repeat' (first | (with_reducible assumption) | (with_reducible apply State.setTile_keeps) | (with_reducible apply setTileState_keeps) | (with_reducible apply showTile_keeps) | (with_reducible apply keeps_ite) | (intro _) | split | (dsimp only))

theorem stopCoreUnit_keeps {pq : Kept} (c : Nat) (s : State) (hkp : Keeps pq s) : Keeps pq (stopCoreUnit c s) := by
  unfold stopCoreUnit
  repeat' (first | (with_reducible assumption) | (with_reducible apply State.setCore_keeps) | (with_reducible apply State.setFlag_keeps) | (with_reducible apply setCoreState_keeps) | (with_reducible apply keeps_ite) | (intro _) | split | (dsimp only))

theorem setChanState_keeps {pq : Kept} (c st : Nat) (s : State) (hkp : Keeps pq s) : Keeps pq (setChanState c st s) := by
  unfold setChanState
  repeat' (first | (with_reducible assumption) | (with_reducible apply State.setFld_keeps) | (intro _) | split | (dsimp only))

theorem dropWaiter_keeps {pq : Kept} (agent : Nat) (s : State) (hkp : Keeps pq s) : Keeps pq (dropWaiter agent s) := by
  unfold dropWaiter
  repeat' (first | (with_reducible assumption) | (with_reducible apply State.setSem_keeps) | (with_reducible refine keeps_foldl ?_ _ ?_) | (intro _) | split | (dsimp only))

theorem idleChan_keeps {pq : Kept} (c status : Nat) (s : State) (hkp : Keeps pq s) : Keeps pq (idleChan c status s) := by
  unfold idleChan
  repeat' (first | (with_reducible assumption) | (with_reducible apply State.setChan_keeps) | (with_reducible apply State.setFld_keeps) | (with_reducible apply dropWaiter_keeps) | (with_reducible apply setChanState_keeps) | (intro _) | split | (dsimp only) | (with_reducible refine keeps_mk rfl rfl rfl rfl rfl ?_))

theorem stopChan_keeps {pq : Kept} (c status : Nat) (s : State) (hkp : Keeps pq s) : Keeps pq (stopChan c status s) := by
  unfold stopChan
  repeat' (first | (with_reducible assumption) | (with_reducible apply State.setTile_keeps) | (with_reducible apply idleChan_keeps) | (with_reducible refine keeps_foldl ?_ _ ?_) | (intro _) | split | (dsimp only))

theorem stopUnits_keeps {pq : Kept} (it : RItem) (s : State) (hkp : Keeps pq s) : Keeps pq (stopUnits it s) := by
  unfold stopUnits
  repeat' (first | (with_reducible assumption) | (with_reducible apply releaseTile_keeps) | (with_reducible apply stopChan_keeps) | (with_reducible apply stopCoreUnit_keeps) | (with_reducible refine keeps_foldl ?_ _ ?_) | (intro _) | split | (dsimp only))

end Sys2Proof.Machine
end

