-- ==== Sys2Proof/Laws/KeepPort.lean ====
section
/-! SUPPORT. What the operations of Machine/Port.lean keep. -/

namespace Sys2Proof.Machine

theorem State.setPort_keeps {pq : Kept} (s : State) (p : Nat) (x : SpkPort) (hkp : Keeps pq s) : Keeps pq (State.setPort s p x) := by
  unfold State.setPort
  repeat' (first | (with_reducible assumption) | (intro _) | split | (dsimp only) | (with_reducible refine keeps_mk rfl rfl rfl rfl rfl ?_))

theorem setLink_keeps {pq : Kept} (p st : Nat) (s : State) (hkp : Keeps pq s) : Keeps pq (setLink p st s) := by
  unfold setLink
  repeat' (first | (with_reducible assumption) | (with_reducible apply State.setFld_keeps) | (intro _) | split | (dsimp only))

theorem setDisc_keeps {pq : Kept} (st : Nat) (s : State) (hkp : Keeps pq s) : Keeps pq (setDisc st s) := by
  unfold setDisc
  repeat' (first | (with_reducible assumption) | (with_reducible apply State.setFld_keeps) | (intro _) | split | (dsimp only))

theorem spkEnqueue_keeps {pq : Kept} (p : Nat) (m : SpkTx) (s : State) (hkp : Keeps pq s) : Keeps pq (spkEnqueue p m s) := by
  unfold spkEnqueue
  repeat' (first | (with_reducible assumption) | (with_reducible apply State.setPort_keeps) | (intro _) | split | (dsimp only))

theorem sendControl_keeps {pq : Kept} (p code : Nat) (vals : List Nat) (s : State) (hkp : Keeps pq s) : Keeps pq (sendControl p code vals s) := by
  unfold sendControl
  repeat' (first | (with_reducible assumption) | (with_reducible apply spkEnqueue_keeps) | (intro _) | split | (dsimp only))

theorem sendAll_keeps {pq : Kept} (ports : List Nat) (code : Nat) (vals : List Nat) (s : State) (hkp : Keeps pq s) : Keeps pq (sendAll ports code vals s) := by
  unfold sendAll
  repeat' (first | (with_reducible assumption) | (with_reducible apply sendControl_keeps) | (with_reducible refine keeps_foldl ?_ _ ?_) | (intro _) | split | (dsimp only))

theorem sendTwin_keeps {pq : Kept} (kind : Nat) (payload : List Byte) (s : State) (hkp : Keeps pq s) : Keeps pq (sendTwin kind payload s) := by
  unfold sendTwin
  repeat' (first | (with_reducible assumption) | (with_reducible apply spkEnqueue_keeps) | (intro _) | split | (dsimp only))

end Sys2Proof.Machine
end

