-- ==== Sys2Proof/Laws/KeepPair.lean ====
section
/-! SUPPORT. What the operations of Machine/Pair.lean keep. -/

namespace Sys2Proof.Machine

theorem setTwin_keeps {pq : Kept} (st reason : Nat) (s : State) (hkp : Keeps pq s) : Keeps pq (setTwin st reason s) := by
  unfold setTwin
  repeat' (first | (with_reducible assumption) | (with_reducible apply State.setFld_keeps) | (intro _) | split | (dsimp only))

theorem setFormed_keeps {pq : Kept} (l : List Cpl) (s : State) (hkp : Keeps pq s) : Keeps pq (setFormed l s) := by
  unfold setFormed
  repeat' (first | (with_reducible assumption) | (intro _) | split | (dsimp only) | (with_reducible refine keeps_mk rfl rfl rfl rfl rfl ?_))

theorem updCpl_keeps {pq : Kept} (id : Nat) (f : Cpl → Cpl) (s : State) (hkp : Keeps pq s) : Keeps pq (updCpl id f s) := by
  unfold updCpl
  repeat' (first | (with_reducible assumption) | (with_reducible apply setFormed_keeps) | (with_reducible apply keeps_ite) | (intro _) | split | (dsimp only))

theorem writeLog_keeps {pq : Kept} (cell : Nat) (rec : List Byte) (s : State) (hkp : Keeps pq s) : Keeps pq (writeLog cell rec s) := by
  unfold writeLog
  repeat' (first | (with_reducible assumption) | (with_reducible apply State.addSat_keeps) | (with_reducible apply State.setFlag_keeps) | (with_reducible apply State.setReg_keeps) | (with_reducible apply noteErr_keeps) | (with_reducible apply vaWrite_keeps) | (with_reducible apply keeps_ite) | (intro _) | split | (with_reducible refine keeps_fst (by assumption) ?_) | (with_reducible refine keeps_fst3 (by assumption) ?_) | (dsimp only))

theorem flushLog_keeps {pq : Kept} (id : Nat) (s : State) (hkp : Keeps pq s) : Keeps pq (flushLog id s) := by
  unfold flushLog
  repeat' (first | (with_reducible assumption) | (with_reducible apply updCpl_keeps) | (with_reducible apply writeLog_keeps) | (with_reducible apply keeps_ite) | (intro _) | split | (dsimp only))

theorem State.setCell_keeps {pq : Kept} (s : State) (c : Nat) (x : FwCell) (hkp : Keeps pq s) : Keeps pq (State.setCell s c x) := by
  unfold State.setCell
  repeat' (first | (with_reducible assumption) | (intro _) | split | (dsimp only) | (with_reducible refine keeps_mk rfl rfl rfl rfl rfl ?_))

theorem updSlot_keeps {pq : Kept} (cell epoch : Nat) (f : FwSlot → FwSlot) (s : State) (hkp : Keeps pq s) : Keeps pq (updSlot cell epoch f s) := by
  unfold updSlot
  repeat' (first | (with_reducible assumption) | (with_reducible apply State.setCell_keeps) | (with_reducible apply keeps_ite) | (intro _) | split | (dsimp only))

theorem updFw_keeps {pq : Kept} (cell epoch idx : Nat) (f : FwItem → FwItem) (s : State) (hkp : Keeps pq s) : Keeps pq (updFw cell epoch idx f s) := by
  unfold updFw
  repeat' (first | (with_reducible assumption) | (with_reducible apply updSlot_keeps) | (with_reducible apply keeps_ite) | (intro _) | split | (dsimp only))

theorem freeBlocks_keeps {pq : Kept} (cell epoch : Nat) (it : FwItem) (s : State) (hkp : Keeps pq s) : Keeps pq (freeBlocks cell epoch it s) := by
  unfold freeBlocks
  repeat' (first | (with_reducible assumption) | (with_reducible apply State.setFld_keeps) | (with_reducible apply updFw_keeps) | (intro _) | split | (dsimp only))

theorem freeSlotTile_keeps {pq : Kept} (it : FwItem) (s : State) (hkp : Keeps pq s) : Keeps pq (freeSlotTile it s) := by
  unfold freeSlotTile
  repeat' (first | (with_reducible assumption) | (with_reducible apply State.setTile_keeps) | (with_reducible apply setTileState_keeps) | (with_reducible apply showTile_keeps) | (with_reducible apply keeps_ite) | (intro _) | split | (dsimp only))

theorem slotMiss_keeps {pq : Kept} (cell epoch : Nat) (s : State) (hkp : Keeps pq s) : Keeps pq (slotMiss cell epoch s) := by
  unfold slotMiss
  repeat' (first | (with_reducible assumption) | (with_reducible apply event_keeps) | (with_reducible apply updSlot_keeps) | (with_reducible apply keeps_ite) | (intro _) | split | (dsimp only))

theorem batchEnd_keeps {pq : Kept} (cell epoch : Nat) (s : State) (hkp : Keeps pq s) : Keeps pq (batchEnd cell epoch s) := by
  unfold batchEnd
  repeat' (first | (with_reducible assumption) | (with_reducible apply setFormed_keeps) | (with_reducible apply keeps_ite) | (intro _) | split | (dsimp only))

theorem dropSlots_keeps {pq : Kept} (cell : Nat) (s : State) (hkp : Keeps pq s) : Keeps pq (dropSlots cell s) := by
  unfold dropSlots
  repeat' (first | (with_reducible assumption) | (with_reducible apply State.setCell_keeps) | (with_reducible apply keeps_ite) | (intro _) | split | (dsimp only))

theorem recordDiv_keeps {pq : Kept} (key : Nat) (own other : List StageEntry) (s : State) (hkp : Keeps pq s) : Keeps pq (recordDiv key own other s) := by
  unfold recordDiv
  repeat' (first | (with_reducible assumption) | (with_reducible apply State.setFld_keeps) | (with_reducible apply State.setPair_keeps) | (intro _) | split | (dsimp only))

theorem addCpl_keeps {pq : Kept} (c : Cpl) (s : State) (hkp : Keeps pq s) : Keeps pq (addCpl c s) := by
  unfold addCpl
  repeat' (first | (with_reducible assumption) | (intro _) | split | (dsimp only) | (with_reducible refine keeps_mk rfl rfl rfl rfl rfl ?_))

theorem dropItem_keeps {pq : Kept} (it : RItem) (s : State) (hkp : Keeps pq s) : Keeps pq (dropItem it s) := by
  unfold dropItem
  repeat' (first | (with_reducible assumption) | (with_reducible apply setItems_keeps) | (intro _) | split | (dsimp only))

theorem endFw_keeps {pq : Kept} (cell epoch : Nat) (it : FwItem) (status : Nat) (s : State) (hkp : Keeps pq s) : Keeps pq (endFw cell epoch it status s) := by
  unfold endFw
  repeat' (first | (with_reducible assumption) | (with_reducible apply freeBlocks_keeps) | (with_reducible apply freeSlotTile_keeps) | (with_reducible apply updFw_keeps) | (with_reducible apply updSlot_keeps) | (with_reducible apply keeps_ite) | (intro _) | split | (dsimp only))

theorem flushRing_keeps {pq : Kept} (s : State) (hkp : Keeps pq s) : Keeps pq (flushRing s) := by
  unfold flushRing
  repeat' (first | (with_reducible assumption) | (with_reducible apply addCpl_keeps) | (with_reducible apply dropItem_keeps) | (with_reducible apply stopUnits_keeps) | (with_reducible refine keeps_foldl ?_ _ ?_) | (intro _) | split | (dsimp only))

theorem flushCell_keeps {pq : Kept} (cell : Nat) (s : State) (hkp : Keeps pq s) : Keeps pq (flushCell cell s) := by
  unfold flushCell
  repeat' (first | (with_reducible assumption) | (with_reducible apply addCpl_keeps) | (with_reducible apply endFw_keeps) | (with_reducible refine keeps_foldl ?_ _ ?_) | (intro _) | split | (dsimp only))

theorem haltPair_keeps {pq : Kept} (key reason : Nat) (own other : List StageEntry) (s : State) (hkp : Keeps pq s) : Keeps pq (haltPair key reason own other s) := by
  unfold haltPair
  repeat' (first | (with_reducible assumption) | (with_reducible apply event_keeps) | (with_reducible apply flushCell_keeps) | (with_reducible apply flushRing_keeps) | (with_reducible apply purgeFrames_keeps) | (with_reducible apply recordDiv_keeps) | (with_reducible apply setFormed_keeps) | (with_reducible apply setTwin_keeps) | (with_reducible apply keeps_ite) | (with_reducible refine keeps_foldl ?_ _ ?_) | (intro _) | split | (dsimp only) | (with_reducible refine keeps_mk rfl rfl rfl rfl rfl ?_))

theorem releaseCpl_keeps {pq : Kept} (id : Nat) (s : State) (hkp : Keeps pq s) : Keeps pq (releaseCpl id s) := by
  unfold releaseCpl
  repeat' (first | (with_reducible assumption) | (with_reducible apply flushLog_keeps) | (with_reducible apply updCpl_keeps) | (intro _) | split | (dsimp only))

theorem compareWith_keeps {pq : Kept} (c : Cpl) (r : CompareRec) (s : State) (hkp : Keeps pq s) : Keeps pq (compareWith c r s) := by
  unfold compareWith
  repeat' (first | (with_reducible assumption) | (with_reducible apply State.addWrap_keeps) | (with_reducible apply haltPair_keeps) | (with_reducible apply releaseCpl_keeps) | (with_reducible apply keeps_ite) | (intro _) | split | (dsimp only))

theorem formCpl_keeps {pq : Kept} (c : Cpl) (s : State) (hkp : Keeps pq s) : Keeps pq (formCpl c s) := by
  unfold formCpl
  repeat' (first | (with_reducible assumption) | (with_reducible apply addCpl_keeps) | (with_reducible apply compareWith_keeps) | (with_reducible apply flushLog_keeps) | (with_reducible apply sendTwin_keeps) | (with_reducible apply keeps_ite) | (intro _) | split | (dsimp only) | (with_reducible refine keeps_mk rfl rfl rfl rfl rfl ?_))

theorem formItem_keeps {pq : Kept} (it : RItem) (s : State) (hkp : Keeps pq s) : Keeps pq (formItem it s) := by
  unfold formItem
  repeat' (first | (with_reducible assumption) | (with_reducible apply dropItem_keeps) | (with_reducible apply formCpl_keeps) | (with_reducible apply keeps_ite) | (intro _) | split | (dsimp only))

theorem formSlot_keeps {pq : Kept} (cell : Nat) (y : FwSlot) (it : FwItem) (status detail : Nat) (out soft elements : List Byte) (s : State) (hkp : Keeps pq s) : Keeps pq (formSlot cell y it status detail out soft elements s) := by
  unfold formSlot
  repeat' (first | (with_reducible assumption) | (with_reducible apply batchEnd_keeps) | (with_reducible apply endFw_keeps) | (with_reducible apply formCpl_keeps) | (with_reducible apply setFormed_keeps) | (with_reducible apply slotMiss_keeps) | (with_reducible apply updSlot_keeps) | (with_reducible apply keeps_ite) | (intro _) | split | (dsimp only))

theorem finishSlot_keeps {pq : Kept} (cell epoch idx status detail : Nat) (s : State) (hkp : Keeps pq s) : Keeps pq (finishSlot cell epoch idx status detail s) := by
  unfold finishSlot
  repeat' (first | (with_reducible assumption) | (with_reducible apply formSlot_keeps) | (with_reducible apply keeps_ite) | (intro _) | split | (dsimp only))

end Sys2Proof.Machine
end

