-- ==== Sys2Proof/Laws/KeepItems.lean ====
section
/-! SUPPORT. What the operations of Machine/Items.lean keep. -/

namespace Sys2Proof.Machine

theorem finish_keeps {pq : Kept} (id status detail : Nat) (s : State) (hkp : Keeps pq s) : Keeps pq (finish id status detail s) := by
  unfold finish
  repeat' (first | (with_reducible assumption) | (with_reducible apply addOutcome_keeps) | (with_reducible apply formItem_keeps) | (intro _) | split | (dsimp only))

theorem failTask_keeps {pq : Kept} (id status detail : Nat) (s : State) (hkp : Keeps pq s) : Keeps pq (failTask id status detail s) := by
  unfold failTask
  repeat' (first | (with_reducible assumption) | (with_reducible apply addOutcome_keeps) | (with_reducible apply formItem_keeps) | (with_reducible apply stopUnits_keeps) | (intro _) | split | (dsimp only))

theorem flushTile_keeps {pq : Kept} (t : Nat) (s : State) (hkp : Keeps pq s) : Keeps pq (flushTile t s) := by
  unfold flushTile
  repeat' (first | (with_reducible assumption) | (with_reducible apply State.setTile_keeps) | (with_reducible apply showTile_keeps) | (with_reducible apply keeps_ite) | (with_reducible refine keeps_foldl ?_ _ ?_) | (intro _) | split | (dsimp only))

theorem taskFlush_keeps {pq : Kept} (id : Nat) (s : State) (hkp : Keeps pq s) : Keeps pq (taskFlush id s) := by
  unfold taskFlush
  repeat' (first | (with_reducible assumption) | (with_reducible apply flushTile_keeps) | (with_reducible apply keeps_ite) | (with_reducible refine keeps_foldl ?_ _ ?_) | (intro _) | split | (dsimp only))

theorem taskSettle_keeps {pq : Kept} (id : Nat) (s : State) (hkp : Keeps pq s) : Keeps pq (taskSettle id s) := by
  unfold taskSettle
  repeat' (first | (with_reducible assumption) | (with_reducible apply formItem_keeps) | (with_reducible apply releaseTile_keeps) | (with_reducible apply keeps_ite) | (with_reducible refine keeps_foldl ?_ _ ?_) | (intro _) | split | (dsimp only))

theorem coreEnded_keeps {pq : Kept} (c : Nat) (s : State) (hkp : Keeps pq s) : Keeps pq (coreEnded c s) := by
  unfold coreEnded
  repeat' (first | (with_reducible assumption) | (with_reducible apply State.setCore_keeps) | (with_reducible apply taskFlush_keeps) | (with_reducible apply taskSettle_keeps) | (with_reducible apply updItem_keeps) | (intro _) | split | (dsimp only))

theorem chanStart_keeps {pq : Kept} (c addr : Nat) (item : Option Nat) (place : Option (List Nat × List Nat)) (s : State) (hkp : Keeps pq s) : Keeps pq (chanStart c addr item place s) := by
  unfold chanStart
  repeat' (first | (with_reducible assumption) | (with_reducible apply State.setChan_keeps) | (with_reducible apply State.setReg_keeps) | (with_reducible apply setChanState_keeps) | (intro _) | split | (dsimp only))

theorem startStreams_keeps {pq : Kept} (it : RItem) (s : State) (hkp : Keeps pq s) : Keeps pq (startStreams it s) := by
  unfold startStreams
  repeat' (first | (with_reducible assumption) | (with_reducible apply State.setReg_keeps) | (with_reducible apply addOutcome_keeps) | (with_reducible apply chanStart_keeps) | (with_reducible apply updItem_keeps) | (with_reducible apply keeps_ite) | (with_reducible refine keeps_foldl ?_ _ ?_) | (intro _) | split | (dsimp only))

theorem readInputs_keeps {pq : Kept} (it : RItem) (s : State) (hkp : Keeps pq s) : Keeps pq (readInputs it s) := by
  unfold readInputs
  repeat' (first | (with_reducible assumption) | (with_reducible apply addOutcome_keeps) | (with_reducible apply noteErr_keeps) | (with_reducible apply updItem_keeps) | (with_reducible apply vaRead_keeps) | (with_reducible apply keeps_ite) | (intro _) | split | (with_reducible refine keeps_fst (by assumption) ?_) | (with_reducible refine keeps_fst3 (by assumption) ?_) | (dsimp only))

theorem taskStart_keeps {pq : Kept} (id : Nat) (s : State) (hkp : Keeps pq s) : Keeps pq (taskStart id s) := by
  unfold taskStart
  repeat' (first | (with_reducible assumption) | (with_reducible apply readInputs_keeps) | (with_reducible apply startStreams_keeps) | (with_reducible apply taskSettle_keeps) | (with_reducible apply keeps_ite) | (intro _) | split | (dsimp only))

theorem placeTiles_keeps {pq : Kept} (f : Nat) (s : State) (hkp : Keeps pq s) : Keeps pq (placeTiles f s) := by
  unfold placeTiles
  repeat' (first | (with_reducible assumption) | (with_reducible apply State.setFlag_keeps) | (with_reducible apply State.setFld_keeps) | (with_reducible apply State.setTile_keeps) | (with_reducible apply setTileState_keeps) | (with_reducible apply taskStart_keeps) | (with_reducible apply updItem_keeps) | (with_reducible apply keeps_ite) | (with_reducible refine keeps_foldl ?_ _ ?_) | (intro _) | split | (dsimp only))

theorem placeCores_keeps {pq : Kept} (f : Nat) (s : State) (hkp : Keeps pq s) : Keeps pq (placeCores f s) := by
  unfold placeCores
  repeat' (first | (with_reducible assumption) | (with_reducible apply State.setCore_keeps) | (with_reducible apply State.setFlag_keeps) | (with_reducible apply setCoreState_keeps) | (with_reducible apply taskStart_keeps) | (with_reducible apply updItem_keeps) | (with_reducible apply keeps_ite) | (with_reducible refine keeps_foldl ?_ _ ?_) | (intro _) | split | (dsimp only))

theorem execTaskPlacement_keeps {pq : Kept} (f : Fin 17) (s : State) (hkp : Keeps pq s) : Ends (Keeps pq) (execTaskPlacement f s) := by
  unfold execTaskPlacement
  repeat' (first | (with_reducible assumption) | (with_reducible apply placeTiles_keeps) | (with_reducible apply ends_next) | (intro _) | split | (dsimp only))

theorem execCoreTaskPlacement_keeps {pq : Kept} (f : Fin 17) (s : State) (hkp : Keeps pq s) : Ends (Keeps pq) (execCoreTaskPlacement f s) := by
  unfold execCoreTaskPlacement
  repeat' (first | (with_reducible assumption) | (with_reducible apply placeCores_keeps) | (with_reducible apply ends_next) | (intro _) | split | (dsimp only))

end Sys2Proof.Machine
end

