-- ==== Sys2Proof/Laws/KeepChan.lean ====
section
/-! SUPPORT. What the operations of Machine/Chan.lean keep. -/

namespace Sys2Proof.Machine

theorem semSignal_keeps {pq : Kept} (p : Nat) (consumer : Bool) (s : State) (hkp : Keeps pq s) : Keeps pq (semSignal p consumer s) := by
  unfold semSignal
  repeat' (first | (with_reducible assumption) | (with_reducible apply State.addWrap_keeps) | (with_reducible apply State.setFlag_keeps) | (with_reducible apply eventVi_keeps) | (with_reducible apply keeps_ite) | (intro _) | split | (dsimp only))

theorem semTake_keeps {pq : Kept} (p : Nat) (consumer : Bool) (s : State) (hkp : Keeps pq s) : Keeps pq (semTake p consumer s) := by
  unfold semTake
  repeat' (first | (with_reducible assumption) | (with_reducible apply State.setFld_keeps) | (with_reducible apply keeps_ite) | (intro _) | split | (dsimp only))

theorem chanEnd_keeps {pq : Kept} (c status detail : Nat) (s : State) (hkp : Keeps pq s) : Keeps pq (chanEnd c status detail s) := by
  unfold chanEnd
  repeat' (first | (with_reducible assumption) | (with_reducible apply failTask_keeps) | (with_reducible apply idleChan_keeps) | (with_reducible apply stopChan_keeps) | (with_reducible apply taskFlush_keeps) | (with_reducible apply taskSettle_keeps) | (with_reducible apply updItem_keeps) | (with_reducible apply keeps_ite) | (intro _) | split | (dsimp only))

theorem chanFail_keeps {pq : Kept} (c : Nat) (e : AccErr) (s : State) (hkp : Keeps pq s) : Keeps pq (chanFail c e s) := by
  unfold chanFail
  repeat' (first | (with_reducible assumption) | (with_reducible apply chanEnd_keeps) | (with_reducible apply noteErr_keeps) | (intro _) | split | (dsimp only))

theorem chanSignals_keeps {pq : Kept} (n : Nat) : ∀ (c : Nat) (s : State), Keeps pq s → Keeps pq (chanSignals n c s) := by
  induction n with
  | zero => intro c s h; exact h
  | succ m ih =>
    intro c s h
    unfold chanSignals
    dsimp only
    split
    · exact h
    · split
      · split
        · apply ih
          split
          · exact State.setChan_keeps _ _ _ h
          · exact semSignal_keeps _ _ _ (State.setChan_keeps _ _ _ h)
        · refine State.setFlag_keeps _ _ _ _ (State.setTile_keeps _ _ _ ?_)
          split
          · exact State.setChan_keeps _ _ _ h
          · exact semSignal_keeps _ _ _ (State.setChan_keeps _ _ _ h)
      · exact h

theorem chanAdvance_keeps {pq : Kept} (c : Nat) (s : State) (hkp : Keeps pq s) : Keeps pq (chanAdvance c s) := by
  unfold chanAdvance
  repeat' (first | (with_reducible assumption) | (with_reducible apply chanEnd_keeps) | (with_reducible apply chanSignals_keeps) | (with_reducible apply keeps_ite) | (intro _) | split | (dsimp only))

theorem descDone_keeps {pq : Kept} (c did : Nat) (s : State) (hkp : Keeps pq s) : Keeps pq (descDone c did s) := by
  unfold descDone
  repeat' (first | (with_reducible assumption) | (with_reducible apply State.setChan_keeps) | (with_reducible apply chanAdvance_keeps) | (with_reducible apply keeps_ite) | (intro _) | split | (dsimp only))

theorem descBegun_keeps {pq : Kept} (c next : Nat) (done : Bool) (swap : Option Nat) (writes : Option (Nat × Nat × Nat)) (reads : List (Nat × Nat × Nat)) (s : State) (hkp : Keeps pq s) : Keeps pq (descBegun c next done swap writes reads s) := by
  unfold descBegun
  repeat' (first | (with_reducible assumption) | (with_reducible apply State.setChan_keeps) | (with_reducible apply State.setReg_keeps) | (with_reducible apply chanAdvance_keeps) | (with_reducible apply setChanState_keeps) | (with_reducible apply taskFlush_keeps) | (with_reducible apply keeps_ite) | (intro _) | split | (dsimp only))

end Sys2Proof.Machine
end

