-- ==== Sys2Proof/Laws/KeepNave.lean ====
section
/-! SUPPORT. What the operations of Machine/Nave.lean keep. -/

namespace Sys2Proof.Machine

theorem rowsFinished_keeps {pq : Kept} (t k : Nat) (segs : List NavSeg) (s : State) (hkp : Keeps pq s) : Keeps pq (rowsFinished t k segs s) := by
  unfold rowsFinished
  repeat' (first | (with_reducible assumption) | (with_reducible apply State.setTile_keeps) | (with_reducible apply descDone_keeps) | (with_reducible apply showTile_keeps) | (with_reducible apply taskSettle_keeps) | (with_reducible apply keeps_ite) | (with_reducible refine keeps_foldl ?_ _ ?_) | (intro _) | split | (dsimp only))

theorem arrayPass_keeps {pq : Kept} (t k : Nat) (s : State) (hkp : Keeps pq s) : Keeps pq (arrayPass t k s) := by
  unfold arrayPass
  repeat' (first | (with_reducible assumption) | (with_reducible apply State.addWrap_keeps) | (with_reducible apply State.setTile_keeps) | (with_reducible apply markStarted_keeps) | (with_reducible apply rowsFinished_keeps) | (with_reducible apply showTile_keeps) | (with_reducible apply keeps_ite) | (intro _) | split | (dsimp only))

theorem execArrayPass_keeps {pq : Kept} (tile : Fin 32) (ctx : Fin 8) (s : State) (hkp : Keeps pq s) : Ends (Keeps pq) (execArrayPass tile ctx s) := by
  unfold execArrayPass
  repeat' (first | (with_reducible assumption) | (with_reducible apply arrayPass_keeps) | (with_reducible apply ends_next) | (intro _) | split | (dsimp only))

theorem mvpVector_keeps {pq : Kept} (t k : Nat) (s : State) (hkp : Keeps pq s) : Keeps pq (mvpVector t k s) := by
  unfold mvpVector
  repeat' (first | (with_reducible assumption) | (with_reducible apply State.addWrap_keeps) | (with_reducible apply State.setTile_keeps) | (with_reducible apply markStarted_keeps) | (with_reducible apply rowsFinished_keeps) | (with_reducible apply keeps_ite) | (intro _) | split | (dsimp only))

theorem execMvpVector_keeps {pq : Kept} (tile : Fin 32) (ctx : Fin 8) (s : State) (hkp : Keeps pq s) : Ends (Keeps pq) (execMvpVector tile ctx s) := by
  unfold execMvpVector
  repeat' (first | (with_reducible assumption) | (with_reducible apply mvpVector_keeps) | (with_reducible apply ends_next) | (intro _) | split | (dsimp only))

theorem fillTimeout_keeps {pq : Kept} (t k : Nat) (s : State) (hkp : Keeps pq s) : Keeps pq (fillTimeout t k s) := by
  unfold fillTimeout
  repeat' (first | (with_reducible assumption) | (with_reducible apply State.setTile_keeps) | (with_reducible apply showTile_keeps) | (with_reducible apply keeps_ite) | (intro _) | split | (dsimp only))

theorem execFillTimeout_keeps {pq : Kept} (tile : Fin 32) (ctx : Fin 8) (s : State) (hkp : Keeps pq s) : Ends (Keeps pq) (execFillTimeout tile ctx s) := by
  unfold execFillTimeout
  repeat' (first | (with_reducible assumption) | (with_reducible apply fillTimeout_keeps) | (with_reducible apply ends_next) | (intro _) | split | (dsimp only))

theorem postRows_keeps {pq : Kept} (t k : Nat) (q : NavReq) (s : State) (hkp : Keeps pq s) : Keeps pq (postRows t k q s) := by
  unfold postRows
  repeat' (first | (with_reducible assumption) | (with_reducible apply State.setTile_keeps) | (with_reducible apply showTile_keeps) | (with_reducible apply keeps_ite) | (intro _) | split | (dsimp only))

theorem reachTile_keeps {pq : Kept} (t k : Nat) (q : NavReq) (s : State) (hkp : Keeps pq s) : Keeps pq (reachTile t k q s) := by
  unfold reachTile
  repeat' (first | (with_reducible assumption) | (with_reducible apply State.setTile_keeps) | (with_reducible apply postRows_keeps) | (with_reducible apply keeps_ite) | (intro _) | split | (dsimp only))

theorem feederCycle_keeps {pq : Kept} (t : Nat) (need spent : Nat) (reqs : List (Nat × Nat)) (s : State) (hkp : Keeps pq s) : Keeps pq (feederCycle t need spent reqs s) := by
  unfold feederCycle
  repeat' (first | (with_reducible assumption) | (with_reducible apply State.addSat_keeps) | (with_reducible apply State.setTile_keeps) | (with_reducible apply keeps_ite) | (with_reducible refine keeps_foldl ?_ _ ?_) | (intro _) | split | (dsimp only))

theorem execFeederRefill_keeps {pq : Kept} (tile : Fin 32) (need spent : BitVec 16) (requests : List (Fin 16 × Fin 32)) (s : State) (hkp : Keeps pq s) : Ends (Keeps pq) (execFeederRefill tile need spent requests s) := by
  unfold execFeederRefill
  repeat' (first | (with_reducible assumption) | (with_reducible apply feederCycle_keeps) | (with_reducible apply ends_next) | (intro _) | split | (dsimp only))

theorem preempt_keeps {pq : Kept} (t : Nat) (s : State) (hkp : Keeps pq s) : Keeps pq (preempt t s) := by
  unfold preempt
  repeat' (first | (with_reducible assumption) | (with_reducible apply State.setTile_keeps) | (with_reducible apply setTileState_keeps) | (with_reducible apply keeps_ite) | (intro _) | split | (dsimp only))

theorem execPreemptionRequest_keeps {pq : Kept} (tile : Fin 32) (s : State) (hkp : Keeps pq s) : Ends (Keeps pq) (execPreemptionRequest tile s) := by
  unfold execPreemptionRequest
  repeat' (first | (with_reducible assumption) | (with_reducible apply preempt_keeps) | (with_reducible apply ends_next) | (intro _) | split | (dsimp only))

theorem spillStart_keeps {pq : Kept} (t : Nat) (s : State) (hkp : Keeps pq s) : Keeps pq (spillStart t s) := by
  unfold spillStart
  repeat' (first | (with_reducible assumption) | (with_reducible apply State.setTile_keeps) | (with_reducible apply setTileState_keeps) | (with_reducible apply keeps_ite) | (intro _) | split | (dsimp only))

theorem execSpillStart_keeps {pq : Kept} (tile : Fin 32) (s : State) (hkp : Keeps pq s) : Ends (Keeps pq) (execSpillStart tile s) := by
  unfold execSpillStart
  repeat' (first | (with_reducible assumption) | (with_reducible apply spillStart_keeps) | (with_reducible apply ends_next) | (intro _) | split | (dsimp only))

theorem spillDone_keeps {pq : Kept} (t took : Nat) (s : State) (hkp : Keeps pq s) : Keeps pq (spillDone t took s) := by
  unfold spillDone
  repeat' (first | (with_reducible assumption) | (with_reducible apply State.addWrap_keeps) | (with_reducible apply State.setFld_keeps) | (with_reducible apply State.setTile_keeps) | (with_reducible apply setTileState_keeps) | (with_reducible apply keeps_ite) | (intro _) | split | (dsimp only))

theorem execSpillDone_keeps {pq : Kept} (tile : Fin 32) (took : BitVec 16) (s : State) (hkp : Keeps pq s) : Ends (Keeps pq) (execSpillDone tile took s) := by
  unfold execSpillDone
  repeat' (first | (with_reducible assumption) | (with_reducible apply spillDone_keeps) | (with_reducible apply ends_next) | (intro _) | split | (dsimp only))

theorem execPreOver_keeps {pq : Kept} (tile : Fin 32) (s : State) (hkp : Keeps pq s) : Ends (Keeps pq) (execPreOver tile s) := by
  unfold execPreOver
  repeat' (first | (with_reducible assumption) | (with_reducible apply State.setFlag_keeps) | (with_reducible apply ends_next) | (with_reducible apply keeps_ite) | (intro _) | split | (dsimp only))

theorem restoreCopy_keeps {pq : Kept} (t : Nat) (s : State) (hkp : Keeps pq s) : Keeps pq (restoreCopy t s) := by
  unfold restoreCopy
  repeat' (first | (with_reducible assumption) | (with_reducible apply State.setTile_keeps) | (with_reducible refine keeps_foldl ?_ _ ?_) | (intro _) | split | (dsimp only))

theorem resumeHolds_keeps {pq : Kept} (t : Nat) (s : State) (hkp : Keeps pq s) : Keeps pq (resumeHolds t s) := by
  unfold resumeHolds
  repeat' (first | (with_reducible assumption) | (with_reducible apply State.setTile_keeps) | (with_reducible apply showTile_keeps) | (with_reducible refine keeps_foldl ?_ _ ?_) | (intro _) | split | (dsimp only))

theorem restoreDone_keeps {pq : Kept} (t : Nat) (s : State) (hkp : Keeps pq s) : Keeps pq (restoreDone t s) := by
  unfold restoreDone
  repeat' (first | (with_reducible assumption) | (with_reducible apply State.setTile_keeps) | (with_reducible apply restoreCopy_keeps) | (with_reducible apply resumeHolds_keeps) | (with_reducible apply setTileState_keeps) | (with_reducible apply keeps_ite) | (intro _) | split | (dsimp only))

theorem execRestoreDone_keeps {pq : Kept} (tile : Fin 32) (s : State) (hkp : Keeps pq s) : Ends (Keeps pq) (execRestoreDone tile s) := by
  unfold execRestoreDone
  repeat' (first | (with_reducible assumption) | (with_reducible apply restoreDone_keeps) | (with_reducible apply ends_next) | (intro _) | split | (dsimp only))

theorem endLending_keeps {pq : Kept} (t : Nat) (s : State) (hkp : Keeps pq s) : Keeps pq (endLending t s) := by
  unfold endLending
  repeat' (first | (with_reducible assumption) | (with_reducible apply State.setTile_keeps) | (with_reducible apply setTileState_keeps) | (with_reducible apply keeps_ite) | (intro _) | split | (dsimp only))

theorem navClear_keeps {pq : Kept} (t : Nat) (s : State) (hkp : Keeps pq s) : Keeps pq (navClear t s) := by
  unfold navClear
  repeat' (first | (with_reducible assumption) | (with_reducible apply setTileState_keeps) | (with_reducible apply keeps_ite) | (intro _) | split | (dsimp only))

theorem writeNavCtl_keeps {pq : Kept} (a : Agent) (t : Nat) (v : Word) (s : State) (hkp : Keeps pq s) : Keeps pq (writeNavCtl a t v s) := by
  unfold writeNavCtl
  repeat' (first | (with_reducible assumption) | (with_reducible apply State.setTile_keeps) | (with_reducible apply navClear_keeps) | (with_reducible apply preempt_keeps) | (with_reducible apply storeReg_keeps) | (with_reducible apply keeps_ite) | (intro _) | split | (dsimp only))

theorem execPreReq_keeps {pq : Kept} (a : Agent) (tile : Fin 32) (v : Word) (s : State) (hkp : Keeps pq s) : Ends (Keeps pq) (execPreReq a tile v s) := by
  unfold execPreReq
  repeat' (first | (with_reducible assumption) | (with_reducible apply writeNavCtl_keeps) | (with_reducible apply ends_next) | (intro _) | split | (dsimp only))

theorem execPreRel_keeps {pq : Kept} (a : Agent) (tile : Fin 32) (v : Word) (s : State) (hkp : Keeps pq s) : Ends (Keeps pq) (execPreRel a tile v s) := by
  unfold execPreRel
  repeat' (first | (with_reducible assumption) | (with_reducible apply writeNavCtl_keeps) | (with_reducible apply ends_next) | (intro _) | split | (dsimp only))

theorem execNavClr_keeps {pq : Kept} (a : Agent) (tile : Fin 32) (v : Word) (s : State) (hkp : Keeps pq s) : Ends (Keeps pq) (execNavClr a tile v s) := by
  unfold execNavClr
  repeat' (first | (with_reducible assumption) | (with_reducible apply writeNavCtl_keeps) | (with_reducible apply ends_next) | (intro _) | split | (dsimp only))

theorem cancelSwaps_keeps {pq : Kept} (t : Nat) (s : State) (hkp : Keeps pq s) : Keeps pq (cancelSwaps t s) := by
  unfold cancelSwaps
  repeat' (first | (with_reducible assumption) | (with_reducible apply State.setTile_keeps) | (with_reducible apply chanEnd_keeps) | (with_reducible refine keeps_foldl ?_ _ ?_) | (intro _) | split | (dsimp only))

theorem tileUe_keeps {pq : Kept} (t : Nat) (s : State) (hkp : Keeps pq s) : Keeps pq (tileUe t s) := by
  unfold tileUe
  repeat' (first | (with_reducible assumption) | (with_reducible apply State.setTile_keeps) | (with_reducible apply cancelSwaps_keeps) | (with_reducible apply chanEnd_keeps) | (with_reducible apply event_keeps) | (with_reducible apply failTask_keeps) | (with_reducible apply setTileState_keeps) | (with_reducible apply showTile_keeps) | (with_reducible apply keeps_ite) | (with_reducible refine keeps_foldl ?_ _ ?_) | (intro _) | split | (dsimp only))

end Sys2Proof.Machine
end

