-- ==== Sys2Proof/Laws/KeepStream.lean ====
section
/-! SUPPORT. What the operations of Machine/Stream.lean keep. -/

namespace Sys2Proof.Machine

theorem fetchDesc_keeps {pq : Kept} (c : Nat) (s : State) (hkp : Keeps pq s) : Keeps pq (fetchDesc c s) := by
  unfold fetchDesc
  repeat' (first | (with_reducible assumption) | (with_reducible apply State.setChan_keeps) | (with_reducible apply chanEnd_keeps) | (with_reducible apply chanFail_keeps) | (with_reducible apply markStartedOpt_keeps) | (with_reducible apply vaRead_keeps) | (with_reducible apply keeps_ite) | (intro _) | split | (with_reducible refine keeps_fst (by assumption) ?_) | (with_reducible refine keeps_fst3 (by assumption) ?_) | (dsimp only))

theorem prepDesc_keeps {pq : Kept} (c : Nat) (s : State) (hkp : Keeps pq s) : Keeps pq (prepDesc c s) := by
  unfold prepDesc
  repeat' (first | (with_reducible assumption) | (with_reducible apply State.setChan_keeps) | (with_reducible apply State.setSem_keeps) | (with_reducible apply chanEnd_keeps) | (with_reducible apply semTake_keeps) | (with_reducible apply setChanState_keeps) | (with_reducible apply keeps_ite) | (intro _) | split | (dsimp only))

theorem onDesc_keeps {pq : Kept} (c : Nat) (p : Nat → Bool) (k : State → State) (s : State) (h : Keeps pq s)
    (hk : ∀ s, Keeps pq s → Keeps pq (k s)) : Keeps pq (onDesc c p k s) := by
  have h1 := fetchDesc_keeps c s h
  have h2 := prepDesc_keeps c _ h1
  unfold onDesc
  repeat' (first | (with_reducible assumption) | (with_reducible apply hk) | split | (dsimp only))

theorem execStreamNop_keeps {pq : Kept} (ch : Fin 192) (s : State) (hkp : Keeps pq s) : Ends (Keeps pq) (execStreamNop ch s) := by
  unfold execStreamNop
  repeat' (first | (with_reducible assumption) | (with_reducible apply descBegun_keeps) | (with_reducible apply onDesc_keeps) | (with_reducible apply ends_next) | (intro _) | split | (dsimp only))

theorem execLink_keeps {pq : Kept} (ch : Fin 192) (s : State) (hkp : Keeps pq s) : Ends (Keeps pq) (execLink ch s) := by
  unfold execLink
  repeat' (first | (with_reducible assumption) | (with_reducible apply descBegun_keeps) | (with_reducible apply onDesc_keeps) | (with_reducible apply ends_next) | (intro _) | split | (dsimp only))

theorem undefinedStream_keeps {pq : Kept} (c : Nat) (s : State) (hkp : Keeps pq s) : Keeps pq (undefinedStream c s) := by
  unfold undefinedStream
  repeat' (first | (with_reducible assumption) | (with_reducible apply chanEnd_keeps) | (with_reducible apply fetchDesc_keeps) | (with_reducible apply keeps_ite) | (intro _) | split | (dsimp only))

theorem execUndefinedStreamOpcode_keeps {pq : Kept} (ch : Fin 192) (s : State) (hkp : Keeps pq s) : Ends (Keeps pq) (execUndefinedStreamOpcode ch s) := by
  unfold execUndefinedStreamOpcode
  repeat' (first | (with_reducible assumption) | (with_reducible apply undefinedStream_keeps) | (with_reducible apply ends_next) | (intro _) | split | (dsimp only))

theorem readSide_keeps {pq : Kept} (c n : Nat) (d : Side) (s : State) (hkp : Keeps pq s) : Keeps pq (readSide c n d s).1 := by
  unfold readSide
  repeat' (first | (with_reducible assumption) | (with_reducible apply vaRead_keeps) | (with_reducible apply keeps_ite) | (intro _) | split | (with_reducible refine keeps_fst (by assumption) ?_) | (with_reducible refine keeps_fst3 (by assumption) ?_) | (dsimp only))

theorem tileWrite_keeps {pq : Kept} (c : Nat) (bs : List Byte) (d : Side) (s : State) (hkp : Keeps pq s) : Keeps pq (tileWrite c bs d s) := by
  unfold tileWrite
  repeat' (first | (with_reducible assumption) | (with_reducible apply State.setTile_keeps) | (intro _) | split | (dsimp only))

theorem writeSide_keeps {pq : Kept} (c : Nat) (bs : List Byte) (d : Side) (s : State) (hkp : Keeps pq s) : Keeps pq (writeSide c bs d s).1 := by
  unfold writeSide
  repeat' (first | (with_reducible assumption) | (with_reducible apply State.setCore_keeps) | (with_reducible apply tileWrite_keeps) | (with_reducible apply physWrite_keeps) | (with_reducible apply vaWrite_keeps) | (with_reducible apply keeps_ite) | (intro _) | split | (with_reducible refine keeps_fst (by assumption) ?_) | (with_reducible refine keeps_fst3 (by assumption) ?_) | (dsimp only))

theorem sideFail_keeps {pq : Kept} (c : Nat) (e : SideErr) (s : State) (hkp : Keeps pq s) : Keeps pq (sideFail c e s) := by
  unfold sideFail
  repeat' (first | (with_reducible assumption) | (with_reducible apply chanEnd_keeps) | (with_reducible apply noteErr_keeps) | (intro _) | split | (dsimp only))

theorem indexOf_keeps {pq : Kept} (c i : Nat) (s : State) (hkp : Keeps pq s) : Keeps pq (indexOf c i s).1 := by
  unfold indexOf
  repeat' (first | (with_reducible assumption) | (with_reducible apply vaRead_keeps) | (with_reducible apply keeps_ite) | (intro _) | split | (with_reducible refine keeps_fst (by assumption) ?_) | (with_reducible refine keeps_fst3 (by assumption) ?_) | (dsimp only))

theorem countBurst_keeps {pq : Kept} (c : Nat) (bs : List Byte) (dst : Side) (s : State) (hkp : Keeps pq s) : Keeps pq (countBurst c bs dst s) := by
  unfold countBurst
  repeat' (first | (with_reducible assumption) | (with_reducible apply State.addSat_keeps) | (with_reducible apply State.addWrap_keeps) | (with_reducible apply updItem_keeps) | (with_reducible apply keeps_ite) | (intro _) | split | (dsimp only))

theorem copyOver_keeps {pq : Kept} (c : Nat) (s : State) (hkp : Keeps pq s) : Keeps pq (copyOver c s) := by
  unfold copyOver
  repeat' (first | (with_reducible assumption) | (with_reducible apply descBegun_keeps) | (with_reducible apply keeps_ite) | (intro _) | split | (dsimp only))

theorem copyBurst_keeps {pq : Kept} (c : Nat) (s : State) (hkp : Keeps pq s) : Keeps pq (copyBurst c s) := by
  unfold copyBurst
  repeat' (first | (with_reducible assumption) | (with_reducible apply State.addSat_keeps) | (with_reducible apply State.setChan_keeps) | (with_reducible apply copyOver_keeps) | (with_reducible apply countBurst_keeps) | (with_reducible apply indexOf_keeps) | (with_reducible apply readSide_keeps) | (with_reducible apply sideFail_keeps) | (with_reducible apply writeSide_keeps) | (with_reducible apply keeps_ite) | (intro _) | split | (with_reducible refine keeps_fst (by assumption) ?_) | (with_reducible refine keeps_fst3 (by assumption) ?_) | (dsimp only))

theorem copyRun_keeps {pq : Kept} (fuel : Nat) : ∀ (c : Nat) (s : State), Keeps pq s → Keeps pq (copyRun fuel c s) := by
  induction fuel with
  | zero => intro c s h; exact h
  | succ m ih =>
    intro c s h
    have h1 := copyBurst_keeps c s h
    unfold copyRun
    repeat' (first | (with_reducible assumption) | (with_reducible apply ih) | split | (dsimp only))

theorem execCopy_keeps {pq : Kept} (ch : Fin 192) (s : State) (hkp : Keeps pq s) : Ends (Keeps pq) (execCopy ch s) := by
  unfold execCopy
  repeat' (first | (with_reducible assumption) | (with_reducible apply copyRun_keeps) | (with_reducible apply onDesc_keeps) | (with_reducible apply ends_next) | (intro _) | split | (dsimp only))

theorem seBurst_keeps {pq : Kept} (e : Nat) (s : State) (hkp : Keeps pq s) : Keeps pq (seBurst e s) := by
  unfold seBurst
  repeat' (first | (with_reducible assumption) | (with_reducible apply copyBurst_keeps) | (with_reducible apply onDesc_keeps) | (intro _) | split | (dsimp only) | (with_reducible refine keeps_mk rfl rfl rfl rfl rfl ?_))

theorem execSeBurst_keeps {pq : Kept} (e : Fin 24) (s : State) (hkp : Keeps pq s) : Ends (Keeps pq) (execSeBurst e s) := by
  unfold execSeBurst
  repeat' (first | (with_reducible assumption) | (with_reducible apply seBurst_keeps) | (with_reducible apply ends_next) | (intro _) | split | (dsimp only))

theorem runHeader_keeps {pq : Kept} (c : Nat) (s : State) (hkp : Keeps pq s) : Keeps pq (runHeader c s) := by
  unfold runHeader
  repeat' (first | (with_reducible assumption) | (with_reducible apply State.setTile_keeps) | (with_reducible apply chanEnd_keeps) | (with_reducible apply chanFail_keeps) | (with_reducible apply descBegun_keeps) | (with_reducible apply showCtx_keeps) | (with_reducible apply sideFail_keeps) | (with_reducible apply vaRead_keeps) | (with_reducible apply keeps_ite) | (intro _) | split | (with_reducible refine keeps_fst (by assumption) ?_) | (with_reducible refine keeps_fst3 (by assumption) ?_) | (dsimp only))

theorem execHeader_keeps {pq : Kept} (ch : Fin 192) (s : State) (hkp : Keeps pq s) : Ends (Keeps pq) (execHeader ch s) := by
  unfold execHeader
  repeat' (first | (with_reducible assumption) | (with_reducible apply onDesc_keeps) | (with_reducible apply runHeader_keeps) | (with_reducible apply ends_next) | (intro _) | split | (dsimp only))

theorem runRows_keeps {pq : Kept} (c : Nat) (s : State) (hkp : Keeps pq s) : Keeps pq (runRows c s) := by
  unfold runRows
  repeat' (first | (with_reducible assumption) | (with_reducible apply chanEnd_keeps) | (with_reducible apply descBegun_keeps) | (with_reducible apply reachTile_keeps) | (with_reducible apply sideFail_keeps) | (with_reducible apply keeps_ite) | (intro _) | split | (dsimp only))

theorem execRows_keeps {pq : Kept} (ch : Fin 192) (s : State) (hkp : Keeps pq s) : Ends (Keeps pq) (execRows ch s) := by
  unfold execRows
  repeat' (first | (with_reducible assumption) | (with_reducible apply onDesc_keeps) | (with_reducible apply runRows_keeps) | (with_reducible apply ends_next) | (intro _) | split | (dsimp only))

theorem channelGo_keeps {pq : Kept} (a : Agent) (c : Nat) (v : Word) (s : State) (hkp : Keeps pq s) : Keeps pq (channelGo a c v s) := by
  unfold channelGo
  repeat' (first | (with_reducible assumption) | (with_reducible apply State.setFlag_keeps) | (with_reducible apply chanStart_keeps) | (with_reducible apply storeReg_keeps) | (with_reducible apply keeps_ite) | (intro _) | split | (dsimp only))

theorem execChannelGo_keeps {pq : Kept} (a : Agent) (ch : Fin 192) (v : Word) (s : State) (hkp : Keeps pq s) : Ends (Keeps pq) (execChannelGo a ch v s) := by
  unfold execChannelGo
  repeat' (first | (with_reducible assumption) | (with_reducible apply channelGo_keeps) | (with_reducible apply ends_next) | (intro _) | split | (dsimp only))

theorem cslBack_keeps {pq : Kept} (core word : Nat) (granted : Bool) (s : State) (hkp : Keeps pq s) : Keeps pq (cslBack core word granted s) := by
  unfold cslBack
  repeat' (first | (with_reducible assumption) | (with_reducible apply State.setCore_keeps) | (intro _) | split | (dsimp only))

theorem setCsl_keeps {pq : Kept} (core : Nat) (l : List Nat) (s : State) (hkp : Keeps pq s) : Keeps pq (setCsl core l s) := by
  unfold setCsl
  repeat' (first | (with_reducible assumption) | (intro _) | split | (dsimp only) | (with_reducible refine keeps_mk rfl rfl rfl rfl rfl ?_))

theorem setEvp_keeps {pq : Kept} (core ev : Nat) (s : State) (hkp : Keeps pq s) : Keeps pq (setEvp core ev s) := by
  unfold setEvp
  repeat' (first | (with_reducible assumption) | (with_reducible apply State.addSat_keeps) | (with_reducible apply State.setFlag_keeps) | (with_reducible apply State.setReg_keeps) | (with_reducible apply keeps_ite) | (intro _) | split | (dsimp only))

theorem takeWaiter_keeps {pq : Kept} (p : Nat) (consumer : Bool) (s : State) (c : Nat) (t : State) (h : Keeps pq s)
    (e : takeWaiter p consumer s = some (c, t)) : Keeps pq t := by
  unfold takeWaiter at e
  split at e
  · cases e
  · cases e; exact State.setSem_keeps _ _ _ h

theorem waitGrant_keeps {pq : Kept} (p : Nat) (consumer : Bool) (s : State) (hkp : Keeps pq s) : Keeps pq (waitGrant p consumer s) := by
  unfold waitGrant
  repeat' (first | (with_reducible assumption) | (with_reducible apply State.setChan_keeps) | (with_reducible apply cslBack_keeps) | (with_reducible apply semTake_keeps) | (with_reducible apply setChanState_keeps) | (with_reducible apply setCsl_keeps) | (with_reducible apply setEvp_keeps) | (with_reducible refine takeWaiter_keeps _ _ _ _ _ ?_ (by assumption)) | (with_reducible apply keeps_ite) | (intro _) | split | (dsimp only))

theorem execSemWaitGrant_keeps {pq : Kept} (p : Fin 256) (consumer : Bool) (s : State) (hkp : Keeps pq s) : Ends (Keeps pq) (execSemWaitGrant p consumer s) := by
  unfold execSemWaitGrant
  repeat' (first | (with_reducible assumption) | (with_reducible apply waitGrant_keeps) | (with_reducible apply ends_next) | (intro _) | split | (dsimp only))

theorem semCfg_keeps {pq : Kept} (a : Agent) (p : Nat) (v : Word) (s : State) (hkp : Keeps pq s) : Keeps pq (semCfg a p v s) := by
  unfold semCfg
  repeat' (first | (with_reducible assumption) | (with_reducible apply State.setFlag_keeps) | (with_reducible apply State.setFld_keeps) | (with_reducible apply State.setSem_keeps) | (with_reducible apply storeReg_keeps) | (with_reducible apply keeps_ite) | (intro _) | split | (dsimp only))

theorem execSemCfgWrite_keeps {pq : Kept} (a : Agent) (p : Fin 256) (v : Word) (s : State) (hkp : Keeps pq s) : Ends (Keeps pq) (execSemCfgWrite a p v s) := by
  unfold execSemCfgWrite
  repeat' (first | (with_reducible assumption) | (with_reducible apply semCfg_keeps) | (with_reducible apply ends_next) | (intro _) | split | (dsimp only))

theorem semOwn_keeps {pq : Kept} (a : Agent) (p : Nat) (v : Word) (s : State) (hkp : Keeps pq s) : Keeps pq (semOwn a p v s) := by
  unfold semOwn
  repeat' (first | (with_reducible assumption) | (with_reducible apply State.setSem_keeps) | (with_reducible apply storeReg_keeps) | (with_reducible apply keeps_ite) | (intro _) | split | (dsimp only))

theorem execSemOwnWrite_keeps {pq : Kept} (a : Agent) (p : Fin 256) (v : Word) (s : State) (hkp : Keeps pq s) : Ends (Keeps pq) (execSemOwnWrite a p v s) := by
  unfold execSemOwnWrite
  repeat' (first | (with_reducible assumption) | (with_reducible apply semOwn_keeps) | (with_reducible apply ends_next) | (intro _) | split | (dsimp only))

theorem semOp_keeps {pq : Kept} (a : Agent) (p op : Nat) (s : State) (hkp : Keeps pq s) : Keeps pq (semOp a p op s) := by
  unfold semOp
  repeat' (first | (with_reducible assumption) | (with_reducible apply semSignal_keeps) | (with_reducible apply storeReg_keeps) | (with_reducible apply keeps_ite) | (intro _) | split | (dsimp only))

theorem execSemOpProducer_keeps {pq : Kept} (a : Agent) (p : Fin 256) (s : State) (hkp : Keeps pq s) : Ends (Keeps pq) (execSemOpProducer a p s) := by
  unfold execSemOpProducer
  repeat' (first | (with_reducible assumption) | (with_reducible apply semOp_keeps) | (with_reducible apply ends_next) | (intro _) | split | (dsimp only))

theorem execSemOpConsumer_keeps {pq : Kept} (a : Agent) (p : Fin 256) (s : State) (hkp : Keeps pq s) : Ends (Keeps pq) (execSemOpConsumer a p s) := by
  unfold execSemOpConsumer
  repeat' (first | (with_reducible assumption) | (with_reducible apply semOp_keeps) | (with_reducible apply ends_next) | (intro _) | split | (dsimp only))

theorem cslObserve_keeps {pq : Kept} (core addr len : Nat) (s : State) (hkp : Keeps pq s) : Keeps pq (cslObserve core addr len s) := by
  unfold cslObserve
  repeat' (first | (with_reducible assumption) | (with_reducible apply setCsl_keeps) | (with_reducible apply keeps_ite) | (intro _) | split | (dsimp only))

theorem cslCommand_keeps {pq : Kept} (core : Nat) (s : State) (hkp : Keeps pq s) : Keeps pq (cslCommand core s) := by
  unfold cslCommand
  repeat' (first | (with_reducible assumption) | (with_reducible apply State.setFlag_keeps) | (with_reducible apply State.setSem_keeps) | (with_reducible apply cslBack_keeps) | (with_reducible apply semSignal_keeps) | (with_reducible apply semTake_keeps) | (with_reducible apply setCsl_keeps) | (with_reducible apply setEvp_keeps) | (with_reducible apply keeps_ite) | (intro _) | split | (dsimp only))

theorem execCslCommand_keeps {pq : Kept} (core : Fin 16) (s : State) (hkp : Keeps pq s) : Ends (Keeps pq) (execCslCommand core s) := by
  unfold execCslCommand
  repeat' (first | (with_reducible assumption) | (with_reducible apply cslCommand_keeps) | (with_reducible apply ends_next) | (intro _) | split | (dsimp only))

theorem swapEffect_keeps {pq : Kept} (t : Nat) (s : State) (hkp : Keeps pq s) : Keeps pq (swapEffect t s) := by
  unfold swapEffect
  repeat' (first | (with_reducible assumption) | (with_reducible apply State.setFlag_keeps) | (with_reducible apply State.setFld_keeps) | (with_reducible apply State.setTile_keeps) | (with_reducible apply chanAdvance_keeps) | (with_reducible apply postRows_keeps) | (with_reducible apply keeps_ite) | (with_reducible refine keeps_foldl ?_ _ ?_) | (intro _) | split | (dsimp only))

theorem execSwapEffect_keeps {pq : Kept} (tile : Fin 32) (s : State) (hkp : Keeps pq s) : Ends (Keeps pq) (execSwapEffect tile s) := by
  unfold execSwapEffect
  repeat' (first | (with_reducible assumption) | (with_reducible apply swapEffect_keeps) | (with_reducible apply ends_next) | (intro _) | split | (dsimp only))

end Sys2Proof.Machine
end

