-- ==== Sys2Proof/Laws/KeepCloister.lean ====
section
/-! SUPPORT. What the operations of Machine/Cloister.lean keep. -/

namespace Sys2Proof.Machine

theorem coreFault_keeps {pq : Kept} (c code : Nat) (s : State) (hkp : Keeps pq s) : Keeps pq (coreFault c code s) := by
  unfold coreFault
  repeat' (first | (with_reducible assumption) | (with_reducible apply State.setFld_keeps) | (with_reducible apply event_keeps) | (with_reducible apply failTask_keeps) | (with_reducible apply setCoreState_keeps) | (with_reducible apply keeps_ite) | (intro _) | split | (dsimp only))

theorem issueAt_keeps {pq : Kept} (c : Nat) (s : State) (hkp : Keeps pq s) : Keeps pq (issueAt c s) := by
  unfold issueAt
  repeat' (first | (with_reducible assumption) | (with_reducible apply State.addWrap_keeps) | (with_reducible apply State.setCore_keeps) | (with_reducible apply State.setFlag_keeps) | (with_reducible apply State.setFld_keeps) | (with_reducible apply coreEnded_keeps) | (with_reducible apply coreFault_keeps) | (with_reducible apply cslObserve_keeps) | (with_reducible apply markStartedOpt_keeps) | (with_reducible apply setCoreState_keeps) | (with_reducible apply keeps_ite) | (with_reducible refine keeps_foldl ?_ _ ?_) | (intro _) | split | (dsimp only))

theorem bundleIssue_keeps {pq : Kept} (c opnd ext : Nat) (s : State) (hkp : Keeps pq s) : Keeps pq (bundleIssue c opnd ext s) := by
  unfold bundleIssue
  repeat' (first | (with_reducible assumption) | (with_reducible apply State.addWrap_keeps) | (with_reducible apply issueAt_keeps) | (with_reducible apply keeps_ite) | (intro _) | split | (dsimp only))

theorem execBundleIssue_keeps {pq : Kept} (core : Fin 16) (stallOpnd stallExt : BitVec 8) (s : State) (hkp : Keeps pq s) : Ends (Keeps pq) (execBundleIssue core stallOpnd stallExt s) := by
  unfold execBundleIssue
  repeat' (first | (with_reducible assumption) | (with_reducible apply bundleIssue_keeps) | (with_reducible apply ends_next) | (intro _) | split | (dsimp only))

theorem waitevWake_keeps {pq : Kept} (c : Nat) (s : State) (hkp : Keeps pq s) : Keeps pq (waitevWake c s) := by
  unfold waitevWake
  repeat' (first | (with_reducible assumption) | (with_reducible apply issueAt_keeps) | (with_reducible apply keeps_ite) | (intro _) | split | (dsimp only))

theorem execWaitevWake_keeps {pq : Kept} (core : Fin 16) (s : State) (hkp : Keeps pq s) : Ends (Keeps pq) (execWaitevWake core s) := by
  unfold execWaitevWake
  repeat' (first | (with_reducible assumption) | (with_reducible apply waitevWake_keeps) | (with_reducible apply ends_next) | (intro _) | split | (dsimp only))

theorem interruptEntry_keeps {pq : Kept} (c : Nat) (s : State) (hkp : Keeps pq s) : Keeps pq (interruptEntry c s) := by
  unfold interruptEntry
  repeat' (first | (with_reducible assumption) | (with_reducible apply State.setCore_keeps) | (with_reducible apply keeps_ite) | (intro _) | split | (dsimp only))

theorem execInterruptEntry_keeps {pq : Kept} (core : Fin 16) (s : State) (hkp : Keeps pq s) : Ends (Keeps pq) (execInterruptEntry core s) := by
  unfold execInterruptEntry
  repeat' (first | (with_reducible assumption) | (with_reducible apply interruptEntry_keeps) | (with_reducible apply ends_next) | (intro _) | split | (dsimp only))

theorem evpEvent_keeps {pq : Kept} (c ev : Nat) (s : State) (hkp : Keeps pq s) : Keeps pq (evpEvent c ev s) := by
  unfold evpEvent
  repeat' (first | (with_reducible assumption) | (with_reducible apply setEvp_keeps) | (with_reducible apply keeps_ite) | (intro _) | split | (dsimp only))

theorem execEvpEvent_keeps {pq : Kept} (core : Fin 16) (ev : Fin 19) (s : State) (hkp : Keeps pq s) : Ends (Keeps pq) (execEvpEvent core ev s) := by
  unfold execEvpEvent
  repeat' (first | (with_reducible assumption) | (with_reducible apply evpEvent_keeps) | (with_reducible apply ends_next) | (intro _) | split | (dsimp only))

theorem externalDmem_keeps {pq : Kept} (c ch : Nat) (write : Bool) (addr : Nat) (data : List Byte) (waited : Nat) (s : State) (hkp : Keeps pq s) : Keeps pq (externalDmem c ch write addr data waited s) := by
  unfold externalDmem
  repeat' (first | (with_reducible assumption) | (with_reducible apply State.addWrap_keeps) | (with_reducible apply State.setCore_keeps) | (with_reducible apply chanEnd_keeps) | (with_reducible apply keeps_ite) | (intro _) | split | (dsimp only))

theorem execExternalDmemAccess_keeps {pq : Kept} (core : Fin 16) (chan : Fin 192) (write : Bool) (addr : BitVec 19) (data : List Byte) (waited : BitVec 4) (s : State) (hkp : Keeps pq s) : Ends (Keeps pq) (execExternalDmemAccess core chan write addr data waited s) := by
  unfold execExternalDmemAccess
  repeat' (first | (with_reducible assumption) | (with_reducible apply externalDmem_keeps) | (with_reducible apply ends_next) | (intro _) | split | (dsimp only))

theorem coreStop_keeps {pq : Kept} (c : Nat) (s : State) (hkp : Keeps pq s) : Keeps pq (coreStop c s) := by
  unfold coreStop
  repeat' (first | (with_reducible assumption) | (with_reducible apply State.setCore_keeps) | (with_reducible apply failTask_keeps) | (with_reducible apply setCoreState_keeps) | (with_reducible apply keeps_ite) | (intro _) | split | (dsimp only))

theorem execCoreStop_keeps {pq : Kept} (core : Fin 16) (s : State) (hkp : Keeps pq s) : Ends (Keeps pq) (execCoreStop core s) := by
  unfold execCoreStop
  repeat' (first | (with_reducible assumption) | (with_reducible apply coreStop_keeps) | (with_reducible apply ends_next) | (intro _) | split | (dsimp only))

theorem coreClear_keeps {pq : Kept} (c : Nat) (s : State) (hkp : Keeps pq s) : Keeps pq (coreClear c s) := by
  unfold coreClear
  repeat' (first | (with_reducible assumption) | (with_reducible apply State.setFlag_keeps) | (with_reducible apply setCoreState_keeps) | (with_reducible apply keeps_ite) | (intro _) | split | (dsimp only))

theorem coreEnBit_keeps {pq : Kept} (c : Nat) (en : Bool) (s : State) (hkp : Keeps pq s) : Keeps pq (coreEnBit c en s) := by
  unfold coreEnBit
  repeat' (first | (with_reducible assumption) | (with_reducible apply State.setCore_keeps) | (with_reducible apply setCoreState_keeps) | (with_reducible apply keeps_ite) | (intro _) | split | (dsimp only))

theorem coreHaltBit_keeps {pq : Kept} (c : Nat) (s : State) (hkp : Keeps pq s) : Keeps pq (coreHaltBit c s) := by
  unfold coreHaltBit
  repeat' (first | (with_reducible assumption) | (with_reducible apply State.setCore_keeps) | (with_reducible apply keeps_ite) | (intro _) | split | (dsimp only))

theorem coreStepOne_keeps {pq : Kept} (c : Nat) (s : State) (hkp : Keeps pq s) : Keeps pq (coreStepOne c s) := by
  unfold coreStepOne
  repeat' (first | (with_reducible assumption) | (with_reducible apply issueAt_keeps) | (with_reducible apply keeps_ite) | (intro _) | split | (dsimp only))

theorem writeCloCtl_keeps {pq : Kept} (a : Agent) (c : Nat) (v : Word) (s : State) (hkp : Keeps pq s) : Keeps pq (writeCloCtl a c v s) := by
  unfold writeCloCtl
  repeat' (first | (with_reducible assumption) | (with_reducible apply coreClear_keeps) | (with_reducible apply coreEnBit_keeps) | (with_reducible apply coreHaltBit_keeps) | (with_reducible apply coreStepOne_keeps) | (with_reducible apply setCoreState_keeps) | (with_reducible apply storeReg_keeps) | (with_reducible apply keeps_ite) | (intro _) | split | (dsimp only))

theorem execCoreEnable_keeps {pq : Kept} (a : Agent) (core : Fin 16) (v : Word) (s : State) (hkp : Keeps pq s) : Ends (Keeps pq) (execCoreEnable a core v s) := by
  unfold execCoreEnable
  repeat' (first | (with_reducible assumption) | (with_reducible apply writeCloCtl_keeps) | (with_reducible apply ends_next) | (intro _) | split | (dsimp only))

theorem execCoreDisable_keeps {pq : Kept} (a : Agent) (core : Fin 16) (v : Word) (s : State) (hkp : Keeps pq s) : Ends (Keeps pq) (execCoreDisable a core v s) := by
  unfold execCoreDisable
  repeat' (first | (with_reducible assumption) | (with_reducible apply writeCloCtl_keeps) | (with_reducible apply ends_next) | (intro _) | split | (dsimp only))

theorem execCoreHalt_keeps {pq : Kept} (a : Agent) (core : Fin 16) (v : Word) (s : State) (hkp : Keeps pq s) : Ends (Keeps pq) (execCoreHalt a core v s) := by
  unfold execCoreHalt
  repeat' (first | (with_reducible assumption) | (with_reducible apply writeCloCtl_keeps) | (with_reducible apply ends_next) | (intro _) | split | (dsimp only))

theorem execCoreStep_keeps {pq : Kept} (a : Agent) (core : Fin 16) (v : Word) (s : State) (hkp : Keeps pq s) : Ends (Keeps pq) (execCoreStep a core v s) := by
  unfold execCoreStep
  repeat' (first | (with_reducible assumption) | (with_reducible apply writeCloCtl_keeps) | (with_reducible apply ends_next) | (intro _) | split | (dsimp only))

theorem execCoreResume_keeps {pq : Kept} (a : Agent) (core : Fin 16) (v : Word) (s : State) (hkp : Keeps pq s) : Ends (Keeps pq) (execCoreResume a core v s) := by
  unfold execCoreResume
  repeat' (first | (with_reducible assumption) | (with_reducible apply writeCloCtl_keeps) | (with_reducible apply ends_next) | (intro _) | split | (dsimp only))

theorem execCloClr_keeps {pq : Kept} (a : Agent) (core : Fin 16) (v : Word) (s : State) (hkp : Keeps pq s) : Ends (Keeps pq) (execCloClr a core v s) := by
  unfold execCloClr
  repeat' (first | (with_reducible assumption) | (with_reducible apply writeCloCtl_keeps) | (with_reducible apply ends_next) | (intro _) | split | (dsimp only))

theorem imemIndirect_keeps {pq : Kept} (a : Agent) (c : Nat) (w : Option Word) (s : State) (hkp : Keeps pq s) : Keeps pq (imemIndirect a c w s) := by
  unfold imemIndirect
  repeat' (first | (with_reducible assumption) | (with_reducible apply State.addWrap_keeps) | (with_reducible apply State.setCore_keeps) | (with_reducible apply State.setFlag_keeps) | (with_reducible apply storeReg_keeps) | (with_reducible apply keeps_ite) | (intro _) | split | (dsimp only))

theorem execImemIndirectAccess_keeps {pq : Kept} (a : Agent) (core : Fin 16) (write : Option Word) (s : State) (hkp : Keeps pq s) : Ends (Keeps pq) (execImemIndirectAccess a core write s) := by
  unfold execImemIndirectAccess
  repeat' (first | (with_reducible assumption) | (with_reducible apply imemIndirect_keeps) | (with_reducible apply ends_next) | (intro _) | split | (dsimp only))

theorem dmemIndirect_keeps {pq : Kept} (a : Agent) (c : Nat) (w : Option Word) (s : State) (hkp : Keeps pq s) : Keeps pq (dmemIndirect a c w s) := by
  unfold dmemIndirect
  repeat' (first | (with_reducible assumption) | (with_reducible apply State.addWrap_keeps) | (with_reducible apply State.setCore_keeps) | (with_reducible apply State.setFlag_keeps) | (with_reducible apply storeReg_keeps) | (with_reducible apply keeps_ite) | (intro _) | split | (dsimp only))

theorem execDmemIndirectAccess_keeps {pq : Kept} (a : Agent) (core : Fin 16) (write : Option Word) (s : State) (hkp : Keeps pq s) : Ends (Keeps pq) (execDmemIndirectAccess a core write s) := by
  unfold execDmemIndirectAccess
  repeat' (first | (with_reducible assumption) | (with_reducible apply dmemIndirect_keeps) | (with_reducible apply ends_next) | (intro _) | split | (dsimp only))

theorem coreSig_keeps {pq : Kept} (a : Agent) (v : Word) (s : State) (hkp : Keeps pq s) : Keeps pq (coreSig a v s) := by
  unfold coreSig
  repeat' (first | (with_reducible assumption) | (with_reducible apply setEvp_keeps) | (with_reducible apply storeReg_keeps) | (with_reducible apply keeps_ite) | (with_reducible refine keeps_foldl ?_ _ ?_) | (intro _) | split | (dsimp only))

theorem execChmCoreSig_keeps {pq : Kept} (a : Agent) (v : Word) (s : State) (hkp : Keeps pq s) : Ends (Keeps pq) (execChmCoreSig a v s) := by
  unfold execChmCoreSig
  repeat' (first | (with_reducible assumption) | (with_reducible apply coreSig_keeps) | (with_reducible apply ends_next) | (intro _) | split | (dsimp only))

end Sys2Proof.Machine
end

