-- ==== Sys2Proof/Laws/KeepSeq.lean ====
section
/-! SUPPORT. What the operations of Machine/Seq.lean keep. -/

namespace Sys2Proof.Machine

theorem writeGroup_keeps {pq : Kept} (a : Agent) (g : Nat) (v : Word) (s : State) (hkp : Keeps pq s) : Keeps pq (writeGroup a g v s) := by
  unfold writeGroup
  repeat' (first | (with_reducible assumption) | (with_reducible apply State.setFlag_keeps) | (with_reducible apply storeReg_keeps) | (with_reducible apply keeps_ite) | (intro _) | split | (dsimp only))

theorem execSeqGroupConfig_keeps {pq : Kept} (a : Agent) (g : Fin 64) (v : Word) (s : State) (hkp : Keeps pq s) : Ends (Keeps pq) (execSeqGroupConfig a g v s) := by
  unfold execSeqGroupConfig
  repeat' (first | (with_reducible assumption) | (with_reducible apply writeGroup_keeps) | (with_reducible apply ends_next) | (intro _) | split | (dsimp only))

theorem seqRead_keeps {pq : Kept} (i : Nat) (s : State) (hkp : Keeps pq s) : Keeps pq (seqRead i s).1 := by
  unfold seqRead
  repeat' (first | (with_reducible assumption) | (with_reducible apply vaRead_keeps) | (intro _) | split | (with_reducible refine keeps_fst (by assumption) ?_) | (with_reducible refine keeps_fst3 (by assumption) ?_) | (dsimp only))

theorem seqWrite_keeps {pq : Kept} (i a n v : Nat) (s : State) (hkp : Keeps pq s) : Keeps pq (seqWrite i a n v s).1 := by
  unfold seqWrite
  repeat' (first | (with_reducible assumption) | (with_reducible apply vaWrite_keeps) | (intro _) | split | (with_reducible refine keeps_fst (by assumption) ?_) | (with_reducible refine keeps_fst3 (by assumption) ?_) | (dsimp only))

theorem seqPut_keeps {pq : Kept} (i a n v : Nat) (s : State) (hkp : Keeps pq s) : Keeps pq (seqPut i a n v s) := by
  unfold seqPut
  repeat' (first | (with_reducible assumption) | (with_reducible apply noteErr_keeps) | (with_reducible apply seqWrite_keeps) | (intro _) | split | (with_reducible refine keeps_fst (by assumption) ?_) | (with_reducible refine keeps_fst3 (by assumption) ?_) | (dsimp only))

theorem seqResult_keeps {pq : Kept} (page : Option Nat) (busy : Bool) (res : Nat) (s : State) (hkp : Keeps pq s) : Keeps pq (seqResult page busy res s) := by
  unfold seqResult
  repeat' (first | (with_reducible assumption) | (with_reducible apply State.setFlag_keeps) | (with_reducible apply State.setFld_keeps) | (intro _) | split | (dsimp only))

theorem seqOpenCmd_keeps {pq : Kept} (page : Option Nat) (i : Nat) (s : State) (hkp : Keeps pq s) : Keeps pq (seqOpenCmd page i s) := by
  unfold seqOpenCmd
  repeat' (first | (with_reducible assumption) | (with_reducible apply noteErr_keeps) | (with_reducible apply seqPut_keeps) | (with_reducible apply seqRead_keeps) | (with_reducible apply seqResult_keeps) | (with_reducible apply keeps_ite) | (intro _) | split | (with_reducible refine keeps_fst (by assumption) ?_) | (with_reducible refine keeps_fst3 (by assumption) ?_) | (dsimp only))

theorem seqCloseCmd_keeps {pq : Kept} (page : Option Nat) (i : Nat) (s : State) (hkp : Keeps pq s) : Keeps pq (seqCloseCmd page i s) := by
  unfold seqCloseCmd
  repeat' (first | (with_reducible assumption) | (with_reducible apply noteErr_keeps) | (with_reducible apply seqPut_keeps) | (with_reducible apply seqRead_keeps) | (with_reducible apply seqResult_keeps) | (with_reducible apply keeps_ite) | (intro _) | split | (with_reducible refine keeps_fst (by assumption) ?_) | (with_reducible refine keeps_fst3 (by assumption) ?_) | (dsimp only) | (with_reducible refine keeps_mk rfl rfl rfl rfl rfl ?_))

theorem writeSeqCmd_keeps {pq : Kept} (a : Agent) (page : Option Nat) (v : Word) (s : State) (hkp : Keeps pq s) : Keeps pq (writeSeqCmd a page v s) := by
  unfold writeSeqCmd
  repeat' (first | (with_reducible assumption) | (with_reducible apply State.setFlag_keeps) | (with_reducible apply seqCloseCmd_keeps) | (with_reducible apply seqOpenCmd_keeps) | (with_reducible apply seqResult_keeps) | (with_reducible apply storeReg_keeps) | (with_reducible apply keeps_ite) | (intro _) | split | (dsimp only))

theorem execSeqOpen_keeps {pq : Kept} (a : Agent) (page : Option (Fin 17)) (v : Word) (s : State) (hkp : Keeps pq s) : Ends (Keeps pq) (execSeqOpen a page v s) := by
  unfold execSeqOpen
  repeat' (first | (with_reducible assumption) | (with_reducible apply writeSeqCmd_keeps) | (with_reducible apply ends_next) | (intro _) | split | (dsimp only))

theorem execSeqClose_keeps {pq : Kept} (a : Agent) (page : Option (Fin 17)) (v : Word) (s : State) (hkp : Keeps pq s) : Ends (Keeps pq) (execSeqClose a page v s) := by
  unfold execSeqClose
  repeat' (first | (with_reducible assumption) | (with_reducible apply writeSeqCmd_keeps) | (with_reducible apply ends_next) | (intro _) | split | (dsimp only))

theorem execSeqBadOp_keeps {pq : Kept} (a : Agent) (page : Option (Fin 17)) (v : Word) (s : State) (hkp : Keeps pq s) : Ends (Keeps pq) (execSeqBadOp a page v s) := by
  unfold execSeqBadOp
  repeat' (first | (with_reducible assumption) | (with_reducible apply writeSeqCmd_keeps) | (with_reducible apply ends_next) | (intro _) | split | (dsimp only))

theorem seqCloseEnd_keeps {pq : Kept} (page : Option Nat) (s : State) (hkp : Keeps pq s) : Keeps pq (seqCloseEnd page s) := by
  unfold seqCloseEnd
  repeat' (first | (with_reducible assumption) | (with_reducible apply seqPut_keeps) | (with_reducible apply seqResult_keeps) | (with_reducible apply keeps_ite) | (intro _) | split | (dsimp only) | (with_reducible refine keeps_mk rfl rfl rfl rfl rfl ?_))

theorem execSeqCloseEnd_keeps {pq : Kept} (page : Option (Fin 17)) (s : State) (hkp : Keeps pq s) : Ends (Keeps pq) (execSeqCloseEnd page s) := by
  unfold execSeqCloseEnd
  repeat' (first | (with_reducible assumption) | (with_reducible apply seqCloseEnd_keeps) | (with_reducible apply ends_next) | (intro _) | split | (dsimp only))

theorem writeRecord_keeps {pq : Kept} (g : Group) (e : List Byte) (t l : Nat) (rec : List Byte) (s : State) (hkp : Keeps pq s) : Keeps pq (writeRecord g e t l rec s).1 := by
  unfold writeRecord
  repeat' (first | (with_reducible assumption) | (with_reducible apply physWrite_keeps) | (with_reducible apply vaRead_keeps) | (with_reducible apply vaWrite_keeps) | (with_reducible apply keeps_ite) | (intro _) | split | (with_reducible refine keeps_fst (by assumption) ?_) | (with_reducible refine keeps_fst3 (by assumption) ?_) | (dsimp only))

theorem writeLayer_keeps {pq : Kept} (g : Group) (e : List Byte) (n : Nat) :
    ∀ (t l : Nat) (bs : List Byte) (s : State), Keeps pq s → Keeps pq (writeLayer g e t l n bs s).1 := by
  induction n with
  | zero => intro t l bs s h; exact h
  | succ m ih =>
    intro t l bs s h
    unfold writeLayer
    split
    · exact keeps_fst (by assumption) (writeRecord_keeps _ _ _ _ _ _ h)
    · exact ih _ _ _ _ (keeps_fst (by assumption) (writeRecord_keeps _ _ _ _ _ _ h))

theorem writeLayers_keeps {pq : Kept} (g : Group) (e : List Byte) (t n : Nat) (bss : List (List Byte)) :
    ∀ (l : Nat) (s : State), Keeps pq s → Keeps pq (writeLayers g e t n l bss s).1 := by
  induction bss with
  | nil => intro l s h; exact h
  | cons b rest ih =>
    intro l s h
    unfold writeLayers
    split
    · exact keeps_fst (by assumption) (writeLayer_keeps _ _ _ _ _ _ _ h)
    · exact ih _ _ (keeps_fst (by assumption) (writeLayer_keeps _ _ _ _ _ _ _ h))

theorem appendTokens_keeps {pq : Kept} (i : Nat) (g : Group) (e : List Byte) (t n : Nat) (recs : List (List Byte)) (s : State) (hkp : Keeps pq s) : Keeps pq (appendTokens i g e t n recs s).1 := by
  unfold appendTokens
  repeat' (first | (with_reducible assumption) | (with_reducible apply State.addWrap_keeps) | (with_reducible apply noteErr_keeps) | (with_reducible apply seqWrite_keeps) | (with_reducible apply writeLayers_keeps) | (intro _) | split | (with_reducible refine keeps_fst (by assumption) ?_) | (with_reducible refine keeps_fst3 (by assumption) ?_) | (dsimp only))

theorem onItem_keeps {pq : Kept} (f q op : Nat) (s : State) (k : RItem → State → State) (h : Keeps pq s)
    (hk : ∀ it s, Keeps pq s → Keeps pq (k it s)) : Keeps pq (onItem f q op s k) := by
  unfold onItem
  split
  · exact h
  · split
    · exact hk _ _ (updItem_keeps _ _ _ h)
    · exact h

theorem failItem_keeps {pq : Kept} (it : RItem) (e : AccErr) (s : State) (hkp : Keeps pq s) : Keeps pq (failItem it e s) := by
  unfold failItem
  repeat' (first | (with_reducible assumption) | (with_reducible apply finish_keeps) | (with_reducible apply noteErr_keeps) | (with_reducible apply keeps_ite) | (intro _) | split | (dsimp only))

theorem stepSubmit_keeps {pq : Kept} (it : RItem) (s : State) (hkp : Keeps pq s) : Keeps pq (stepSubmit it s) := by
  unfold stepSubmit
  repeat' (first | (with_reducible assumption) | (with_reducible apply failItem_keeps) | (with_reducible apply finish_keeps) | (with_reducible apply updItem_keeps) | (with_reducible apply vaRead_keeps) | (with_reducible apply keeps_ite) | (intro _) | split | (with_reducible refine keeps_fst (by assumption) ?_) | (with_reducible refine keeps_fst3 (by assumption) ?_) | (dsimp only))

theorem execStep_keeps {pq : Kept} (f : Fin 17) (q : Fin 8) (s : State) (hkp : Keeps pq s) : Ends (Keeps pq) (execStep f q s) := by
  unfold execStep
  repeat' (first | (with_reducible assumption) | (with_reducible apply onItem_keeps) | (with_reducible apply stepSubmit_keeps) | (with_reducible apply ends_next) | (intro _) | split | (dsimp only))

theorem setRun_keeps {pq : Kept} (b : Nat) (r : Option StepRun) (s : State) (hkp : Keeps pq s) : Keeps pq (setRun b r s) := by
  unfold setRun
  repeat' (first | (with_reducible assumption) | (intro _) | split | (dsimp only) | (with_reducible refine keeps_mk rfl rfl rfl rfl rfl ?_))

theorem readEntries_keeps {pq : Kept} (l : List Nat) : ∀ (s : State), Keeps pq s → Keeps pq (readEntries l s).1 := by
  induction l with
  | nil => intro s h; exact h
  | cons i is ih =>
    intro s h
    have hr : Keeps pq (if i < tblSize s then seqRead i s else (s, .error { status := stRejected })).1 := by
      split
      · exact seqRead_keeps _ _ h
      · exact h
    unfold readEntries
    apply ih
    split
    · exact noteErr_keeps _ _ _ _ hr
    · exact hr

theorem noteAdmitted_keeps {pq : Kept} (b step : Nat) (append : Bool) (s : State) (e : StepEnt) (hkp : Keeps pq s) : Keeps pq (noteAdmitted b step append s e) := by
  unfold noteAdmitted
  repeat' (first | (with_reducible assumption) | (with_reducible apply seqPut_keeps) | (with_reducible apply keeps_ite) | (intro _) | split | (dsimp only))

theorem stepInputs_keeps {pq : Kept} (it : RItem) (blk : List Byte) (ents : List StepEnt) (s : State) (h : Keeps pq s) :
    Keeps pq (stepInputs it blk ents s).1 := by
  unfold stepInputs
  refine keeps_foldl_fst (fun r x hr => ?_) _ h
  split
  · exact hr
  · split
    · split
      · exact keeps_fst (by assumption) (vaRead_keeps _ _ _ _ hr)
      · exact keeps_fst (by assumption) (vaRead_keeps _ _ _ _ hr)
    · exact hr

theorem beginStep_keeps {pq : Kept} (b : Nat) (it : RItem) (blk : List Byte) (seqs : List Nat) (lens : List (Nat × Nat)) (s : State) (hkp : Keeps pq s) : Keeps pq (beginStep b it blk seqs lens s) := by
  unfold beginStep
  repeat' (first | (with_reducible assumption) | (with_reducible apply State.addWrap_keeps) | (with_reducible apply State.draw_keeps) | (with_reducible apply State.setFld_keeps) | (with_reducible apply State.setReg_keeps) | (with_reducible apply addOutcome_keeps) | (with_reducible apply noteAdmitted_keeps) | (with_reducible apply noteErr_keeps) | (with_reducible apply readEntries_keeps) | (with_reducible apply seqPut_keeps) | (with_reducible apply setRun_keeps) | (with_reducible apply stepInputs_keeps) | (with_reducible apply updItem_keeps) | (with_reducible apply keeps_ite) | (with_reducible refine keeps_foldl ?_ _ ?_) | (intro _) | split | (with_reducible refine keeps_fst (by assumption) ?_) | (with_reducible refine keeps_fst3 (by assumption) ?_) | (with_reducible refine keeps_snd (by assumption) ?_) | (dsimp only))

theorem stepBegin_keeps {pq : Kept} (b : Nat) (s : State) (hkp : Keeps pq s) : Keeps pq (stepBegin b s) := by
  unfold stepBegin
  repeat' (first | (with_reducible assumption) | (with_reducible apply beginStep_keeps) | (with_reducible apply failItem_keeps) | (with_reducible apply finish_keeps) | (with_reducible apply vaRead_keeps) | (with_reducible apply keeps_ite) | (intro _) | split | (with_reducible refine keeps_fst (by assumption) ?_) | (with_reducible refine keeps_fst3 (by assumption) ?_) | (dsimp only))

theorem execStepBegin_keeps {pq : Kept} (b : Fin 64) (s : State) (hkp : Keeps pq s) : Ends (Keeps pq) (execStepBegin b s) := by
  unfold execStepBegin
  repeat' (first | (with_reducible assumption) | (with_reducible apply stepBegin_keeps) | (with_reducible apply ends_next) | (intro _) | split | (dsimp only))

theorem endEntry_keeps {pq : Kept} (it : RItem) (blk : List Byte) (e : StepEnt) (o : EntryOut) (s : State) (hkp : Keeps pq s) : Keeps pq (endEntry it blk e o s).1 := by
  unfold endEntry
  repeat' (first | (with_reducible assumption) | (with_reducible apply appendTokens_keeps) | (with_reducible apply noteErr_keeps) | (with_reducible apply seqRead_keeps) | (with_reducible apply vaWrite_keeps) | (with_reducible apply keeps_ite) | (intro _) | split | (with_reducible refine keeps_fst (by assumption) ?_) | (with_reducible refine keeps_fst3 (by assumption) ?_) | (dsimp only))

theorem endEntries_keeps {pq : Kept} (it : RItem) (blk : List Byte) (es : List StepEnt) :
    ∀ (outs : List EntryOut) (s : State), Keeps pq s → Keeps pq (endEntries it blk es outs s).1 := by
  induction es with
  | nil => intro outs s h; exact h
  | cons e es ih => intro outs s h; unfold endEntries; exact ih _ _ (endEntry_keeps _ _ _ _ _ h)

theorem stepEnd_keeps {pq : Kept} (b : Nat) (outs : List EntryOut) (s : State) (hkp : Keeps pq s) : Keeps pq (stepEnd b outs s) := by
  unfold stepEnd
  repeat' (first | (with_reducible assumption) | (with_reducible apply endEntries_keeps) | (with_reducible apply failItem_keeps) | (with_reducible apply formItem_keeps) | (with_reducible apply setRun_keeps) | (with_reducible apply updItem_keeps) | (with_reducible apply vaWrite_keeps) | (with_reducible apply keeps_ite) | (with_reducible refine keeps_foldl ?_ _ ?_) | (intro _) | split | (with_reducible refine keeps_fst (by assumption) ?_) | (with_reducible refine keeps_fst3 (by assumption) ?_) | (dsimp only))

theorem execStepEnd_keeps {pq : Kept} (b : Fin 64) (outs : List EntryOut) (s : State) (hkp : Keeps pq s) : Ends (Keeps pq) (execStepEnd b outs s) := by
  unfold execStepEnd
  repeat' (first | (with_reducible assumption) | (with_reducible apply stepEnd_keeps) | (with_reducible apply ends_next) | (intro _) | split | (dsimp only))

theorem stopStep_keeps {pq : Kept} (it : RItem) (s : State) (hkp : Keeps pq s) : Keeps pq (stopStep it s) := by
  unfold stopStep
  repeat' (first | (with_reducible assumption) | (with_reducible apply deviceWrite_keeps) | (with_reducible apply setRun_keeps) | (with_reducible apply keeps_ite) | (intro _) | split | (dsimp only))

end Sys2Proof.Machine
end

