-- ==== Sys2Proof/Laws/KeepFreewheel.lean ====
section
/-! SUPPORT. What the operations of Machine/Freewheel.lean keep. -/

namespace Sys2Proof.Machine

theorem planArm_keeps {pq : Kept} (a : Agent) (c : Nat) (v : Word) (s : State) (hkp : Keeps pq s) : Keeps pq (planArm a c v s) := by
  unfold planArm
  repeat' (first | (with_reducible assumption) | (with_reducible apply State.setCell_keeps) | (with_reducible apply storeReg_keeps) | (with_reducible apply keeps_ite) | (intro _) | split | (dsimp only))

theorem execPlanArm_keeps {pq : Kept} (a : Agent) (cell : Fin 16) (v : Word) (s : State) (hkp : Keeps pq s) : Ends (Keeps pq) (execPlanArm a cell v s) := by
  unfold execPlanArm
  repeat' (first | (with_reducible assumption) | (with_reducible apply planArm_keeps) | (with_reducible apply ends_next) | (intro _) | split | (dsimp only))

theorem readPlan_keeps {pq : Kept} (c addr : Nat) (s : State) (hkp : Keeps pq s) : Keeps pq (readPlan c addr s).1 := by
  unfold readPlan
  repeat' (first | (with_reducible assumption) | (with_reducible apply noteErr_keeps) | (with_reducible apply vaRead_keeps) | (with_reducible apply keeps_ite) | (intro _) | split | (with_reducible refine keeps_fst (by assumption) ?_) | (with_reducible refine keeps_fst3 (by assumption) ?_) | (dsimp only))

theorem armCores_keeps {pq : Kept} (e : List Byte) (s : State) (hkp : Keeps pq s) : Keeps pq (armCores e s) := by
  unfold armCores
  repeat' (first | (with_reducible assumption) | (with_reducible apply State.setFld_keeps) | (with_reducible apply keeps_ite) | (with_reducible refine keeps_foldl ?_ _ ?_) | (intro _) | split | (dsimp only))

theorem planValidationEnd_keeps {pq : Kept} (c : Nat) (roleB : Bool) (s : State) (hkp : Keeps pq s) : Keeps pq (planValidationEnd c roleB s) := by
  unfold planValidationEnd
  repeat' (first | (with_reducible assumption) | (with_reducible apply State.setCell_keeps) | (with_reducible apply State.setFlag_keeps) | (with_reducible apply armCores_keeps) | (with_reducible apply readPlan_keeps) | (with_reducible apply keeps_ite) | (with_reducible refine keeps_foldl ?_ _ ?_) | (intro _) | split | (with_reducible refine keeps_fst (by assumption) ?_) | (with_reducible refine keeps_fst3 (by assumption) ?_) | (dsimp only))

theorem execPlanValidationEnd_keeps {pq : Kept} (cell : Fin 16) (imagesUseRoleB : Bool) (s : State) (hkp : Keeps pq s) : Ends (Keeps pq) (execPlanValidationEnd cell imagesUseRoleB s) := by
  unfold execPlanValidationEnd
  repeat' (first | (with_reducible assumption) | (with_reducible apply planValidationEnd_keeps) | (with_reducible apply ends_next) | (intro _) | split | (dsimp only))

theorem takeBlocks_keeps {pq : Kept} (n : Nat) (s : State) (hkp : Keeps pq s) : Keeps pq (takeBlocks n s) := by
  unfold takeBlocks
  repeat' (first | (with_reducible assumption) | (with_reducible apply State.setFld_keeps) | (intro _) | split | (dsimp only))

theorem countNospec_keeps {pq : Kept} (c : Nat) (s : State) (hkp : Keeps pq s) : Keeps pq (countNospec c s) := by
  unfold countNospec
  repeat' (first | (with_reducible assumption) | (with_reducible apply State.addWrap_keeps) | (intro _) | split | (dsimp only))

theorem predFault_keeps {pq : Kept} (c idx : Nat) (s : State) (hkp : Keeps pq s) : Keeps pq (predFault c idx s) := by
  unfold predFault
  repeat' (first | (with_reducible assumption) | (with_reducible apply State.setFlag_keeps) | (with_reducible apply event_keeps) | (intro _) | split | (dsimp only))

theorem seqUse_keeps {pq : Kept} (i : Nat) (s : State) (hkp : Keeps pq s) : Keeps pq (seqUse i s).1 := by
  unfold seqUse
  repeat' (first | (with_reducible assumption) | (with_reducible apply State.addWrap_keeps) | (with_reducible apply noteErr_keeps) | (with_reducible apply seqRead_keeps) | (with_reducible apply keeps_ite) | (intro _) | split | (with_reducible refine keeps_fst (by assumption) ?_) | (with_reducible refine keeps_fst3 (by assumption) ?_) | (dsimp only))

theorem pushItem_keeps {pq : Kept} (c epoch : Nat) (it : FwItem) (s : State) (hkp : Keeps pq s) : Keeps pq (pushItem c epoch it s) := by
  unfold pushItem
  repeat' (first | (with_reducible assumption) | (with_reducible apply updSlot_keeps) | (intro _) | split | (dsimp only))

theorem admitItem_keeps {pq : Kept} (c epoch idx : Nat) (ent : List Byte) (record : Option (List Byte × Nat)) (s : State) (hkp : Keeps pq s) : Keeps pq (admitItem c epoch idx ent record s) := by
  unfold admitItem
  repeat' (first | (with_reducible assumption) | (with_reducible apply State.setFlag_keeps) | (with_reducible apply countNospec_keeps) | (with_reducible apply predFault_keeps) | (with_reducible apply pushItem_keeps) | (with_reducible apply seqUse_keeps) | (with_reducible apply takeBlocks_keeps) | (with_reducible apply keeps_ite) | (intro _) | split | (with_reducible refine keeps_fst (by assumption) ?_) | (with_reducible refine keeps_fst3 (by assumption) ?_) | (dsimp only))

theorem readRecord_keeps {pq : Kept} (s : State) (ent : List Byte) (i : Nat) (hkp : Keeps pq s) : Keeps pq (readRecord s ent i).1 := by
  unfold readRecord
  repeat' (first | (with_reducible assumption) | (with_reducible apply vaRead_keeps) | (with_reducible apply keeps_ite) | (intro _) | split | (with_reducible refine keeps_fst (by assumption) ?_) | (with_reducible refine keeps_fst3 (by assumption) ?_) | (dsimp only))

theorem endAtStrobe_keeps {pq : Kept} (c epoch idx : Nat) (ent : List Byte) (status detail : Nat) (s : State) (hkp : Keeps pq s) : Keeps pq (endAtStrobe c epoch idx ent status detail s) := by
  unfold endAtStrobe
  repeat' (first | (with_reducible assumption) | (with_reducible apply finishSlot_keeps) | (with_reducible apply pushItem_keeps) | (intro _) | split | (dsimp only))

theorem readItem_keeps {pq : Kept} (c epoch : Nat) (replay : Bool) (idx : Nat) (ent : List Byte) (s : State) (hkp : Keeps pq s) : Keeps pq (readItem c epoch replay idx ent s) := by
  unfold readItem
  repeat' (first | (with_reducible assumption) | (with_reducible apply State.setFlag_keeps) | (with_reducible apply admitItem_keeps) | (with_reducible apply endAtStrobe_keeps) | (with_reducible apply noteErr_keeps) | (with_reducible apply readRecord_keeps) | (with_reducible apply keeps_ite) | (intro _) | split | (with_reducible refine keeps_fst (by assumption) ?_) | (with_reducible refine keeps_fst3 (by assumption) ?_) | (dsimp only))

theorem dropFw_keeps {pq : Kept} (c epoch idx : Nat) (s : State) (hkp : Keeps pq s) : Keeps pq (dropFw c epoch idx s) := by
  unfold dropFw
  repeat' (first | (with_reducible assumption) | (with_reducible apply State.addWrap_keeps) | (with_reducible apply finishSlot_keeps) | (intro _) | split | (dsimp only))

theorem expireSlot_keeps {pq : Kept} (c : Nat) (y : FwSlot) (s : State) (hkp : Keeps pq s) : Keeps pq (expireSlot c y s) := by
  unfold expireSlot
  repeat' (first | (with_reducible assumption) | (with_reducible apply dropFw_keeps) | (with_reducible apply updSlot_keeps) | (with_reducible apply slotMiss_keeps) | (with_reducible refine keeps_foldl ?_ _ ?_) | (intro _) | split | (dsimp only))

theorem expireSlots_keeps {pq : Kept} (c count : Nat) (s : State) (hkp : Keeps pq s) : Keeps pq (expireSlots c count s) := by
  unfold expireSlots
  repeat' (first | (with_reducible assumption) | (with_reducible apply dropSlots_keeps) | (with_reducible apply expireSlot_keeps) | (with_reducible refine keeps_foldl ?_ _ ?_) | (intro _) | split | (dsimp only))

theorem takePlan_keeps {pq : Kept} (c : Nat) (s : State) (hkp : Keeps pq s) : Keeps pq (takePlan c s) := by
  unfold takePlan
  repeat' (first | (with_reducible assumption) | (with_reducible apply State.setCell_keeps) | (with_reducible apply State.setPair_keeps) | (intro _) | split | (dsimp only))

theorem openSlot_keeps {pq : Kept} (c count : Nat) (s : State) (hkp : Keeps pq s) : Keeps pq (openSlot c count s) := by
  unfold openSlot
  repeat' (first | (with_reducible assumption) | (with_reducible apply State.setCell_keeps) | (with_reducible apply State.setFlag_keeps) | (with_reducible apply State.setFld_keeps) | (with_reducible apply noteErr_keeps) | (with_reducible apply readItem_keeps) | (with_reducible apply readPlan_keeps) | (with_reducible apply vaRead_keeps) | (with_reducible refine keeps_foldl ?_ _ ?_) | (intro _) | split | (with_reducible refine keeps_fst (by assumption) ?_) | (with_reducible refine keeps_fst3 (by assumption) ?_) | (dsimp only))

theorem endReplay_keeps {pq : Kept} (c : Nat) (s : State) (hkp : Keeps pq s) : Keeps pq (endReplay c s) := by
  unfold endReplay
  repeat' (first | (with_reducible assumption) | (with_reducible apply State.setFlag_keeps) | (with_reducible apply keeps_ite) | (intro _) | split | (dsimp only))

theorem fwlStrobe_keeps {pq : Kept} (c : Nat) (s : State) (hkp : Keeps pq s) : Keeps pq (fwlStrobe c s) := by
  unfold fwlStrobe
  repeat' (first | (with_reducible assumption) | (with_reducible apply State.setCell_keeps) | (with_reducible apply endReplay_keeps) | (with_reducible apply expireSlots_keeps) | (with_reducible apply openSlot_keeps) | (with_reducible apply takePlan_keeps) | (with_reducible apply keeps_ite) | (intro _) | split | (dsimp only))

theorem execFwlSlotStrobe_keeps {pq : Kept} (cell : Fin 16) (s : State) (hkp : Keeps pq s) : Ends (Keeps pq) (execFwlSlotStrobe cell s) := by
  unfold execFwlSlotStrobe
  repeat' (first | (with_reducible assumption) | (with_reducible apply fwlStrobe_keeps) | (with_reducible apply ends_next) | (intro _) | split | (dsimp only))

theorem settleItem_keeps {pq : Kept} (c epoch : Nat) (it : FwItem) (p m : List GridEl) (s : State) (hkp : Keeps pq s) : Keeps pq (settleItem c epoch it p m s) := by
  unfold settleItem
  repeat' (first | (with_reducible assumption) | (with_reducible apply State.addWrap_keeps) | (with_reducible apply freeBlocks_keeps) | (with_reducible apply updFw_keeps) | (with_reducible apply keeps_ite) | (intro _) | split | (dsimp only))

theorem predictionLanded_keeps {pq : Kept} (c epoch idx : Nat) (grid : List GridEl) (s : State) (hkp : Keeps pq s) : Keeps pq (predictionLanded c epoch idx grid s) := by
  unfold predictionLanded
  repeat' (first | (with_reducible assumption) | (with_reducible apply settleItem_keeps) | (with_reducible apply updFw_keeps) | (with_reducible apply keeps_ite) | (intro _) | split | (dsimp only))

theorem execPredictionLanded_keeps {pq : Kept} (cell : Fin 16) (epoch : BitVec 16) (idx : Fin 1024) (grid : List GridEl) (s : State) (hkp : Keeps pq s) : Ends (Keeps pq) (execPredictionLanded cell epoch idx grid s) := by
  unfold execPredictionLanded
  repeat' (first | (with_reducible assumption) | (with_reducible apply predictionLanded_keeps) | (with_reducible apply ends_next) | (intro _) | split | (dsimp only))

theorem giveUp_keeps {pq : Kept} (c epoch : Nat) (it : FwItem) (s : State) (hkp : Keeps pq s) : Keeps pq (giveUp c epoch it s) := by
  unfold giveUp
  repeat' (first | (with_reducible assumption) | (with_reducible apply countNospec_keeps) | (with_reducible apply freeBlocks_keeps) | (with_reducible apply updFw_keeps) | (with_reducible apply keeps_ite) | (intro _) | split | (dsimp only))

theorem predictionFault_keeps {pq : Kept} (c epoch idx : Nat) (s : State) (hkp : Keeps pq s) : Keeps pq (predictionFault c epoch idx s) := by
  unfold predictionFault
  repeat' (first | (with_reducible assumption) | (with_reducible apply giveUp_keeps) | (with_reducible apply predFault_keeps) | (with_reducible apply keeps_ite) | (intro _) | split | (dsimp only))

theorem execPredictionFault_keeps {pq : Kept} (cell : Fin 16) (epoch : BitVec 16) (idx : Fin 1024) (s : State) (hkp : Keeps pq s) : Ends (Keeps pq) (execPredictionFault cell epoch idx s) := by
  unfold execPredictionFault
  repeat' (first | (with_reducible assumption) | (with_reducible apply predictionFault_keeps) | (with_reducible apply ends_next) | (intro _) | split | (dsimp only))

theorem estimateReady_keeps {pq : Kept} (c epoch idx : Nat) (grid : List GridEl) (s : State) (hkp : Keeps pq s) : Keeps pq (estimateReady c epoch idx grid s) := by
  unfold estimateReady
  repeat' (first | (with_reducible assumption) | (with_reducible apply giveUp_keeps) | (with_reducible apply settleItem_keeps) | (with_reducible apply updFw_keeps) | (with_reducible apply keeps_ite) | (intro _) | split | (dsimp only))

theorem execEstimateReady_keeps {pq : Kept} (cell : Fin 16) (epoch : BitVec 16) (idx : Fin 1024) (grid : List GridEl) (s : State) (hkp : Keeps pq s) : Ends (Keeps pq) (execEstimateReady cell epoch idx grid s) := by
  unfold execEstimateReady
  repeat' (first | (with_reducible assumption) | (with_reducible apply estimateReady_keeps) | (with_reducible apply ends_next) | (intro _) | split | (dsimp only))

theorem itemFinal_keeps {pq : Kept} (c epoch idx : Nat) (out soft elements : List Byte) (s : State) (hkp : Keeps pq s) : Keeps pq (itemFinal c epoch idx out soft elements s) := by
  unfold itemFinal
  repeat' (first | (with_reducible assumption) | (with_reducible apply dropSlots_keeps) | (with_reducible apply formSlot_keeps) | (with_reducible apply keeps_ite) | (intro _) | split | (dsimp only))

theorem execItemFinal_keeps {pq : Kept} (cell : Fin 16) (epoch : BitVec 16) (idx : Fin 1024) (out soft elements : List Byte) (s : State) (hkp : Keeps pq s) : Ends (Keeps pq) (execItemFinal cell epoch idx out soft elements s) := by
  unfold execItemFinal
  repeat' (first | (with_reducible assumption) | (with_reducible apply itemFinal_keeps) | (with_reducible apply ends_next) | (intro _) | split | (dsimp only))

theorem countLate_keeps {pq : Kept} (c : Nat) (s : State) (hkp : Keeps pq s) : Keeps pq (countLate c s) := by
  unfold countLate
  repeat' (first | (with_reducible assumption) | (with_reducible apply State.addWrap_keeps) | (intro _) | split | (dsimp only))

theorem deadlineItem_keeps {pq : Kept} (c epoch : Nat) (it : FwItem) (s : State) (hkp : Keeps pq s) : Keeps pq (deadlineItem c epoch it s) := by
  unfold deadlineItem
  repeat' (first | (with_reducible assumption) | (with_reducible apply countLate_keeps) | (with_reducible apply dropFw_keeps) | (with_reducible apply updFw_keeps) | (with_reducible apply keeps_ite) | (intro _) | split | (dsimp only))

theorem deadlineWaiting_keeps {pq : Kept} (c epoch : Nat) (s : State) (hkp : Keeps pq s) : Keeps pq (deadlineWaiting c epoch s) := by
  unfold deadlineWaiting
  repeat' (first | (with_reducible assumption) | (with_reducible apply State.addWrap_keeps) | (with_reducible apply setFormed_keeps) | (with_reducible apply updSlot_keeps) | (with_reducible apply keeps_ite) | (intro _) | split | (dsimp only))

theorem deadlineEvent_keeps {pq : Kept} (c : Nat) (s : State) (hkp : Keeps pq s) : Keeps pq (deadlineEvent c s) := by
  unfold deadlineEvent
  repeat' (first | (with_reducible assumption) | (with_reducible apply deadlineItem_keeps) | (with_reducible apply deadlineWaiting_keeps) | (with_reducible apply dropSlots_keeps) | (with_reducible apply slotMiss_keeps) | (with_reducible apply updSlot_keeps) | (with_reducible refine keeps_foldl ?_ _ ?_) | (intro _) | split | (dsimp only))

theorem execDeadlineEvent_keeps {pq : Kept} (cell : Fin 16) (s : State) (hkp : Keeps pq s) : Ends (Keeps pq) (execDeadlineEvent cell s) := by
  unfold execDeadlineEvent
  repeat' (first | (with_reducible assumption) | (with_reducible apply deadlineEvent_keeps) | (with_reducible apply ends_next) | (intro _) | split | (dsimp only))

theorem slotAppend_keeps {pq : Kept} (c epoch idx : Nat) (records : List (List Byte)) (s : State) (hkp : Keeps pq s) : Keeps pq (slotAppend c epoch idx records s) := by
  unfold slotAppend
  repeat' (first | (with_reducible assumption) | (with_reducible apply State.addWrap_keeps) | (with_reducible apply appendTokens_keeps) | (with_reducible apply dropSlots_keeps) | (with_reducible apply event_keeps) | (with_reducible apply noteErr_keeps) | (with_reducible apply seqPut_keeps) | (with_reducible apply seqRead_keeps) | (with_reducible apply slotMiss_keeps) | (with_reducible apply updCpl_keeps) | (with_reducible apply keeps_ite) | (intro _) | split | (with_reducible refine keeps_fst (by assumption) ?_) | (with_reducible refine keeps_fst3 (by assumption) ?_) | (dsimp only))

theorem execKvAppend_keeps {pq : Kept} (cell : Fin 16) (epoch : BitVec 16) (idx : Fin 1024) (records : List (List Byte)) (s : State) (hkp : Keeps pq s) : Ends (Keeps pq) (execKvAppend cell epoch idx records s) := by
  unfold execKvAppend
  repeat' (first | (with_reducible assumption) | (with_reducible apply slotAppend_keeps) | (with_reducible apply ends_next) | (intro _) | split | (dsimp only))

theorem endSlot_keeps {pq : Kept} (c : Nat) (y : FwSlot) (status : Nat) (s : State) (hkp : Keeps pq s) : Keeps pq (endSlot c y status s) := by
  unfold endSlot
  repeat' (first | (with_reducible assumption) | (with_reducible apply dropSlots_keeps) | (with_reducible apply finishSlot_keeps) | (with_reducible refine keeps_foldl ?_ _ ?_) | (intro _) | split | (dsimp only))

theorem stageTrigger_keeps {pq : Kept} (c st : Nat) (s : State) (hkp : Keeps pq s) : Keeps pq (stageTrigger c st s) := by
  unfold stageTrigger
  repeat' (first | (with_reducible assumption) | (with_reducible apply endSlot_keeps) | (with_reducible apply preempt_keeps) | (with_reducible apply updSlot_keeps) | (with_reducible apply keeps_ite) | (with_reducible refine keeps_foldl ?_ _ ?_) | (intro _) | split | (dsimp only))

theorem execStageTrigger_keeps {pq : Kept} (cell : Fin 16) (stage : Fin 16) (s : State) (hkp : Keeps pq s) : Ends (Keeps pq) (execStageTrigger cell stage s) := by
  unfold execStageTrigger
  repeat' (first | (with_reducible assumption) | (with_reducible apply stageTrigger_keeps) | (with_reducible apply ends_next) | (intro _) | split | (dsimp only))

theorem placeItem_keeps {pq : Kept} (c st : Nat) (s : State) (hkp : Keeps pq s) : Keeps pq (placeItem c st s) := by
  unfold placeItem
  repeat' (first | (with_reducible assumption) | (with_reducible apply State.setTile_keeps) | (with_reducible apply freeSlotTile_keeps) | (with_reducible apply setTileState_keeps) | (with_reducible apply updFw_keeps) | (with_reducible apply keeps_ite) | (intro _) | split | (dsimp only))

theorem execStageItemPlacement_keeps {pq : Kept} (cell : Fin 16) (stage : Fin 16) (s : State) (hkp : Keeps pq s) : Ends (Keeps pq) (execStageItemPlacement cell stage s) := by
  unfold execStageItemPlacement
  repeat' (first | (with_reducible assumption) | (with_reducible apply placeItem_keeps) | (with_reducible apply ends_next) | (intro _) | split | (dsimp only))

theorem execLendingEnd_keeps {pq : Kept} (tile : Fin 32) (s : State) (hkp : Keeps pq s) : Ends (Keeps pq) (execLendingEnd tile s) := by
  unfold execLendingEnd
  repeat' (first | (with_reducible assumption) | (with_reducible apply endLending_keeps) | (with_reducible apply ends_next) | (with_reducible apply keeps_ite) | (intro _) | split | (dsimp only))

theorem tileError_keeps {pq : Kept} (t : Nat) (s : State) (hkp : Keeps pq s) : Keeps pq (tileError t s) := by
  unfold tileError
  repeat' (first | (with_reducible assumption) | (with_reducible apply dropSlots_keeps) | (with_reducible apply finishSlot_keeps) | (with_reducible apply tileUe_keeps) | (intro _) | split | (dsimp only))

theorem execTileSramUe_keeps {pq : Kept} (tile : Fin 32) (part : TilePart) (s : State) (hkp : Keeps pq s) : Ends (Keeps pq) (execTileSramUe tile part s) := by
  unfold execTileSramUe
  repeat' (first | (with_reducible assumption) | (with_reducible apply tileError_keeps) | (with_reducible apply ends_next) | (intro _) | split | (dsimp only))

end Sys2Proof.Machine
end

