-- ==== Sys2Proof/Laws/KeepCrypt.lean ====
section
/-! SUPPORT. What the operations of Machine/Crypt.lean keep. -/

namespace Sys2Proof.Machine

theorem setCache_keeps {pq : Kept} (l : List DigestEnt) (s : State) (hkp : Keeps pq s) : Keeps pq (setCache l s) := by
  unfold setCache
  repeat' (first | (with_reducible assumption) | (intro _) | split | (dsimp only) | (with_reducible refine keeps_mk rfl rfl rfl rfl rfl ?_))

theorem cachePut_keeps {pq : Kept} (e : DigestEnt) (s : State) (hkp : Keeps pq s) : Keeps pq (cachePut e s) := by
  unfold cachePut
  repeat' (first | (with_reducible assumption) | (with_reducible apply setCache_keeps) | (intro _) | split | (dsimp only))

theorem imageDigest_keeps {pq : Kept} (f idx : Nat) (digest : List Byte) (s : State) (hkp : Keeps pq s) : Keeps pq (imageDigest f idx digest s).2 := by
  unfold imageDigest
  repeat' (first | (with_reducible assumption) | (with_reducible apply cachePut_keeps) | (intro _) | split | (dsimp only))

theorem weightDigest_keeps {pq : Kept} (space addr len : Nat) (s : State) (hkp : Keeps pq s) : Keeps pq (weightDigest space addr len s).1 := by
  unfold weightDigest
  repeat' (first | (with_reducible assumption) | (with_reducible apply cachePut_keeps) | (with_reducible apply vaRead_keeps) | (with_reducible apply keeps_ite) | (intro _) | split | (with_reducible refine keeps_fst (by assumption) ?_) | (with_reducible refine keeps_fst3 (by assumption) ?_) | (dsimp only))

theorem afterDigest_keeps {pq : Kept} (c : Cpl) (s : State) (hkp : Keeps pq s) : Keeps pq (afterDigest c s) := by
  unfold afterDigest
  repeat' (first | (with_reducible assumption) | (with_reducible apply dropSlots_keeps) | (with_reducible apply slotMiss_keeps) | (intro _) | split | (dsimp only))

theorem digestFinal_keeps {pq : Kept} (s : State) (hkp : Keeps pq s) : Keeps pq (digestFinal s) := by
  unfold digestFinal
  repeat' (first | (with_reducible assumption) | (with_reducible apply afterDigest_keeps) | (with_reducible apply flushLog_keeps) | (with_reducible apply noteErr_keeps) | (with_reducible apply updCpl_keeps) | (with_reducible apply weightDigest_keeps) | (with_reducible apply keeps_ite) | (intro _) | split | (with_reducible refine keeps_fst (by assumption) ?_) | (with_reducible refine keeps_fst3 (by assumption) ?_) | (dsimp only))

theorem execDigestFinal_keeps {pq : Kept} (s : State) (hkp : Keeps pq s) : Ends (Keeps pq) (execDigestFinal s) := by
  unfold execDigestFinal
  repeat' (first | (with_reducible assumption) | (with_reducible apply digestFinal_keeps) | (with_reducible apply ends_next) | (intro _) | split | (dsimp only))

theorem cryInval_keeps {pq : Kept} (a : Agent) (v : Word) (s : State) (hkp : Keeps pq s) : Keeps pq (cryInval a v s) := by
  unfold cryInval
  repeat' (first | (with_reducible assumption) | (with_reducible apply State.setFlag_keeps) | (with_reducible apply setCache_keeps) | (with_reducible apply storeReg_keeps) | (with_reducible apply keeps_ite) | (intro _) | split | (dsimp only))

theorem execCryInval_keeps {pq : Kept} (a : Agent) (v : Word) (s : State) (hkp : Keeps pq s) : Ends (Keeps pq) (execCryInval a v s) := by
  unfold execCryInval
  repeat' (first | (with_reducible assumption) | (with_reducible apply cryInval_keeps) | (with_reducible apply ends_next) | (intro _) | split | (dsimp only))

theorem showDigest_keeps {pq : Kept} (w : List Byte) (s : State) (hkp : Keeps pq s) : Keeps pq (showDigest w s) := by
  unfold showDigest
  repeat' (first | (with_reducible assumption) | (with_reducible apply State.setReg_keeps) | (with_reducible refine keeps_foldl ?_ _ ?_) | (intro _) | split | (dsimp only))

theorem digestQuery_keeps {pq : Kept} (a : Agent) (v : Word) (s : State) (hkp : Keeps pq s) : Keeps pq (digestQuery a v s) := by
  unfold digestQuery
  repeat' (first | (with_reducible assumption) | (with_reducible apply noteErr_keeps) | (with_reducible apply showDigest_keeps) | (with_reducible apply storeReg_keeps) | (with_reducible apply weightDigest_keeps) | (with_reducible apply keeps_ite) | (intro _) | split | (with_reducible refine keeps_fst (by assumption) ?_) | (with_reducible refine keeps_fst3 (by assumption) ?_) | (dsimp only))

theorem execDigestQuery_keeps {pq : Kept} (a : Agent) (v : Word) (s : State) (hkp : Keeps pq s) : Ends (Keeps pq) (execDigestQuery a v s) := by
  unfold execDigestQuery
  repeat' (first | (with_reducible assumption) | (with_reducible apply digestQuery_keeps) | (with_reducible apply ends_next) | (intro _) | split | (dsimp only))

theorem execReplayArm_keeps {pq : Kept} (a : Agent) (v : Word) (s : State) (hkp : Keeps pq s) : Ends (Keeps pq) (execReplayArm a v s) := by
  unfold execReplayArm
  repeat' (first | (with_reducible assumption) | (with_reducible apply storeReg_keeps) | (with_reducible apply ends_next) | (intro _) | split | (dsimp only))

theorem pairWith_keeps {pq : Kept} (h : TwinHello) (s : State) (hkp : Keeps pq s) : Keeps pq (pairWith h s) := by
  unfold pairWith
  repeat' (first | (with_reducible assumption) | (with_reducible apply State.setPair_keeps) | (with_reducible apply setTwin_keeps) | (with_reducible apply keeps_ite) | (intro _) | split | (dsimp only))

theorem setEarly_keeps {pq : Kept} (h : Option TwinHello) (s : State) (hkp : Keeps pq s) : Keeps pq (setEarly h s) := by
  unfold setEarly
  repeat' (first | (with_reducible assumption) | (intro _) | split | (dsimp only) | (with_reducible refine keeps_mk rfl rfl rfl rfl rfl ?_))

theorem twinEnable_keeps {pq : Kept} (s : State) (hkp : Keeps pq s) : Keeps pq (twinEnable s) := by
  unfold twinEnable
  repeat' (first | (with_reducible assumption) | (with_reducible apply State.setFld_keeps) | (with_reducible apply pairWith_keeps) | (with_reducible apply sendTwin_keeps) | (with_reducible apply setEarly_keeps) | (with_reducible apply setTwin_keeps) | (with_reducible apply keeps_ite) | (intro _) | split | (dsimp only) | (with_reducible refine keeps_mk rfl rfl rfl rfl rfl ?_))

theorem twinDisable_keeps {pq : Kept} (s : State) (hkp : Keeps pq s) : Keeps pq (twinDisable s) := by
  unfold twinDisable
  repeat' (first | (with_reducible assumption) | (with_reducible apply releaseCpl_keeps) | (with_reducible apply setTwin_keeps) | (with_reducible refine keeps_foldl ?_ _ ?_) | (intro _) | split | (dsimp only) | (with_reducible refine keeps_mk rfl rfl rfl rfl rfl ?_))

theorem writeTwinCtl_keeps {pq : Kept} (a : Agent) (v : Word) (s : State) (hkp : Keeps pq s) : Keeps pq (writeTwinCtl a v s) := by
  unfold writeTwinCtl
  repeat' (first | (with_reducible assumption) | (with_reducible apply State.setFld_keeps) | (with_reducible apply storeReg_keeps) | (with_reducible apply twinDisable_keeps) | (with_reducible apply twinEnable_keeps) | (with_reducible apply keeps_ite) | (intro _) | split | (dsimp only))

theorem execTwinEnable_keeps {pq : Kept} (a : Agent) (v : Word) (s : State) (hkp : Keeps pq s) : Ends (Keeps pq) (execTwinEnable a v s) := by
  unfold execTwinEnable
  repeat' (first | (with_reducible assumption) | (with_reducible apply writeTwinCtl_keeps) | (with_reducible apply ends_next) | (intro _) | split | (dsimp only))

theorem execTwinDisable_keeps {pq : Kept} (a : Agent) (v : Word) (s : State) (hkp : Keeps pq s) : Ends (Keeps pq) (execTwinDisable a v s) := by
  unfold execTwinDisable
  repeat' (first | (with_reducible assumption) | (with_reducible apply writeTwinCtl_keeps) | (with_reducible apply ends_next) | (intro _) | split | (dsimp only))

theorem execTwinHelloReceive_keeps {pq : Kept} (h : TwinHello) (s : State) (hkp : Keeps pq s) : Ends (Keeps pq) (execTwinHelloReceive h s) := by
  unfold execTwinHelloReceive
  repeat' (first | (with_reducible assumption) | (with_reducible apply pairWith_keeps) | (with_reducible apply setEarly_keeps) | (with_reducible apply ends_next) | (with_reducible apply keeps_ite) | (intro _) | split | (dsimp only))

theorem compareReceive_keeps {pq : Kept} (r : CompareRec) (s : State) (hkp : Keeps pq s) : Keeps pq (compareReceive r s) := by
  unfold compareReceive
  repeat' (first | (with_reducible assumption) | (with_reducible apply compareWith_keeps) | (with_reducible apply keeps_ite) | (intro _) | split | (dsimp only) | (with_reducible refine keeps_mk rfl rfl rfl rfl rfl ?_))

theorem execCompareRecordReceive_keeps {pq : Kept} (r : CompareRec) (s : State) (hkp : Keeps pq s) : Ends (Keeps pq) (execCompareRecordReceive r s) := by
  unfold execCompareRecordReceive
  repeat' (first | (with_reducible assumption) | (with_reducible apply compareReceive_keeps) | (with_reducible apply ends_next) | (intro _) | split | (dsimp only))

theorem twinWaitExpiry_keeps {pq : Kept} (s : State) (hkp : Keeps pq s) : Keeps pq (twinWaitExpiry s) := by
  unfold twinWaitExpiry
  repeat' (first | (with_reducible assumption) | (with_reducible apply haltPair_keeps) | (with_reducible apply keeps_ite) | (intro _) | split | (dsimp only))

theorem execTwinWaitExpiry_keeps {pq : Kept} (s : State) (hkp : Keeps pq s) : Ends (Keeps pq) (execTwinWaitExpiry s) := by
  unfold execTwinWaitExpiry
  repeat' (first | (with_reducible assumption) | (with_reducible apply twinWaitExpiry_keeps) | (with_reducible apply ends_next) | (intro _) | split | (dsimp only))

theorem breakPair_keeps {pq : Kept} (p : Nat) (s : State) (hkp : Keeps pq s) : Keeps pq (breakPair p s) := by
  unfold breakPair
  repeat' (first | (with_reducible assumption) | (with_reducible apply setFormed_keeps) | (with_reducible apply setTwin_keeps) | (with_reducible apply keeps_ite) | (intro _) | split | (dsimp only) | (with_reducible refine keeps_mk rfl rfl rfl rfl rfl ?_))

end Sys2Proof.Machine
end

