-- ==== Sys2Proof/Laws/KeepHost.lean ====
section
/-! SUPPORT. What the operations of Machine/Host.lean keep. -/

namespace Sys2Proof.Machine

theorem setPoll_keeps {pq : Kept} (f : Nat) (p : Poll) (s : State) (hkp : Keeps pq s) : Keeps pq (setPoll f p s) := by
  unfold setPoll
  repeat' (first | (with_reducible assumption) | (intro _) | split | (dsimp only) | (with_reducible refine keeps_mk rfl rfl rfl rfl rfl ?_))

theorem stopSq_keeps {pq : Kept} (f q reason : Nat) (s : State) (hkp : Keeps pq s) : Keeps pq (stopSq f q reason s) := by
  unfold stopSq
  repeat' (first | (with_reducible assumption) | (with_reducible apply State.setRing_keeps) | (with_reducible apply eventVi_keeps) | (with_reducible apply shadowWrite_keeps) | (intro _) | split | (dsimp only))

theorem acceptOne_keeps {pq : Kept} (f q cq : Nat) (s : State) (hkp : Keeps pq s) : Keeps pq (acceptOne f q cq s) := by
  unfold acceptOne
  repeat' (first | (with_reducible assumption) | (with_reducible apply State.setRing_keeps) | (with_reducible apply keeps_ite) | (intro _) | split | (dsimp only) | (with_reducible refine keeps_mk rfl rfl rfl rfl rfl ?_))

theorem acceptMany_keeps {pq : Kept} (f q cq n : Nat) : ∀ (s : State), Keeps pq s → Keeps pq (acceptMany f q cq n s) := by
  induction n with
  | zero => intro s h; exact h
  | succ m ih => intro s h; unfold acceptMany; exact ih _ (acceptOne_keeps _ _ _ _ h)

theorem pollSq_keeps {pq : Kept} (f q : Nat) (s : State) (hkp : Keeps pq s) : Keeps pq (pollSq f q s) := by
  unfold pollSq
  repeat' (first | (with_reducible assumption) | (with_reducible apply acceptMany_keeps) | (with_reducible apply shadowWrite_keeps) | (with_reducible apply stopSq_keeps) | (with_reducible apply keeps_ite) | (intro _) | split | (dsimp only))

theorem pollConsumers_keeps {pq : Kept} (f : Nat) (s : State) (hkp : Keeps pq s) : Keeps pq (pollConsumers f s) := by
  unfold pollConsumers
  repeat' (first | (with_reducible assumption) | (with_reducible apply freshRead_keeps) | (with_reducible apply keeps_ite) | (with_reducible refine keeps_foldl ?_ _ ?_) | (intro _) | split | (dsimp only))

theorem doorbellPoll_keeps {pq : Kept} (f : Nat) (s : State) (hkp : Keeps pq s) : Keeps pq (doorbellPoll f s) := by
  unfold doorbellPoll
  repeat' (first | (with_reducible assumption) | (with_reducible apply State.addSat_keeps) | (with_reducible apply pollConsumers_keeps) | (with_reducible apply pollSq_keeps) | (with_reducible apply setPoll_keeps) | (with_reducible apply keeps_ite) | (with_reducible refine keeps_foldl ?_ _ ?_) | (intro _) | split | (dsimp only))

theorem execDoorbellPoll_keeps {pq : Kept} (f : Fin 17) (s : State) (hkp : Keeps pq s) : Ends (Keeps pq) (execDoorbellPoll f s) := by
  unfold execDoorbellPoll
  repeat' (first | (with_reducible assumption) | (with_reducible apply doorbellPoll_keeps) | (with_reducible apply ends_next) | (intro _) | split | (dsimp only))

theorem sqFetchError_keeps {pq : Kept} (f q : Nat) (s : State) (hkp : Keeps pq s) : Keeps pq (sqFetchError f q s) := by
  unfold sqFetchError
  repeat' (first | (with_reducible assumption) | (with_reducible apply stopSq_keeps) | (with_reducible apply keeps_ite) | (intro _) | split | (dsimp only))

theorem execSqFetchError_keeps {pq : Kept} (f : Fin 17) (q : Fin 8) (s : State) (hkp : Keeps pq s) : Ends (Keeps pq) (execSqFetchError f q s) := by
  unfold execSqFetchError
  repeat' (first | (with_reducible assumption) | (with_reducible apply sqFetchError_keeps) | (with_reducible apply ends_next) | (intro _) | split | (dsimp only))

theorem execHostNop_keeps {pq : Kept} (f : Fin 17) (q : Fin 8) (s : State) (hkp : Keeps pq s) : Ends (Keeps pq) (execHostNop f q s) := by
  unfold execHostNop
  repeat' (first | (with_reducible assumption) | (with_reducible apply finish_keeps) | (with_reducible apply onItem_keeps) | (with_reducible apply ends_next) | (intro _) | split | (dsimp only))

theorem undefinedHost_keeps {pq : Kept} (f q : Nat) (s : State) (hkp : Keeps pq s) : Keeps pq (undefinedHost f q s) := by
  unfold undefinedHost
  repeat' (first | (with_reducible assumption) | (with_reducible apply finish_keeps) | (with_reducible apply updItem_keeps) | (with_reducible apply keeps_ite) | (intro _) | split | (dsimp only))

theorem execUndefinedHostOpcode_keeps {pq : Kept} (f : Fin 17) (q : Fin 8) (s : State) (hkp : Keeps pq s) : Ends (Keeps pq) (execUndefinedHostOpcode f q s) := by
  unfold execUndefinedHostOpcode
  repeat' (first | (with_reducible assumption) | (with_reducible apply undefinedHost_keeps) | (with_reducible apply ends_next) | (intro _) | split | (dsimp only))

theorem taskSubmit_keeps {pq : Kept} (img : TaskImage) (it : RItem) (s : State) (hkp : Keeps pq s) : Keeps pq (taskSubmit img it s) := by
  unfold taskSubmit
  repeat' (first | (with_reducible assumption) | (with_reducible apply finish_keeps) | (with_reducible apply imageDigest_keeps) | (with_reducible apply updItem_keeps) | (with_reducible apply keeps_ite) | (intro _) | split | (with_reducible refine keeps_snd (by assumption) ?_) | (dsimp only))

theorem execTask_keeps {pq : Kept} (f : Fin 17) (q : Fin 8) (img : TaskImage) (s : State) (hkp : Keeps pq s) : Ends (Keeps pq) (execTask f q img s) := by
  unfold execTask
  repeat' (first | (with_reducible assumption) | (with_reducible apply onItem_keeps) | (with_reducible apply taskSubmit_keeps) | (with_reducible apply ends_next) | (intro _) | split | (dsimp only))

theorem putCpl_keeps {pq : Kept} (g k : Nat) (diverted : Bool) (c : Cpl) (s : State) (hkp : Keeps pq s) : Keeps pq (putCpl g k diverted c s) := by
  unfold putCpl
  repeat' (first | (with_reducible assumption) | (with_reducible apply State.setRing_keeps) | (with_reducible apply countEntry_keeps) | (with_reducible apply hostWrite_keeps) | (with_reducible apply shadowWrite_keeps) | (with_reducible apply keeps_ite) | (intro _) | split | (dsimp only))

theorem releaseResv_keeps {pq : Kept} (c : Cpl) (s : State) (hkp : Keeps pq s) : Keeps pq (releaseResv c s) := by
  unfold releaseResv
  repeat' (first | (with_reducible assumption) | (with_reducible apply State.setRing_keeps) | (intro _) | split | (dsimp only))

theorem showHold_keeps {pq : Kept} (s : State) (hkp : Keeps pq s) : Keeps pq (showHold s) := by
  unfold showHold
  repeat' (first | (with_reducible assumption) | (with_reducible apply State.setFld_keeps) | (intro _) | split | (dsimp only))

theorem loseReport_keeps {pq : Kept} (s : State) (hkp : Keeps pq s) : Keeps pq (loseReport s) := by
  unfold loseReport
  repeat' (first | (with_reducible assumption) | (with_reducible apply State.addSat_keeps) | (with_reducible apply State.setFlag_keeps) | (with_reducible apply event_keeps) | (intro _) | split | (dsimp only))

theorem waitRr_keeps {pq : Kept} (c : Cpl) (s : State) (hkp : Keeps pq s) : Keeps pq (waitRr c s) := by
  unfold waitRr
  repeat' (first | (with_reducible assumption) | (with_reducible apply State.draw_keeps) | (with_reducible apply deviceWrite_keeps) | (with_reducible apply loseReport_keeps) | (with_reducible apply showHold_keeps) | (with_reducible apply keeps_ite) | (intro _) | split | (with_reducible refine keeps_snd (by assumption) ?_) | (dsimp only) | (with_reducible refine keeps_mk rfl rfl rfl rfl rfl ?_))

theorem toRr_keeps {pq : Kept} (c : Cpl) (s : State) (hkp : Keeps pq s) : Keeps pq (toRr c s) := by
  unfold toRr
  repeat' (first | (with_reducible assumption) | (with_reducible apply freshRead_keeps) | (with_reducible apply putCpl_keeps) | (with_reducible apply waitRr_keeps) | (with_reducible apply keeps_ite) | (intro _) | split | (dsimp only))

theorem sendCpl_keeps {pq : Kept} (c : Cpl) (s : State) (hkp : Keeps pq s) : Keeps pq (sendCpl c s) := by
  unfold sendCpl
  repeat' (first | (with_reducible assumption) | (with_reducible apply State.addSat_keeps) | (with_reducible apply freshRead_keeps) | (with_reducible apply putCpl_keeps) | (with_reducible apply releaseResv_keeps) | (with_reducible apply toRr_keeps) | (with_reducible apply keeps_ite) | (intro _) | split | (dsimp only))

theorem countReport_keeps {pq : Kept} (c : Cpl) (s : State) (hkp : Keeps pq s) : Keeps pq (countReport c s) := by
  unfold countReport
  repeat' (first | (with_reducible assumption) | (with_reducible apply keeps_ite) | (intro _) | split | (dsimp only) | (with_reducible refine keeps_mk rfl rfl rfl rfl rfl ?_))

theorem completionWrite_keeps {pq : Kept} (s : State) (hkp : Keeps pq s) : Keeps pq (completionWrite s) := by
  unfold completionWrite
  repeat' (first | (with_reducible assumption) | (with_reducible apply countReport_keeps) | (with_reducible apply sendCpl_keeps) | (with_reducible apply setFormed_keeps) | (intro _) | split | (dsimp only))

theorem execCompletionWrite_keeps {pq : Kept} (s : State) (hkp : Keeps pq s) : Ends (Keeps pq) (execCompletionWrite s) := by
  unfold execCompletionWrite
  repeat' (first | (with_reducible assumption) | (with_reducible apply completionWrite_keeps) | (with_reducible apply ends_next) | (intro _) | split | (dsimp only))

theorem rrMove_keeps {pq : Kept} (s : State) (hkp : Keeps pq s) : Keeps pq (rrMove s) := by
  unfold rrMove
  repeat' (first | (with_reducible assumption) | (with_reducible apply freshRead_keeps) | (with_reducible apply putCpl_keeps) | (with_reducible apply showHold_keeps) | (with_reducible apply keeps_ite) | (intro _) | split | (dsimp only) | (with_reducible refine keeps_mk rfl rfl rfl rfl rfl ?_))

theorem execRrBacklogMove_keeps {pq : Kept} (s : State) (hkp : Keeps pq s) : Ends (Keeps pq) (execRrBacklogMove s) := by
  unfold execRrBacklogMove
  repeat' (first | (with_reducible assumption) | (with_reducible apply rrMove_keeps) | (with_reducible apply ends_next) | (intro _) | split | (dsimp only))

theorem coalTimeExpiry_keeps {pq : Kept} (f k : Nat) (s : State) (hkp : Keeps pq s) : Keeps pq (coalTimeExpiry f k s) := by
  unfold coalTimeExpiry
  repeat' (first | (with_reducible assumption) | (with_reducible apply State.setRing_keeps) | (with_reducible apply raiseVec_keeps) | (with_reducible apply keeps_ite) | (intro _) | split | (dsimp only))

theorem execCoalTimeExpiry_keeps {pq : Kept} (f : Fin 17) (ring : Fin 18) (s : State) (hkp : Keeps pq s) : Ends (Keeps pq) (execCoalTimeExpiry f ring s) := by
  unfold execCoalTimeExpiry
  repeat' (first | (with_reducible assumption) | (with_reducible apply coalTimeExpiry_keeps) | (with_reducible apply ends_next) | (intro _) | split | (dsimp only))

theorem writeMsixCtl_keeps {pq : Kept} (a : Agent) (f vec : Nat) (v : Word) (s : State) (hkp : Keeps pq s) : Keeps pq (writeMsixCtl a f vec v s) := by
  unfold writeMsixCtl
  repeat' (first | (with_reducible assumption) | (with_reducible apply State.emit_keeps) | (with_reducible apply State.setReg_keeps) | (with_reducible apply storeReg_keeps) | (with_reducible apply keeps_ite) | (intro _) | split | (dsimp only))

theorem execMsixUnmask_keeps {pq : Kept} (a : Agent) (f : Fin 17) (vec : Fin 64) (s : State) (hkp : Keeps pq s) : Ends (Keeps pq) (execMsixUnmask a f vec s) := by
  unfold execMsixUnmask
  repeat' (first | (with_reducible assumption) | (with_reducible apply writeMsixCtl_keeps) | (with_reducible apply ends_next) | (with_reducible apply keeps_ite) | (intro _) | split | (dsimp only))

theorem ringErr_keeps {pq : Kept} (f : Nat) (fl : Fld) (s : State) (hkp : Keeps pq s) : Keeps pq (ringErr f fl s) := by
  unfold ringErr
  repeat' (first | (with_reducible assumption) | (with_reducible apply State.setFlag_keeps) | (intro _) | split | (dsimp only))

theorem ringOn_keeps {pq : Kept} (f k : Nat) (s : State) (hkp : Keeps pq s) : Keeps pq (ringOn f k s) := by
  unfold ringOn
  repeat' (first | (with_reducible assumption) | (with_reducible apply State.setRing_keeps) | (with_reducible apply setPoll_keeps) | (with_reducible apply shadowWrite_keeps) | (with_reducible apply keeps_ite) | (intro _) | split | (dsimp only))

theorem ringOff_keeps {pq : Kept} (f k : Nat) (s : State) (hkp : Keeps pq s) : Keeps pq (ringOff f k s) := by
  unfold ringOff
  repeat' (first | (with_reducible assumption) | (with_reducible apply State.setRing_keeps) | (with_reducible apply shadowWrite_keeps) | (with_reducible apply keeps_ite) | (intro _) | split | (dsimp only) | (with_reducible refine keeps_mk rfl rfl rfl rfl rfl ?_))

theorem writeRingCfg_keeps {pq : Kept} (a : Agent) (f k : Nat) (v : Word) (s : State) (hkp : Keeps pq s) : Keeps pq (writeRingCfg a f k v s) := by
  unfold writeRingCfg
  repeat' (first | (with_reducible assumption) | (with_reducible apply State.setReg_keeps) | (with_reducible apply State.setFlag_keeps) | (with_reducible apply ringErr_keeps) | (with_reducible apply ringOff_keeps) | (with_reducible apply ringOn_keeps) | (with_reducible apply storeReg_keeps) | (with_reducible apply keeps_ite) | (intro _) | split | (dsimp only))

theorem execRingEnable_keeps {pq : Kept} (a : Agent) (f : Fin 17) (ring : Fin 18) (v : Word) (s : State) (hkp : Keeps pq s) : Ends (Keeps pq) (execRingEnable a f ring v s) := by
  unfold execRingEnable
  repeat' (first | (with_reducible assumption) | (with_reducible apply writeRingCfg_keeps) | (with_reducible apply ends_next) | (intro _) | split | (dsimp only))

theorem execRingDisable_keeps {pq : Kept} (a : Agent) (f : Fin 17) (ring : Fin 18) (v : Word) (s : State) (hkp : Keeps pq s) : Ends (Keeps pq) (execRingDisable a f ring v s) := by
  unfold execRingDisable
  repeat' (first | (with_reducible assumption) | (with_reducible apply writeRingCfg_keeps) | (with_reducible apply ends_next) | (intro _) | split | (dsimp only))

theorem writeRingBase_keeps {pq : Kept} (a : Agent) (f k : Nat) (hi : Bool) (v : Word) (s : State) (hkp : Keeps pq s) : Keeps pq (writeRingBase a f k hi v s) := by
  unfold writeRingBase
  repeat' (first | (with_reducible assumption) | (with_reducible apply ringErr_keeps) | (with_reducible apply storeReg_keeps) | (with_reducible apply keeps_ite) | (intro _) | split | (dsimp only))

theorem execRingConfigWrite_keeps {pq : Kept} (a : Agent) (f : Fin 17) (ring : Fin 18) (reg : Fin 3) (v : Word) (s : State) (hkp : Keeps pq s) : Ends (Keeps pq) (execRingConfigWrite a f ring reg v s) := by
  unfold execRingConfigWrite
  repeat' (first | (with_reducible assumption) | (with_reducible apply writeRingBase_keeps) | (with_reducible apply writeRingCfg_keeps) | (with_reducible apply ends_next) | (with_reducible apply keeps_ite) | (intro _) | split | (dsimp only))

theorem writeSeal_keeps {pq : Kept} (a : Agent) (v : Word) (s : State) (hkp : Keeps pq s) : Keeps pq (writeSeal a v s) := by
  unfold writeSeal
  repeat' (first | (with_reducible assumption) | (with_reducible apply State.setFlag_keeps) | (with_reducible apply keeps_ite) | (intro _) | split | (dsimp only))

theorem execGlbSeal_keeps {pq : Kept} (a : Agent) (v : Word) (s : State) (hkp : Keeps pq s) : Ends (Keeps pq) (execGlbSeal a v s) := by
  unfold execGlbSeal
  repeat' (first | (with_reducible assumption) | (with_reducible apply writeSeal_keeps) | (with_reducible apply ends_next) | (intro _) | split | (dsimp only))

end Sys2Proof.Machine
end

