-- ==== Sys2Proof/Laws/KeepRadio.lean ====
section
/-! SUPPORT. What the operations of Machine/Radio.lean keep. -/

namespace Sys2Proof.Machine

theorem State.setRxAnt_keeps {pq : Kept} (s : State) (a : Nat) (x : RxAnt) (hkp : Keeps pq s) : Keeps pq (State.setRxAnt s a x) := by
  unfold State.setRxAnt
  repeat' (first | (with_reducible assumption) | (intro _) | split | (dsimp only) | (with_reducible refine keeps_mk rfl rfl rfl rfl rfl ?_))

theorem State.setTxChain_keeps {pq : Kept} (s : State) (t : Nat) (x : TxChain) (hkp : Keeps pq s) : Keeps pq (State.setTxChain s t x) := by
  unfold State.setTxChain
  repeat' (first | (with_reducible assumption) | (intro _) | split | (dsimp only) | (with_reducible refine keeps_mk rfl rfl rfl rfl rfl ?_))

theorem State.setAgc_keeps {pq : Kept} (s : State) (a : Nat) (x : Agc) (hkp : Keeps pq s) : Keeps pq (State.setAgc s a x) := by
  unfold State.setAgc
  repeat' (first | (with_reducible assumption) | (intro _) | split | (dsimp only) | (with_reducible refine keeps_mk rfl rfl rfl rfl rfl ?_))

theorem State.setRadioCell_keeps {pq : Kept} (s : State) (c : Nat) (x : RadioCell) (hkp : Keeps pq s) : Keeps pq (State.setRadioCell s c x) := by
  unfold State.setRadioCell
  repeat' (first | (with_reducible assumption) | (intro _) | split | (dsimp only) | (with_reducible refine keeps_mk rfl rfl rfl rfl rfl ?_))

theorem setRxLink_keeps {pq : Kept} (was now : Bool) (s : State) (hkp : Keeps pq s) : Keeps pq (setRxLink was now s) := by
  unfold setRxLink
  repeat' (first | (with_reducible assumption) | (with_reducible apply State.setFlag_keeps) | (with_reducible apply State.setFld_keeps) | (with_reducible apply keeps_ite) | (intro _) | split | (dsimp only) | (with_reducible refine keeps_mk rfl rfl rfl rfl rfl ?_))

theorem setTxLink_keeps {pq : Kept} (was now : Bool) (s : State) (hkp : Keeps pq s) : Keeps pq (setTxLink was now s) := by
  unfold setTxLink
  repeat' (first | (with_reducible assumption) | (with_reducible apply State.setFlag_keeps) | (with_reducible apply keeps_ite) | (intro _) | split | (dsimp only) | (with_reducible refine keeps_mk rfl rfl rfl rfl rfl ?_))

theorem writeRfiCtl_keeps {pq : Kept} (a : Agent) (v : Word) (s : State) (hkp : Keeps pq s) : Keeps pq (writeRfiCtl a v s) := by
  unfold writeRfiCtl
  repeat' (first | (with_reducible assumption) | (with_reducible apply setRxLink_keeps) | (with_reducible apply setTxLink_keeps) | (with_reducible apply storeReg_keeps) | (intro _) | split | (dsimp only))

theorem execJesdLinkEnable_keeps {pq : Kept} (a : Agent) (v : Word) (s : State) (hkp : Keeps pq s) : Ends (Keeps pq) (execJesdLinkEnable a v s) := by
  unfold execJesdLinkEnable
  repeat' (first | (with_reducible assumption) | (with_reducible apply writeRfiCtl_keeps) | (with_reducible apply ends_next) | (intro _) | split | (dsimp only))

theorem rxLockLost_keeps {pq : Kept} (s : State) (hkp : Keeps pq s) : Keeps pq (rxLockLost s) := by
  unfold rxLockLost
  repeat' (first | (with_reducible assumption) | (with_reducible apply State.setFlag_keeps) | (with_reducible apply event_keeps) | (with_reducible apply keeps_ite) | (intro _) | split | (dsimp only))

theorem execRxLockLost_keeps {pq : Kept} (s : State) (hkp : Keeps pq s) : Ends (Keeps pq) (execRxLockLost s) := by
  unfold execRxLockLost
  repeat' (first | (with_reducible assumption) | (with_reducible apply rxLockLost_keeps) | (with_reducible apply ends_next) | (intro _) | split | (dsimp only))

theorem txLockLost_keeps {pq : Kept} (s : State) (hkp : Keeps pq s) : Keeps pq (txLockLost s) := by
  unfold txLockLost
  repeat' (first | (with_reducible assumption) | (with_reducible apply State.setFlag_keeps) | (with_reducible apply event_keeps) | (with_reducible apply keeps_ite) | (intro _) | split | (dsimp only))

theorem execTxLockLost_keeps {pq : Kept} (s : State) (hkp : Keeps pq s) : Ends (Keeps pq) (execTxLockLost s) := by
  unfold execTxLockLost
  repeat' (first | (with_reducible assumption) | (with_reducible apply txLockLost_keeps) | (with_reducible apply ends_next) | (intro _) | split | (dsimp only))

theorem execRxLockGained_keeps {pq : Kept} (s : State) (hkp : Keeps pq s) : Ends (Keeps pq) (execRxLockGained s) := by
  unfold execRxLockGained
  repeat' (first | (with_reducible assumption) | (with_reducible apply State.setFlag_keeps) | (with_reducible apply ends_next) | (with_reducible apply keeps_ite) | (intro _) | split | (dsimp only))

theorem execTxLockGained_keeps {pq : Kept} (s : State) (hkp : Keeps pq s) : Ends (Keeps pq) (execTxLockGained s) := by
  unfold execTxLockGained
  repeat' (first | (with_reducible assumption) | (with_reducible apply State.setFlag_keeps) | (with_reducible apply ends_next) | (with_reducible apply keeps_ite) | (intro _) | split | (dsimp only))

theorem execSysrefEdge_keeps {pq : Kept} (s : State) (hkp : Keeps pq s) : Ends (Keeps pq) (execSysrefEdge s) := by
  unfold execSysrefEdge
  repeat' (first | (with_reducible assumption) | (with_reducible apply ends_next) | (intro _) | split | (dsimp only) | (with_reducible refine keeps_mk rfl rfl rfl rfl rfl ?_))

theorem filterOut_keeps {pq : Kept} (s : State) (hkp : Keeps pq s) : Keeps pq (filterOut s).2 := by
  unfold filterOut
  repeat' (first | (with_reducible assumption) | (with_reducible apply State.draw_keeps) | (intro _) | split | (with_reducible refine keeps_snd (by assumption) ?_) | (dsimp only))

theorem filterOuts_keeps {pq : Kept} (n : Nat) : ∀ (s : State), Keeps pq s → Keeps pq (filterOuts n s).2 := by
  induction n with
  | zero => intro s h; exact h
  | succ m ih => intro s h; unfold filterOuts; exact ih _ (filterOut_keeps _ h)

theorem storeSamples_keeps {pq : Kept} (a slot k : Nat) (xs : List IQ) (s : State) (hkp : Keeps pq s) : Keeps pq (storeSamples a slot k xs s) := by
  unfold storeSamples
  repeat' (first | (with_reducible assumption) | (with_reducible apply deviceWrite_keeps) | (with_reducible apply keeps_ite) | (intro _) | split | (dsimp only))

theorem zeroRest_keeps {pq : Kept} (a slot k : Nat) (s : State) (hkp : Keeps pq s) : Keeps pq (zeroRest a slot k s) := by
  unfold zeroRest
  repeat' (first | (with_reducible assumption) | (with_reducible apply deviceWrite_keeps) | (with_reducible apply keeps_ite) | (intro _) | split | (dsimp only))

theorem decimate_keeps {pq : Kept} (f : Nat) (part xs : List IQ) (s : State) (hkp : Keeps pq s) : Keeps pq (decimate f part xs s).2.2 := by
  unfold decimate
  repeat' (first | (with_reducible assumption) | (with_reducible apply filterOuts_keeps) | (with_reducible apply keeps_ite) | (intro _) | split | (dsimp only))

theorem takeSamples_keeps {pq : Kept} (a : Nat) (xs : List IQ) (s : State) (hkp : Keeps pq s) : Keeps pq (takeSamples a xs s) := by
  unfold takeSamples
  repeat' (first | (with_reducible assumption) | (with_reducible apply State.setRxAnt_keeps) | (with_reducible apply decimate_keeps) | (with_reducible apply storeSamples_keeps) | (with_reducible apply keeps_ite) | (intro _) | split | (with_reducible refine keeps_trd (by assumption) ?_) | (dsimp only))

theorem beginSlot_keeps {pq : Kept} (a slot : Nat) (s : State) (hkp : Keeps pq s) : Keeps pq (beginSlot a slot s) := by
  unfold beginSlot
  repeat' (first | (with_reducible assumption) | (with_reducible apply State.setRxAnt_keeps) | (with_reducible apply zeroRest_keeps) | (with_reducible apply keeps_ite) | (intro _) | split | (dsimp only))

theorem placeSamples_keeps {pq : Kept} (a : Nat) (ys : List IQ) (s : State) (hkp : Keeps pq s) : Keeps pq (placeSamples a ys s) := by
  unfold placeSamples
  repeat' (first | (with_reducible assumption) | (with_reducible apply State.setRxAnt_keeps) | (with_reducible apply beginSlot_keeps) | (with_reducible apply takeSamples_keeps) | (with_reducible apply keeps_ite) | (intro _) | split | (dsimp only))

theorem rxSamples_keeps {pq : Kept} (a : Nat) (xs : List IQ) (s : State) (hkp : Keeps pq s) : Keeps pq (rxSamples a xs s) := by
  unfold rxSamples
  repeat' (first | (with_reducible assumption) | (with_reducible apply placeSamples_keeps) | (with_reducible apply sendTwin_keeps) | (with_reducible apply keeps_ite) | (intro _) | split | (dsimp only))

theorem mirrorSamples_keeps {pq : Kept} (bs : List Byte) (s : State) (hkp : Keeps pq s) : Keeps pq (mirrorSamples bs s) := by
  unfold mirrorSamples
  repeat' (first | (with_reducible assumption) | (with_reducible apply beginSlot_keeps) | (with_reducible apply placeSamples_keeps) | (with_reducible apply keeps_ite) | (intro _) | split | (dsimp only))

theorem execRxSamples_keeps {pq : Kept} (ant : Fin 5) (x : List IQ) (s : State) (hkp : Keeps pq s) : Ends (Keeps pq) (execRxSamples ant x s) := by
  unfold execRxSamples
  repeat' (first | (with_reducible assumption) | (with_reducible apply rxSamples_keeps) | (with_reducible apply ends_next) | (intro _) | split | (dsimp only))

theorem gainHeaders_keeps {pq : Kept} (s : State) (hkp : Keeps pq s) : Keeps pq (gainHeaders s) := by
  unfold gainHeaders
  repeat' (first | (with_reducible assumption) | (with_reducible apply State.setAgc_keeps) | (with_reducible apply deviceWrite_keeps) | (with_reducible refine keeps_foldl ?_ _ ?_) | (intro _) | split | (dsimp only))

theorem markAntenna_keeps {pq : Kept} (clocks a : Nat) (s : State) (hkp : Keeps pq s) : Keeps pq (markAntenna clocks a s) := by
  unfold markAntenna
  repeat' (first | (with_reducible assumption) | (with_reducible apply State.setRxAnt_keeps) | (with_reducible apply beginSlot_keeps) | (with_reducible apply takeSamples_keeps) | (with_reducible apply keeps_ite) | (intro _) | split | (dsimp only))

theorem releaseFreezes_keeps {pq : Kept} (s : State) (hkp : Keeps pq s) : Keeps pq (releaseFreezes s) := by
  unfold releaseFreezes
  repeat' (first | (with_reducible assumption) | (with_reducible apply State.setFlag_keeps) | (with_reducible refine keeps_foldl ?_ _ ?_) | (intro _) | split | (dsimp only))

theorem alignPh_keeps {pq : Kept} (clocks : Nat) (s : State) (hkp : Keeps pq s) : Keeps pq (alignPh clocks s) := by
  unfold alignPh
  repeat' (first | (with_reducible assumption) | (with_reducible apply State.setFlag_keeps) | (with_reducible apply State.setFld_keeps) | (with_reducible apply event_keeps) | (with_reducible apply keeps_ite) | (intro _) | split | (dsimp only) | (with_reducible refine keeps_mk rfl rfl rfl rfl rfl ?_))

theorem slotStartMarker_keeps {pq : Kept} (clocks : Nat) (s : State) (hkp : Keeps pq s) : Keeps pq (slotStartMarker clocks s) := by
  unfold slotStartMarker
  repeat' (first | (with_reducible assumption) | (with_reducible apply alignPh_keeps) | (with_reducible apply gainHeaders_keeps) | (with_reducible apply markAntenna_keeps) | (with_reducible apply releaseFreezes_keeps) | (with_reducible apply keeps_ite) | (with_reducible refine keeps_foldl ?_ _ ?_) | (intro _) | split | (dsimp only))

theorem execSlotStartMarker_keeps {pq : Kept} (clocks : BitVec 12) (s : State) (hkp : Keeps pq s) : Ends (Keeps pq) (execSlotStartMarker clocks s) := by
  unfold execSlotStartMarker
  repeat' (first | (with_reducible assumption) | (with_reducible apply slotStartMarker_keeps) | (with_reducible apply ends_next) | (intro _) | split | (dsimp only))

theorem logGain_keeps {pq : Kept} (a g sidx : Nat) (s : State) (hkp : Keeps pq s) : Keeps pq (logGain a g sidx s) := by
  unfold logGain
  repeat' (first | (with_reducible assumption) | (with_reducible apply State.setAgc_keeps) | (with_reducible apply deviceWrite_keeps) | (with_reducible apply keeps_ite) | (intro _) | split | (dsimp only))

theorem changeGain_keeps {pq : Kept} (a g sidx : Nat) (s : State) (hkp : Keeps pq s) : Keeps pq (changeGain a g sidx s) := by
  unfold changeGain
  repeat' (first | (with_reducible assumption) | (with_reducible apply State.setFld_keeps) | (with_reducible apply logGain_keeps) | (with_reducible apply keeps_ite) | (intro _) | split | (dsimp only) | (with_reducible refine keeps_mk rfl rfl rfl rfl rfl ?_))

theorem stepGain_keeps {pq : Kept} (a : Nat) (fast : Bool) (d : Int) (sidx : Nat) (s : State) (hkp : Keeps pq s) : Keeps pq (stepGain a fast d sidx s) := by
  unfold stepGain
  repeat' (first | (with_reducible assumption) | (with_reducible apply changeGain_keeps) | (with_reducible apply keeps_ite) | (intro _) | split | (dsimp only) | (with_reducible refine keeps_mk rfl rfl rfl rfl rfl ?_))

theorem agcGridPoint_keeps {pq : Kept} (a : Nat) (p : Int) (full : Bool) (sidx : Nat) (s : State) (hkp : Keeps pq s) : Keeps pq (agcGridPoint a p full sidx s) := by
  unfold agcGridPoint
  repeat' (first | (with_reducible assumption) | (with_reducible apply State.setAgc_keeps) | (with_reducible apply stepGain_keeps) | (with_reducible apply keeps_ite) | (intro _) | split | (dsimp only))

theorem execAgcGridPoint_keeps {pq : Kept} (ch : Fin 5) (p : BitVec 16) (fullScale : Bool) (sidx : Word) (s : State) (hkp : Keeps pq s) : Ends (Keeps pq) (execAgcGridPoint ch p fullScale sidx s) := by
  unfold execAgcGridPoint
  repeat' (first | (with_reducible assumption) | (with_reducible apply agcGridPoint_keeps) | (with_reducible apply ends_next) | (intro _) | split | (dsimp only))

theorem execAgcFreezeDelay_keeps {pq : Kept} (ch : Fin 5) (s : State) (hkp : Keeps pq s) : Ends (Keeps pq) (execAgcFreezeDelay ch s) := by
  unfold execAgcFreezeDelay
  repeat' (first | (with_reducible assumption) | (with_reducible apply State.setFlag_keeps) | (with_reducible apply ends_next) | (with_reducible apply keeps_ite) | (intro _) | split | (dsimp only))

theorem agcWindowEnd_keeps {pq : Kept} (a : Nat) (p : Int) (sidx : Nat) (s : State) (hkp : Keeps pq s) : Keeps pq (agcWindowEnd a p sidx s) := by
  unfold agcWindowEnd
  repeat' (first | (with_reducible assumption) | (with_reducible apply stepGain_keeps) | (with_reducible apply keeps_ite) | (intro _) | split | (dsimp only))

theorem execAgcWindowEnd_keeps {pq : Kept} (ch : Fin 5) (p : BitVec 16) (sidx : Word) (s : State) (hkp : Keeps pq s) : Ends (Keeps pq) (execAgcWindowEnd ch p sidx s) := by
  unfold execAgcWindowEnd
  repeat' (first | (with_reducible assumption) | (with_reducible apply agcWindowEnd_keeps) | (with_reducible apply ends_next) | (intro _) | split | (dsimp only))

theorem writeAgcCtl_keeps {pq : Kept} (a : Agent) (ch : Nat) (v : Word) (s : State) (hkp : Keeps pq s) : Keeps pq (writeAgcCtl a ch v s) := by
  unfold writeAgcCtl
  repeat' (first | (with_reducible assumption) | (with_reducible apply State.setFlag_keeps) | (with_reducible apply storeReg_keeps) | (with_reducible apply keeps_ite) | (intro _) | split | (dsimp only))

theorem execAgcModeWrite_keeps {pq : Kept} (a : Agent) (ch : Fin 5) (v : Word) (s : State) (hkp : Keeps pq s) : Ends (Keeps pq) (execAgcModeWrite a ch v s) := by
  unfold execAgcModeWrite
  repeat' (first | (with_reducible assumption) | (with_reducible apply writeAgcCtl_keeps) | (with_reducible apply ends_next) | (intro _) | split | (dsimp only))

theorem writeAgcGain_keeps {pq : Kept} (a : Agent) (ch : Nat) (v : Word) (s : State) (hkp : Keeps pq s) : Keeps pq (writeAgcGain a ch v s) := by
  unfold writeAgcGain
  repeat' (first | (with_reducible assumption) | (with_reducible apply storeReg_keeps) | (with_reducible apply keeps_ite) | (intro _) | split | (dsimp only) | (with_reducible refine keeps_mk rfl rfl rfl rfl rfl ?_))

theorem cnvSpiFrame_keeps {pq : Kept} (sidx : Nat) (s : State) (hkp : Keeps pq s) : Keeps pq (cnvSpiFrame sidx s) := by
  unfold cnvSpiFrame
  repeat' (first | (with_reducible assumption) | (with_reducible apply State.emit_keeps) | (with_reducible apply logGain_keeps) | (with_reducible apply keeps_ite) | (intro _) | split | (dsimp only) | (with_reducible refine keeps_mk rfl rfl rfl rfl rfl ?_))

theorem execCnvSpiFrame_keeps {pq : Kept} (sidx : Word) (s : State) (hkp : Keeps pq s) : Ends (Keeps pq) (execCnvSpiFrame sidx s) := by
  unfold execCnvSpiFrame
  repeat' (first | (with_reducible assumption) | (with_reducible apply cnvSpiFrame_keeps) | (with_reducible apply ends_next) | (intro _) | split | (dsimp only))

theorem execDpdSwap_keeps {pq : Kept} (a : Agent) (t : Fin 4) (v : Word) (s : State) (hkp : Keeps pq s) : Ends (Keeps pq) (execDpdSwap a t v s) := by
  unfold execDpdSwap
  repeat' (first | (with_reducible assumption) | (with_reducible apply storeReg_keeps) | (with_reducible apply ends_next) | (intro _) | split | (dsimp only))

theorem writeBank_keeps {pq : Kept} (a : Agent) (t b w : Nat) (v : Word) (s : State) (hkp : Keeps pq s) : Keeps pq (writeBank a t b w v s) := by
  unfold writeBank
  repeat' (first | (with_reducible assumption) | (with_reducible apply State.setFlag_keeps) | (with_reducible apply storeReg_keeps) | (with_reducible apply keeps_ite) | (intro _) | split | (dsimp only))

theorem execDpdBankWrite_keeps {pq : Kept} (a : Agent) (t : Fin 4) (bank : Fin 2) (word : Fin 384) (v : Word) (s : State) (hkp : Keeps pq s) : Ends (Keeps pq) (execDpdBankWrite a t bank word v s) := by
  unfold execDpdBankWrite
  repeat' (first | (with_reducible assumption) | (with_reducible apply writeBank_keeps) | (with_reducible apply ends_next) | (intro _) | split | (dsimp only))

theorem dpdStrobe_keeps {pq : Kept} (t : Nat) (s : State) (hkp : Keeps pq s) : Keeps pq (dpdStrobe t s) := by
  unfold dpdStrobe
  repeat' (first | (with_reducible assumption) | (with_reducible apply State.setFlag_keeps) | (with_reducible apply State.setFld_keeps) | (with_reducible apply State.setTxChain_keeps) | (with_reducible apply keeps_ite) | (intro _) | split | (dsimp only))

theorem learnedTerm_keeps {pq : Kept} (t : Nat) (s : State) (hkp : Keeps pq s) : Keeps pq (learnedTerm t s).2 := by
  unfold learnedTerm
  repeat' (first | (with_reducible assumption) | (with_reducible apply filterOut_keeps) | (with_reducible apply keeps_ite) | (intro _) | split | (with_reducible refine keeps_snd (by assumption) ?_) | (dsimp only))

theorem txOuts_keeps {pq : Kept} (t : Nat) (xs : List IQ) (cnt : Nat) :
    ∀ (n : Nat) (s : State), Keeps pq s → Keeps pq (txOuts t xs n cnt s).2 := by
  induction cnt with
  | zero => intro n s h; exact h
  | succ m ih => intro n s h; unfold txOuts; exact ih _ _ (learnedTerm_keeps _ _ h)

theorem transmitSamples_keeps {pq : Kept} (t : Nat) (x : List IQ) (s : State) (hkp : Keeps pq s) : Keeps pq (transmitSamples t x s) := by
  unfold transmitSamples
  repeat' (first | (with_reducible assumption) | (with_reducible apply State.emit_keeps) | (with_reducible apply State.setTxChain_keeps) | (with_reducible apply filterOuts_keeps) | (with_reducible apply txOuts_keeps) | (with_reducible apply keeps_ite) | (intro _) | split | (dsimp only))

theorem execTransmitSamples_keeps {pq : Kept} (t : Fin 4) (x : List IQ) (s : State) (hkp : Keeps pq s) : Ends (Keeps pq) (execTransmitSamples t x s) := by
  unfold execTransmitSamples
  repeat' (first | (with_reducible assumption) | (with_reducible apply transmitSamples_keeps) | (with_reducible apply ends_next) | (intro _) | split | (dsimp only))

theorem execLtCorrection_keeps {pq : Kept} (t : Fin 4) (c : IQ) (s : State) (hkp : Keeps pq s) : Ends (Keeps pq) (execLtCorrection t c s) := by
  unfold execLtCorrection
  repeat' (first | (with_reducible assumption) | (with_reducible apply State.setTxChain_keeps) | (with_reducible apply ends_next) | (with_reducible apply keeps_ite) | (intro _) | split | (dsimp only))

theorem execLtUnder_keeps {pq : Kept} (t : Fin 4) (s : State) (hkp : Keeps pq s) : Ends (Keeps pq) (execLtUnder t s) := by
  unfold execLtUnder
  repeat' (first | (with_reducible assumption) | (with_reducible apply State.addSat_keeps) | (with_reducible apply State.setTxChain_keeps) | (with_reducible apply ends_next) | (with_reducible apply keeps_ite) | (intro _) | split | (dsimp only))

theorem captureGo_keeps {pq : Kept} (a : Agent) (t : Nat) (v : Word) (s : State) (hkp : Keeps pq s) : Keeps pq (captureGo a t v s) := by
  unfold captureGo
  repeat' (first | (with_reducible assumption) | (with_reducible apply storeReg_keeps) | (with_reducible apply keeps_ite) | (intro _) | split | (dsimp only) | (with_reducible refine keeps_mk rfl rfl rfl rfl rfl ?_))

theorem execDpdCaptureGo_keeps {pq : Kept} (a : Agent) (t : Fin 4) (v : Word) (s : State) (hkp : Keeps pq s) : Ends (Keeps pq) (execDpdCaptureGo a t v s) := by
  unfold execDpdCaptureGo
  repeat' (first | (with_reducible assumption) | (with_reducible apply captureGo_keeps) | (with_reducible apply ends_next) | (intro _) | split | (dsimp only))

theorem execDpdCaptureStart_keeps {pq : Kept} (s : State) (hkp : Keeps pq s) : Ends (Keeps pq) (execDpdCaptureStart s) := by
  unfold execDpdCaptureStart
  repeat' (first | (with_reducible assumption) | (with_reducible apply ends_next) | (with_reducible apply keeps_ite) | (intro _) | split | (dsimp only) | (with_reducible refine keeps_mk rfl rfl rfl rfl rfl ?_))

theorem captureDone_keeps {pq : Kept} (x orx : List IQ) (s : State) (hkp : Keeps pq s) : Keeps pq (captureDone x orx s) := by
  unfold captureDone
  repeat' (first | (with_reducible assumption) | (with_reducible apply State.setFlag_keeps) | (with_reducible apply deviceWrite_keeps) | (with_reducible apply stepGain_keeps) | (with_reducible apply keeps_ite) | (with_reducible refine keeps_foldl ?_ _ ?_) | (intro _) | split | (dsimp only) | (with_reducible refine keeps_mk rfl rfl rfl rfl rfl ?_))

theorem execDpdCaptureDone_keeps {pq : Kept} (x orx : List IQ) (s : State) (hkp : Keeps pq s) : Ends (Keeps pq) (execDpdCaptureDone x orx s) := by
  unfold execDpdCaptureDone
  repeat' (first | (with_reducible assumption) | (with_reducible apply captureDone_keeps) | (with_reducible apply ends_next) | (intro _) | split | (dsimp only))

theorem writePraCtl_keeps {pq : Kept} (a : Agent) (c : Nat) (v : Word) (s : State) (hkp : Keeps pq s) : Keeps pq (writePraCtl a c v s) := by
  unfold writePraCtl
  repeat' (first | (with_reducible assumption) | (with_reducible apply State.setFlag_keeps) | (with_reducible apply State.setRadioCell_keeps) | (with_reducible apply storeReg_keeps) | (with_reducible apply keeps_ite) | (intro _) | split | (dsimp only))

theorem execPrachEnable_keeps {pq : Kept} (a : Agent) (c : Fin 4) (v : Word) (s : State) (hkp : Keeps pq s) : Ends (Keeps pq) (execPrachEnable a c v s) := by
  unfold execPrachEnable
  repeat' (first | (with_reducible assumption) | (with_reducible apply writePraCtl_keeps) | (with_reducible apply ends_next) | (intro _) | split | (dsimp only))

theorem prachOccasion_keeps {pq : Kept} (c : Nat) (s : State) (hkp : Keeps pq s) : Keeps pq (prachOccasion c s) := by
  unfold prachOccasion
  repeat' (first | (with_reducible assumption) | (with_reducible apply State.setRadioCell_keeps) | (with_reducible apply keeps_ite) | (intro _) | split | (dsimp only))

theorem execPrachOccasion_keeps {pq : Kept} (c : Fin 4) (s : State) (hkp : Keeps pq s) : Ends (Keeps pq) (execPrachOccasion c s) := by
  unfold execPrachOccasion
  repeat' (first | (with_reducible assumption) | (with_reducible apply prachOccasion_keeps) | (with_reducible apply ends_next) | (intro _) | split | (dsimp only))

theorem avgUpdate_keeps {pq : Kept} (c : Nat) (f : Int) (s : State) (hkp : Keeps pq s) : Keeps pq (avgUpdate c f s) := by
  unfold avgUpdate
  repeat' (first | (with_reducible assumption) | (with_reducible apply State.setRadioCell_keeps) | (intro _) | split | (dsimp only))

theorem putDetection_keeps {pq : Kept} (cell dnc : Nat) (p : Peak) (s : State) (hkp : Keeps pq s) : Keeps pq (putDetection cell dnc p s) := by
  unfold putDetection
  repeat' (first | (with_reducible assumption) | (with_reducible apply State.addSat_keeps) | (with_reducible apply State.addWrap_keeps) | (with_reducible apply State.setRadioCell_keeps) | (with_reducible apply avgUpdate_keeps) | (with_reducible apply deviceWrite_keeps) | (with_reducible apply keeps_ite) | (intro _) | split | (dsimp only))

theorem freezeByDetection_keeps {pq : Kept} (c : Nat) (s : State) (hkp : Keeps pq s) : Keeps pq (freezeByDetection c s) := by
  unfold freezeByDetection
  repeat' (first | (with_reducible assumption) | (with_reducible apply State.setFlag_keeps) | (with_reducible apply keeps_ite) | (with_reducible refine keeps_foldl ?_ _ ?_) | (intro _) | split | (dsimp only))

theorem preambleDetection_keeps {pq : Kept} (c : Nat) (peaks : List Peak) (s : State) (hkp : Keeps pq s) : Keeps pq (preambleDetection c peaks s) := by
  unfold preambleDetection
  repeat' (first | (with_reducible assumption) | (with_reducible apply State.setRadioCell_keeps) | (with_reducible apply freezeByDetection_keeps) | (with_reducible apply putDetection_keeps) | (with_reducible apply keeps_ite) | (with_reducible refine keeps_foldl ?_ _ ?_) | (intro _) | split | (dsimp only))

theorem execPreambleDetection_keeps {pq : Kept} (c : Fin 16) (peaks : List Peak) (s : State) (hkp : Keeps pq s) : Ends (Keeps pq) (execPreambleDetection c peaks s) := by
  unfold execPreambleDetection
  repeat' (first | (with_reducible assumption) | (with_reducible apply preambleDetection_keeps) | (with_reducible apply ends_next) | (intro _) | split | (dsimp only))

theorem monitorMeasurement_keeps {pq : Kept} (ch : Nat) (f : Int) (terr : Word) (s : State) (hkp : Keeps pq s) : Keeps pq (monitorMeasurement ch f terr s) := by
  unfold monitorMeasurement
  repeat' (first | (with_reducible assumption) | (with_reducible apply State.setRadioCell_keeps) | (with_reducible apply avgUpdate_keeps) | (with_reducible apply keeps_ite) | (intro _) | split | (dsimp only))

theorem execMonitorMeasurement_keeps {pq : Kept} (ch : Fin 5) (fofs terr : Word) (s : State) (hkp : Keeps pq s) : Ends (Keeps pq) (execMonitorMeasurement ch fofs terr s) := by
  unfold execMonitorMeasurement
  repeat' (first | (with_reducible assumption) | (with_reducible apply monitorMeasurement_keeps) | (with_reducible apply ends_next) | (intro _) | split | (dsimp only))

theorem synCorrection_keeps {pq : Kept} (s : State) (hkp : Keeps pq s) : Keeps pq (synCorrection s) := by
  unfold synCorrection
  repeat' (first | (with_reducible assumption) | (with_reducible apply State.emit_keeps) | (with_reducible apply State.setFld_keeps) | (with_reducible apply State.setRadioCell_keeps) | (with_reducible apply keeps_ite) | (intro _) | split | (dsimp only) | (with_reducible refine keeps_mk rfl rfl rfl rfl rfl ?_))

theorem cellStatusWrite_keeps {pq : Kept} (g : Nat) (s : State) (hkp : Keeps pq s) : Keeps pq (cellStatusWrite g s) := by
  unfold cellStatusWrite
  repeat' (first | (with_reducible assumption) | (with_reducible apply deviceWrite_keeps) | (with_reducible apply keeps_ite) | (with_reducible refine keeps_foldl ?_ _ ?_) | (intro _) | split | (dsimp only))

theorem radioStrobe_keeps {pq : Kept} (g : Nat) (s : State) (hkp : Keeps pq s) : Keeps pq (radioStrobe g s) := by
  unfold radioStrobe
  repeat' (first | (with_reducible assumption) | (with_reducible apply cellStatusWrite_keeps) | (with_reducible apply dpdStrobe_keeps) | (with_reducible apply synCorrection_keeps) | (with_reducible apply keeps_ite) | (with_reducible refine keeps_foldl ?_ _ ?_) | (intro _) | split | (dsimp only) | (with_reducible refine keeps_mk rfl rfl rfl rfl rfl ?_))

theorem writePdrBase_keeps {pq : Kept} (a : Agent) (off : Nat) (v : Word) (s : State) (hkp : Keeps pq s) : Keeps pq (writePdrBase a off v s) := by
  unfold writePdrBase
  repeat' (first | (with_reducible assumption) | (with_reducible apply storeReg_keeps) | (with_reducible apply keeps_ite) | (intro _) | split | (dsimp only) | (with_reducible refine keeps_mk rfl rfl rfl rfl rfl ?_))

end Sys2Proof.Machine
end

