-- ==== Sys2Proof/Laws/KeepFronthaul.lean ====
section
/-! SUPPORT. What the operations of Machine/Fronthaul.lean keep. -/

namespace Sys2Proof.Machine

theorem ctrUp_keeps {pq : Kept} (off : Nat) (s : State) (hkp : Keeps pq s) : Keeps pq (ctrUp off s) := by
  unfold ctrUp
  repeat' (first | (with_reducible assumption) | (with_reducible apply State.setReg_keeps) | (intro _) | split | (dsimp only))

theorem pairUp_keeps {pq : Kept} (lo hi n : Nat) (s : State) (hkp : Keeps pq s) : Keeps pq (pairUp lo hi n s) := by
  unfold pairUp
  repeat' (first | (with_reducible assumption) | (with_reducible apply State.setPair_keeps) | (intro _) | split | (dsimp only))

theorem setMac_keeps {pq : Kept} (i : Nat) (e : Option MacEnt) (s : State) (hkp : Keeps pq s) : Keeps pq (setMac i e s) := by
  unfold setMac
  repeat' (first | (with_reducible assumption) | (intro _) | split | (dsimp only) | (with_reducible refine keeps_mk rfl rfl rfl rfl rfl ?_))

theorem applyLearn_keeps {pq : Kept} (r : LearnReq) (s : State) (hkp : Keeps pq s) : Keeps pq (applyLearn r s) := by
  unfold applyLearn
  repeat' (first | (with_reducible assumption) | (with_reducible apply ctrUp_keeps) | (with_reducible apply event_keeps) | (with_reducible apply setMac_keeps) | (with_reducible apply keeps_ite) | (intro _) | split | (dsimp only))

theorem macLearn_keeps {pq : Kept} (s : State) (hkp : Keeps pq s) : Keeps pq (macLearn s) := by
  unfold macLearn
  repeat' (first | (with_reducible assumption) | (with_reducible apply applyLearn_keeps) | (intro _) | split | (dsimp only) | (with_reducible refine keeps_mk rfl rfl rfl rfl rfl ?_))

theorem execMacLearn_keeps {pq : Kept} (s : State) (hkp : Keeps pq s) : Ends (Keeps pq) (execMacLearn s) := by
  unfold execMacLearn
  repeat' (first | (with_reducible assumption) | (with_reducible apply macLearn_keeps) | (with_reducible apply ends_next) | (intro _) | split | (dsimp only))

theorem mapMac_keeps {pq : Kept} (f : MacEnt → Option MacEnt) (s : State) (hkp : Keeps pq s) : Keeps pq (mapMac f s) := by
  unfold mapMac
  repeat' (first | (with_reducible assumption) | (with_reducible apply setMac_keeps) | (with_reducible refine keeps_foldl ?_ _ ?_) | (intro _) | split | (dsimp only))

theorem macAgeing_keeps {pq : Kept} (s : State) (hkp : Keeps pq s) : Keeps pq (macAgeing s) := by
  unfold macAgeing
  repeat' (first | (with_reducible assumption) | (with_reducible apply mapMac_keeps) | (with_reducible apply keeps_ite) | (intro _) | split | (dsimp only))

theorem execMacAgeing_keeps {pq : Kept} (s : State) (hkp : Keeps pq s) : Ends (Keeps pq) (execMacAgeing s) := by
  unfold execMacAgeing
  repeat' (first | (with_reducible assumption) | (with_reducible apply macAgeing_keeps) | (with_reducible apply ends_next) | (intro _) | split | (dsimp only))

theorem dropDynamic_keeps {pq : Kept} (p : Nat) (s : State) (hkp : Keeps pq s) : Keeps pq (dropDynamic p s) := by
  unfold dropDynamic
  repeat' (first | (with_reducible assumption) | (with_reducible apply mapMac_keeps) | (with_reducible apply keeps_ite) | (intro _) | split | (dsimp only))

theorem macRead_keeps {pq : Kept} (i : Nat) (s : State) (hkp : Keeps pq s) : Keeps pq (macRead i s) := by
  unfold macRead
  repeat' (first | (with_reducible assumption) | (with_reducible apply State.setReg_keeps) | (intro _) | split | (dsimp only))

theorem macWrite_keeps {pq : Kept} (i : Nat) (s : State) (hkp : Keeps pq s) : Keeps pq (macWrite i s) := by
  unfold macWrite
  repeat' (first | (with_reducible assumption) | (with_reducible apply setMac_keeps) | (with_reducible apply keeps_ite) | (intro _) | split | (dsimp only))

theorem writeMacCmd_keeps {pq : Kept} (a : Agent) (v : Word) (s : State) (hkp : Keeps pq s) : Keeps pq (writeMacCmd a v s) := by
  unfold writeMacCmd
  repeat' (first | (with_reducible assumption) | (with_reducible apply State.setFlag_keeps) | (with_reducible apply dropDynamic_keeps) | (with_reducible apply macLearn_keeps) | (with_reducible apply macRead_keeps) | (with_reducible apply macWrite_keeps) | (with_reducible apply setMac_keeps) | (with_reducible apply storeReg_keeps) | (with_reducible apply keeps_ite) | (with_reducible refine keeps_foldl ?_ _ ?_) | (intro _) | split | (dsimp only))

theorem execMacRead_keeps {pq : Kept} (a : Agent) (v : Word) (s : State) (hkp : Keeps pq s) : Ends (Keeps pq) (execMacRead a v s) := by
  unfold execMacRead
  repeat' (first | (with_reducible assumption) | (with_reducible apply writeMacCmd_keeps) | (with_reducible apply ends_next) | (intro _) | split | (dsimp only))

theorem execMacWrite_keeps {pq : Kept} (a : Agent) (v : Word) (s : State) (hkp : Keeps pq s) : Ends (Keeps pq) (execMacWrite a v s) := by
  unfold execMacWrite
  repeat' (first | (with_reducible assumption) | (with_reducible apply writeMacCmd_keeps) | (with_reducible apply ends_next) | (intro _) | split | (dsimp only))

theorem execMacInvalidate_keeps {pq : Kept} (a : Agent) (v : Word) (s : State) (hkp : Keeps pq s) : Ends (Keeps pq) (execMacInvalidate a v s) := by
  unfold execMacInvalidate
  repeat' (first | (with_reducible assumption) | (with_reducible apply writeMacCmd_keeps) | (with_reducible apply ends_next) | (intro _) | split | (dsimp only))

theorem execFlushPort_keeps {pq : Kept} (a : Agent) (v : Word) (s : State) (hkp : Keeps pq s) : Ends (Keeps pq) (execFlushPort a v s) := by
  unfold execFlushPort
  repeat' (first | (with_reducible assumption) | (with_reducible apply writeMacCmd_keeps) | (with_reducible apply ends_next) | (intro _) | split | (dsimp only))

theorem intDrop_keeps {pq : Kept} (i : Nat) (s : State) (hkp : Keeps pq s) : Keeps pq (intDrop i s) := by
  unfold intDrop
  repeat' (first | (with_reducible assumption) | (with_reducible apply ctrUp_keeps) | (intro _) | split | (dsimp only))

theorem endTx_keeps {pq : Kept} (f : FhFrame) (status detail : Nat) (s : State) (hkp : Keeps pq s) : Keeps pq (endTx f status detail s) := by
  unfold endTx
  repeat' (first | (with_reducible assumption) | (with_reducible apply finish_keeps) | (intro _) | split | (dsimp only))

theorem linkDrop_keeps {pq : Kept} (p : Nat) (f : FhFrame) (s : State) (hkp : Keeps pq s) : Keeps pq (linkDrop p f s) := by
  unfold linkDrop
  repeat' (first | (with_reducible assumption) | (with_reducible apply ctrUp_keeps) | (with_reducible apply endTx_keeps) | (with_reducible apply tsNotSent_keeps) | (intro _) | split | (dsimp only))

theorem enqueueFrame_keeps {pq : Kept} (p q : Nat) (f : FhFrame) (s : State) (hkp : Keeps pq s) : Keeps pq (enqueueFrame p q f s) := by
  unfold enqueueFrame
  repeat' (first | (with_reducible assumption) | (with_reducible apply State.addSat_keeps) | (with_reducible apply endTx_keeps) | (with_reducible apply linkDrop_keeps) | (with_reducible apply setFrames_keeps) | (with_reducible apply tsNotSent_keeps) | (with_reducible apply keeps_ite) | (intro _) | split | (dsimp only))

theorem internalPut_keeps {pq : Kept} (q : List (List Byte)) (room : Nat) (x : FhIn) (s : State) (hkp : Keeps pq s) : Keeps pq (internalPut q room x s).2 := by
  unfold internalPut
  repeat' (first | (with_reducible assumption) | (with_reducible apply State.draw_keeps) | (with_reducible apply keeps_ite) | (intro _) | split | (with_reducible refine keeps_snd (by assumption) ?_) | (dsimp only))

theorem hostPut_keeps {pq : Kept} (f : Nat) (x : FhIn) (s : State) (hkp : Keeps pq s) : Keeps pq (hostPut f x s) := by
  unfold hostPut
  repeat' (first | (with_reducible assumption) | (with_reducible apply failItem_keeps) | (with_reducible apply finish_keeps) | (with_reducible apply intDrop_keeps) | (with_reducible apply markStarted_keeps) | (with_reducible apply updItem_keeps) | (with_reducible apply vaWrite_keeps) | (with_reducible apply keeps_ite) | (intro _) | split | (with_reducible refine keeps_fst (by assumption) ?_) | (with_reducible refine keeps_fst3 (by assumption) ?_) | (dsimp only))

theorem deliver_keeps {pq : Kept} (d f : Nat) (x : FhIn) (s : State) (hkp : Keeps pq s) : Keeps pq (deliver d f x s) := by
  unfold deliver
  repeat' (first | (with_reducible assumption) | (with_reducible apply enqueueFrame_keeps) | (with_reducible apply hostPut_keeps) | (with_reducible apply intDrop_keeps) | (with_reducible apply internalPut_keeps) | (with_reducible apply keeps_ite) | (intro _) | split | (with_reducible refine keeps_snd (by assumption) ?_) | (dsimp only) | (with_reducible refine keeps_mk rfl rfl rfl rfl rfl ?_))

theorem forward_keeps {pq : Kept} (x : FhIn) (s : State) (hkp : Keeps pq s) : Keeps pq (forward x s) := by
  unfold forward
  repeat' (first | (with_reducible assumption) | (with_reducible apply deliver_keeps) | (with_reducible apply keeps_ite) | (with_reducible refine keeps_foldl ?_ _ ?_) | (intro _) | split | (dsimp only))

theorem classify_keeps {pq : Kept} (port : Nat) (bytes : List Byte) (time : Option Tod) (s : State) (hkp : Keeps pq s) : Keeps pq (classify port bytes time s).2.2 := by
  unfold classify
  repeat' (first | (with_reducible assumption) | (with_reducible apply State.draw_keeps) | (with_reducible apply keeps_ite) | (intro _) | split | (with_reducible refine keeps_snd (by assumption) ?_) | (dsimp only))

theorem openPosition_keeps {pq : Kept} (x : Section) (s : State) (hkp : Keeps pq s) : Keeps pq (openPosition x s) := by
  unfold openPosition
  repeat' (first | (with_reducible assumption) | (with_reducible apply deviceWrite_keeps) | (with_reducible apply noteErr_keeps) | (with_reducible apply vaRead_keeps) | (with_reducible apply keeps_ite) | (intro _) | split | (with_reducible refine keeps_fst (by assumption) ?_) | (with_reducible refine keeps_fst3 (by assumption) ?_) | (dsimp only))

theorem storePrbs_keeps {pq : Kept} (x : Section) (ds : List (List Byte)) :
    ∀ (prb : Nat) (s : State), Keeps pq s → Keeps pq (storePrbs x prb ds s).1 := by
  induction ds with
  | nil => intro prb s h; exact h
  | cons d rest ih =>
    intro prb s h
    unfold storePrbs
    split
    · exact keeps_fst (by assumption) (vaWrite_keeps _ _ _ _ h)
    · exact ih _ _ (keeps_fst (by assumption) (vaWrite_keeps _ _ _ _ h))

theorem storeSection_keeps {pq : Kept} (x : Section) (s : State) (hkp : Keeps pq s) : Keeps pq (storeSection x s) := by
  unfold storeSection
  repeat' (first | (with_reducible assumption) | (with_reducible apply ctrUp_keeps) | (with_reducible apply deviceWrite_keeps) | (with_reducible apply noteErr_keeps) | (with_reducible apply openPosition_keeps) | (with_reducible apply storePrbs_keeps) | (with_reducible apply vaRead_keeps) | (intro _) | split | (with_reducible refine keeps_fst (by assumption) ?_) | (with_reducible refine keeps_fst3 (by assumption) ?_) | (dsimp only))

theorem sectErr_keeps {pq : Kept} (s : State) (hkp : Keeps pq s) : Keeps pq (sectErr s) := by
  unfold sectErr
  repeat' (first | (with_reducible assumption) | (with_reducible apply ctrUp_keeps) | (intro _) | split | (dsimp only))

theorem takeSections_keeps {pq : Kept} (i slot fuel : Nat) :
    ∀ (sym0 : Nat) (x : List Byte) (s : State), Keeps pq s → Keeps pq (takeSections i slot fuel sym0 x s) := by
  induction fuel with
  | zero => intro sym0 x s h; exact h
  | succ m ih =>
    intro sym0 x s h
    unfold takeSections
    repeat' (first | (with_reducible assumption) | (with_reducible apply ih) | (with_reducible apply sectErr_keeps) | (with_reducible apply storeSection_keeps) | (with_reducible refine keeps_ite ?_ ?_) | (intro _) | split | (dsimp only))

theorem takeUplink_keeps {pq : Kept} (i : Nat) (f : List Byte) (s : State) (hkp : Keeps pq s) : Keeps pq (takeUplink i f s) := by
  unfold takeUplink
  repeat' (first | (with_reducible assumption) | (with_reducible apply sectErr_keeps) | (with_reducible apply takeSections_keeps) | (with_reducible apply keeps_ite) | (intro _) | split | (dsimp only))

theorem takeFlow_keeps {pq : Kept} (x : FhIn) (s : State) (hkp : Keeps pq s) : Keeps pq (takeFlow x s) := by
  unfold takeFlow
  repeat' (first | (with_reducible assumption) | (with_reducible apply ctrUp_keeps) | (with_reducible apply deliver_keeps) | (with_reducible apply takeUplink_keeps) | (with_reducible apply keeps_ite) | (intro _) | split | (dsimp only))

theorem askLearn_keeps {pq : Kept} (x : FhIn) (s : State) (hkp : Keeps pq s) : Keeps pq (askLearn x s) := by
  unfold askLearn
  repeat' (first | (with_reducible assumption) | (with_reducible apply ctrUp_keeps) | (with_reducible apply keeps_ite) | (intro _) | split | (dsimp only) | (with_reducible refine keeps_mk rfl rfl rfl rfl rfl ?_))

theorem notePdelay_keeps {pq : Kept} (p : Nat) (f : List Byte) (t : Tod) (s : State) (hkp : Keeps pq s) : Keeps pq (notePdelay p f t s) := by
  unfold notePdelay
  repeat' (first | (with_reducible assumption) | (with_reducible apply State.setFp_keeps) | (with_reducible apply keeps_ite) | (intro _) | split | (dsimp only))

theorem frameReceive_keeps {pq : Kept} (p : Nat) (bytes : List Byte) (s : State) (hkp : Keeps pq s) : Keeps pq (frameReceive p bytes s) := by
  unfold frameReceive
  repeat' (first | (with_reducible assumption) | (with_reducible apply askLearn_keeps) | (with_reducible apply classify_keeps) | (with_reducible apply ctrUp_keeps) | (with_reducible apply forward_keeps) | (with_reducible apply notePdelay_keeps) | (with_reducible apply pairUp_keeps) | (with_reducible apply takeFlow_keeps) | (with_reducible apply keeps_ite) | (intro _) | split | (with_reducible refine keeps_trd (by assumption) ?_) | (dsimp only))

theorem execFrameReceive_keeps {pq : Kept} (p : Fin 8) (bytes : List Byte) (s : State) (hkp : Keeps pq s) : Ends (Keeps pq) (execFrameReceive p bytes s) := by
  unfold execFrameReceive
  repeat' (first | (with_reducible assumption) | (with_reducible apply frameReceive_keeps) | (with_reducible apply ends_next) | (intro _) | split | (dsimp only))

theorem internalFrame_keeps {pq : Kept} (port : Nat) (bytes : List Byte) (s : State) (hkp : Keeps pq s) : Keeps pq (internalFrame port bytes s) := by
  unfold internalFrame
  repeat' (first | (with_reducible assumption) | (with_reducible apply classify_keeps) | (with_reducible apply forward_keeps) | (intro _) | split | (with_reducible refine keeps_trd (by assumption) ?_) | (dsimp only))

theorem cloisterPortFrame_keeps {pq : Kept} (bytes : List Byte) (s : State) (hkp : Keeps pq s) : Keeps pq (cloisterPortFrame bytes s) := by
  unfold cloisterPortFrame
  repeat' (first | (with_reducible assumption) | (with_reducible apply enqueueFrame_keeps) | (with_reducible apply internalFrame_keeps) | (with_reducible apply keeps_ite) | (intro _) | split | (dsimp only))

theorem execCloisterPortFrame_keeps {pq : Kept} (bytes : List Byte) (s : State) (hkp : Keeps pq s) : Ends (Keeps pq) (execCloisterPortFrame bytes s) := by
  unfold execCloisterPortFrame
  repeat' (first | (with_reducible assumption) | (with_reducible apply cloisterPortFrame_keeps) | (with_reducible apply ends_next) | (intro _) | split | (dsimp only))

theorem frameTxSubmit_keeps {pq : Kept} (it : RItem) (s : State) (hkp : Keeps pq s) : Keeps pq (frameTxSubmit it s) := by
  unfold frameTxSubmit
  repeat' (first | (with_reducible assumption) | (with_reducible apply enqueueFrame_keeps) | (with_reducible apply failItem_keeps) | (with_reducible apply finish_keeps) | (with_reducible apply internalFrame_keeps) | (with_reducible apply vaRead_keeps) | (with_reducible apply keeps_ite) | (intro _) | split | (with_reducible refine keeps_fst (by assumption) ?_) | (with_reducible refine keeps_fst3 (by assumption) ?_) | (dsimp only))

theorem execFrameTx_keeps {pq : Kept} (f : Fin 17) (q : Fin 8) (s : State) (hkp : Keeps pq s) : Ends (Keeps pq) (execFrameTx f q s) := by
  unfold execFrameTx
  repeat' (first | (with_reducible assumption) | (with_reducible apply frameTxSubmit_keeps) | (with_reducible apply onItem_keeps) | (with_reducible apply ends_next) | (intro _) | split | (dsimp only))

theorem rxPostSubmit_keeps {pq : Kept} (it : RItem) (s : State) (hkp : Keeps pq s) : Keeps pq (rxPostSubmit it s) := by
  unfold rxPostSubmit
  repeat' (first | (with_reducible assumption) | (with_reducible apply finish_keeps) | (with_reducible apply keeps_ite) | (intro _) | split | (dsimp only))

theorem execRxPost_keeps {pq : Kept} (f : Fin 17) (q : Fin 8) (s : State) (hkp : Keeps pq s) : Ends (Keeps pq) (execRxPost f q s) := by
  unfold execRxPost
  repeat' (first | (with_reducible assumption) | (with_reducible apply onItem_keeps) | (with_reducible apply rxPostSubmit_keeps) | (with_reducible apply ends_next) | (intro _) | split | (dsimp only))

theorem egressSelect_keeps {pq : Kept} (p : Nat) (s : State) (hkp : Keeps pq s) : Keeps pq (egressSelect p s) := by
  unfold egressSelect
  repeat' (first | (with_reducible assumption) | (with_reducible apply State.setFp_keeps) | (with_reducible apply State.setFq_keeps) | (with_reducible apply markStarted_keeps) | (with_reducible apply showQueue_keeps) | (with_reducible apply keeps_ite) | (intro _) | split | (dsimp only))

theorem execEgressSelect_keeps {pq : Kept} (p : Fin 8) (s : State) (hkp : Keeps pq s) : Ends (Keeps pq) (execEgressSelect p s) := by
  unfold execEgressSelect
  repeat' (first | (with_reducible assumption) | (with_reducible apply egressSelect_keeps) | (with_reducible apply ends_next) | (intro _) | split | (dsimp only))

theorem frameTxEnd_keeps {pq : Kept} (p : Nat) (s : State) (hkp : Keeps pq s) : Keeps pq (frameTxEnd p s) := by
  unfold frameTxEnd
  repeat' (first | (with_reducible assumption) | (with_reducible apply State.emit_keeps) | (with_reducible apply State.setFp_keeps) | (with_reducible apply ctrUp_keeps) | (with_reducible apply endTx_keeps) | (with_reducible apply pairUp_keeps) | (with_reducible apply tsEntry_keeps) | (with_reducible apply keeps_ite) | (intro _) | split | (dsimp only))

theorem execFrameTxEnd_keeps {pq : Kept} (p : Fin 8) (s : State) (hkp : Keeps pq s) : Ends (Keeps pq) (execFrameTxEnd p s) := by
  unfold execFrameTxEnd
  repeat' (first | (with_reducible assumption) | (with_reducible apply frameTxEnd_keeps) | (with_reducible apply ends_next) | (intro _) | split | (dsimp only))

theorem refillQueue_keeps {pq : Kept} (p q : Nat) (s : State) (hkp : Keeps pq s) : Keeps pq (refillQueue p q s) := by
  unfold refillQueue
  repeat' (first | (with_reducible assumption) | (with_reducible apply State.setFq_keeps) | (with_reducible apply showQueue_keeps) | (with_reducible apply wakeQueue_keeps) | (with_reducible apply keeps_ite) | (intro _) | split | (dsimp only))

theorem shaperRefill_keeps {pq : Kept} (s : State) (hkp : Keeps pq s) : Keeps pq (shaperRefill s) := by
  unfold shaperRefill
  repeat' (first | (with_reducible assumption) | (with_reducible apply refillQueue_keeps) | (with_reducible refine keeps_foldl ?_ _ ?_) | (intro _) | split | (dsimp only))

theorem execShaperRefill_keeps {pq : Kept} (s : State) (hkp : Keeps pq s) : Ends (Keeps pq) (execShaperRefill s) := by
  unfold execShaperRefill
  repeat' (first | (with_reducible assumption) | (with_reducible apply shaperRefill_keeps) | (with_reducible apply ends_next) | (intro _) | split | (dsimp only))

theorem markLost_keeps {pq : Kept} (p : Nat) (s : State) (hkp : Keeps pq s) : Keeps pq (markLost p s) := by
  unfold markLost
  repeat' (first | (with_reducible assumption) | (with_reducible apply State.setCell_keeps) | (with_reducible apply keeps_ite) | (with_reducible refine keeps_foldl ?_ _ ?_) | (intro _) | split | (dsimp only))

theorem dropFrames_keeps {pq : Kept} (p : Nat) (s : State) (hkp : Keeps pq s) : Keeps pq (dropFrames p s) := by
  unfold dropFrames
  repeat' (first | (with_reducible assumption) | (with_reducible apply State.setFp_keeps) | (with_reducible apply linkDrop_keeps) | (with_reducible apply setFrames_keeps) | (with_reducible refine keeps_foldl ?_ _ ?_) | (intro _) | split | (dsimp only))

theorem fhLinkLost_keeps {pq : Kept} (p : Nat) (s : State) (hkp : Keeps pq s) : Keeps pq (fhLinkLost p s) := by
  unfold fhLinkLost
  repeat' (first | (with_reducible assumption) | (with_reducible apply State.setFlag_keeps) | (with_reducible apply dropDynamic_keeps) | (with_reducible apply dropFrames_keeps) | (with_reducible apply event_keeps) | (with_reducible apply markLost_keeps) | (with_reducible apply keeps_ite) | (intro _) | split | (dsimp only))

theorem execFhLinkLost_keeps {pq : Kept} (p : Fin 8) (s : State) (hkp : Keeps pq s) : Ends (Keeps pq) (execFhLinkLost p s) := by
  unfold execFhLinkLost
  repeat' (first | (with_reducible assumption) | (with_reducible apply fhLinkLost_keeps) | (with_reducible apply ends_next) | (intro _) | split | (dsimp only))

theorem fhLinkUp_keeps {pq : Kept} (p : Nat) (s : State) (hkp : Keeps pq s) : Keeps pq (fhLinkUp p s) := by
  unfold fhLinkUp
  repeat' (first | (with_reducible assumption) | (with_reducible apply State.setFlag_keeps) | (with_reducible apply keeps_ite) | (intro _) | split | (dsimp only))

theorem execFhLinkUp_keeps {pq : Kept} (p : Fin 8) (s : State) (hkp : Keeps pq s) : Ends (Keeps pq) (execFhLinkUp p s) := by
  unfold execFhLinkUp
  repeat' (first | (with_reducible assumption) | (with_reducible apply fhLinkUp_keeps) | (with_reducible apply ends_next) | (intro _) | split | (dsimp only))

theorem writeFhsCtl_keeps {pq : Kept} (a : Agent) (v : Word) (s : State) (hkp : Keeps pq s) : Keeps pq (writeFhsCtl a v s) := by
  unfold writeFhsCtl
  repeat' (first | (with_reducible assumption) | (with_reducible apply fhLinkLost_keeps) | (with_reducible apply storeReg_keeps) | (with_reducible apply keeps_ite) | (with_reducible refine keeps_foldl ?_ _ ?_) | (intro _) | split | (dsimp only))

theorem writeFhPortCtl_keeps {pq : Kept} (a : Agent) (p : Nat) (v : Word) (s : State) (hkp : Keeps pq s) : Keeps pq (writeFhPortCtl a p v s) := by
  unfold writeFhPortCtl
  repeat' (first | (with_reducible assumption) | (with_reducible apply fhLinkLost_keeps) | (with_reducible apply storeReg_keeps) | (with_reducible apply keeps_ite) | (intro _) | split | (dsimp only))

theorem writeQuadCfg_keeps {pq : Kept} (a : Agent) (quad : Nat) (v : Word) (s : State) (hkp : Keeps pq s) : Keeps pq (writeQuadCfg a quad v s) := by
  unfold writeQuadCfg
  repeat' (first | (with_reducible assumption) | (with_reducible apply State.setFlag_keeps) | (with_reducible apply storeReg_keeps) | (with_reducible apply keeps_ite) | (intro _) | split | (dsimp only))

theorem execQuadConfigWrite_keeps {pq : Kept} (a : Agent) (quad : Fin 2) (v : Word) (s : State) (hkp : Keeps pq s) : Ends (Keeps pq) (execQuadConfigWrite a quad v s) := by
  unfold execQuadConfigWrite
  repeat' (first | (with_reducible assumption) | (with_reducible apply writeQuadCfg_keeps) | (with_reducible apply ends_next) | (intro _) | split | (dsimp only))

theorem writeQueueBuf_keeps {pq : Kept} (a : Agent) (p q : Nat) (v : Word) (s : State) (hkp : Keeps pq s) : Keeps pq (writeQueueBuf a p q v s) := by
  unfold writeQueueBuf
  repeat' (first | (with_reducible assumption) | (with_reducible apply State.setFlag_keeps) | (with_reducible apply storeReg_keeps) | (with_reducible apply keeps_ite) | (intro _) | split | (dsimp only))

theorem execQueueBufWrite_keeps {pq : Kept} (a : Agent) (p : Fin 8) (q : Fin 8) (v : Word) (s : State) (hkp : Keeps pq s) : Ends (Keeps pq) (execQueueBufWrite a p q v s) := by
  unfold execQueueBufWrite
  repeat' (first | (with_reducible assumption) | (with_reducible apply writeQueueBuf_keeps) | (with_reducible apply ends_next) | (intro _) | split | (dsimp only))

theorem writePeak_keeps {pq : Kept} (a : Agent) (p q : Nat) (v : Word) (s : State) (hkp : Keeps pq s) : Keeps pq (writePeak a p q v s) := by
  unfold writePeak
  repeat' (first | (with_reducible assumption) | (with_reducible apply showQueue_keeps) | (with_reducible apply storeReg_keeps) | (intro _) | split | (dsimp only))

end Sys2Proof.Machine
end

