-- ==== Sys2Proof/Laws/KeepMemory.lean ====
section
/-! SUPPORT. What the operations of Machine/Memory.lean keep. -/

namespace Sys2Proof.Machine

theorem chanError_keeps {pq : Kept} (c status detail : Nat) (s : State) (hkp : Keeps pq s) : Keeps pq (chanError c status detail s) := by
  unfold chanError
  repeat' (first | (with_reducible assumption) | (with_reducible apply chanEnd_keeps) | (with_reducible apply keeps_ite) | (intro _) | split | (dsimp only))

theorem uncorrectable_keeps {pq : Kept} (block : Nat) (s : State) (hkp : Keeps pq s) : Keeps pq (uncorrectable block s) := by
  unfold uncorrectable
  repeat' (first | (with_reducible assumption) | (with_reducible apply State.addSat_keeps) | (with_reducible apply State.setReg_keeps) | (with_reducible apply event_keeps) | (with_reducible apply setPoison_keeps) | (with_reducible apply keeps_ite) | (intro _) | split | (dsimp only))

theorem corrected_keeps {pq : Kept} (block : Nat) (s : State) (hkp : Keeps pq s) : Keeps pq (corrected block s) := by
  unfold corrected
  repeat' (first | (with_reducible assumption) | (with_reducible apply State.addSat_keeps) | (with_reducible apply event_keeps) | (with_reducible apply keeps_ite) | (intro _) | split | (dsimp only) | (with_reducible refine keeps_mk rfl rfl rfl rfl rfl ?_))

theorem hbmRead_keeps {pq : Kept} (block symbols ch : Nat) (s : State) (hkp : Keeps pq s) : Keeps pq (hbmRead block symbols ch s) := by
  unfold hbmRead
  repeat' (first | (with_reducible assumption) | (with_reducible apply State.draw_keeps) | (with_reducible apply chanError_keeps) | (with_reducible apply corrected_keeps) | (with_reducible apply uncorrectable_keeps) | (with_reducible apply keeps_ite) | (intro _) | split | (with_reducible refine keeps_snd (by assumption) ?_) | (dsimp only))

theorem execHbmRead_keeps {pq : Kept} (block : BitVec 32) (symbols : Fin 65) (agent : Fin 192) (s : State) (hkp : Keeps pq s) : Ends (Keeps pq) (execHbmRead block symbols agent s) := by
  unfold execHbmRead
  repeat' (first | (with_reducible assumption) | (with_reducible apply hbmRead_keeps) | (with_reducible apply ends_next) | (intro _) | split | (dsimp only))

theorem hbmWrite_keeps {pq : Kept} (pa : Nat) (data : List Byte) (badMerge : Bool) (ch : Nat) (s : State) (hkp : Keeps pq s) : Keeps pq (hbmWrite pa data badMerge ch s) := by
  unfold hbmWrite
  repeat' (first | (with_reducible assumption) | (with_reducible apply chanError_keeps) | (with_reducible apply uncorrectable_keeps) | (with_reducible refine blockWrite_keeps _ _ _ _ ?_ (by assumption)) | (with_reducible apply keeps_ite) | (intro _) | split | (dsimp only))

theorem execHbmWrite_keeps {pq : Kept} (addr : BitVec 37) (data : List Byte) (badMerge : Bool) (agent : Fin 192) (s : State) (hkp : Keeps pq s) : Ends (Keeps pq) (execHbmWrite addr data badMerge agent s) := by
  unfold execHbmWrite
  repeat' (first | (with_reducible assumption) | (with_reducible apply hbmWrite_keeps) | (with_reducible apply ends_next) | (intro _) | split | (dsimp only))

theorem execHbmRefresh_keeps {pq : Kept} (block : BitVec 32) (s : State) (hkp : Keeps pq s) : Ends (Keeps pq) (execHbmRefresh block s) := by
  unfold execHbmRefresh
  repeat' (first | (with_reducible assumption) | (with_reducible apply corrected_keeps) | (with_reducible apply ends_next) | (intro _) | split | (dsimp only) | (with_reducible refine keeps_mk rfl rfl rfl rfl rfl ?_))

theorem hbmHotChange_keeps {pq : Kept} (st temp : Nat) (s : State) (hkp : Keeps pq s) : Keeps pq (hbmHotChange st temp s) := by
  unfold hbmHotChange
  repeat' (first | (with_reducible assumption) | (with_reducible apply State.setFld_keeps) | (with_reducible apply keeps_ite) | (intro _) | split | (dsimp only))

theorem execHbmHotChange_keeps {pq : Kept} (stack : Fin 8) (temp : BitVec 8) (s : State) (hkp : Keeps pq s) : Ends (Keeps pq) (execHbmHotChange stack temp s) := by
  unfold execHbmHotChange
  repeat' (first | (with_reducible assumption) | (with_reducible apply hbmHotChange_keeps) | (with_reducible apply ends_next) | (intro _) | split | (dsimp only))

theorem setLine_keeps {pq : Kept} (l : Nat) (x : CacheLine) (s : State) (hkp : Keeps pq s) : Keeps pq (setLine l x s) := by
  unfold setLine
  repeat' (first | (with_reducible assumption) | (intro _) | split | (dsimp only) | (with_reducible refine keeps_mk rfl rfl rfl rfl rfl ?_))

theorem dropLine_keeps {pq : Kept} (l : Nat) (s : State) (hkp : Keeps pq s) : Keeps pq (dropLine l s) := by
  unfold dropLine
  repeat' (first | (with_reducible assumption) | (intro _) | split | (dsimp only) | (with_reducible refine keeps_mk rfl rfl rfl rfl rfl ?_))

theorem useClock_keeps {pq : Kept} (s : State) (hkp : Keeps pq s) : Keeps pq (useClock s).2 := by
  unfold useClock
  repeat' (first | (with_reducible assumption) | (intro _) | split | (dsimp only) | (with_reducible refine keeps_mk rfl rfl rfl rfl rfl ?_))

theorem countTc_keeps {pq : Kept} (off : Nat → Nat) (l : Nat) (s : State) (hkp : Keeps pq s) : Keeps pq (countTc off l s) := by
  unfold countTc
  repeat' (first | (with_reducible assumption) | (with_reducible apply State.setReg_keeps) | (intro _) | split | (dsimp only))

theorem allocLine_keeps {pq : Kept} (l space : Nat) (dirty : Bool) (s : State) (hkp : Keeps pq s) : Keeps pq (allocLine l space dirty s) := by
  unfold allocLine
  repeat' (first | (with_reducible assumption) | (with_reducible apply countTc_keeps) | (with_reducible apply dropLine_keeps) | (with_reducible apply setLine_keeps) | (with_reducible apply useClock_keeps) | (with_reducible apply keeps_ite) | (intro _) | split | (with_reducible refine keeps_snd (by assumption) ?_) | (dsimp only))

theorem cacheMiss_keeps {pq : Kept} (l : Nat) (q : CacheReq) (full : Bool) (s : State) (hkp : Keeps pq s) : Keeps pq (cacheMiss l q full s) := by
  unfold cacheMiss
  repeat' (first | (with_reducible assumption) | (with_reducible apply allocLine_keeps) | (with_reducible apply countTc_keeps) | (with_reducible apply keeps_ite) | (intro _) | split | (dsimp only) | (with_reducible refine keeps_mk rfl rfl rfl rfl rfl ?_))

theorem cacheAccess_keeps {pq : Kept} (pa : Nat) (q : CacheReq) (full badWord : Bool) (s : State) (hkp : Keeps pq s) : Keeps pq (cacheAccess pa q full badWord s) := by
  unfold cacheAccess
  repeat' (first | (with_reducible assumption) | (with_reducible apply State.addSat_keeps) | (with_reducible apply cacheMiss_keeps) | (with_reducible apply countTc_keeps) | (with_reducible apply dropLine_keeps) | (with_reducible apply event_keeps) | (with_reducible apply setLine_keeps) | (with_reducible apply setPoison_keeps) | (with_reducible apply useClock_keeps) | (with_reducible apply keeps_ite) | (intro _) | split | (with_reducible refine keeps_snd (by assumption) ?_) | (dsimp only))

theorem execCacheAccess_keeps {pq : Kept} (addr : BitVec 37) (space : Fin 17) (write full : Bool) (attr : CacheAttr) (badWord : Bool) (s : State) (hkp : Keeps pq s) : Ends (Keeps pq) (execCacheAccess addr space write full attr badWord s) := by
  unfold execCacheAccess
  repeat' (first | (with_reducible assumption) | (with_reducible apply cacheAccess_keeps) | (with_reducible apply ends_next) | (intro _) | split | (dsimp only))

theorem serveWaiting_keeps {pq : Kept} (slice : Nat) (s : State) (hkp : Keeps pq s) : Keeps pq (serveWaiting slice s) := by
  unfold serveWaiting
  repeat' (first | (with_reducible assumption) | (with_reducible apply cacheAccess_keeps) | (with_reducible refine keeps_foldl ?_ _ ?_) | (intro _) | split | (dsimp only) | (with_reducible refine keeps_mk rfl rfl rfl rfl rfl ?_))

theorem cacheFill_keeps {pq : Kept} (l : Nat) (s : State) (hkp : Keeps pq s) : Keeps pq (cacheFill l s) := by
  unfold cacheFill
  repeat' (first | (with_reducible assumption) | (with_reducible apply allocLine_keeps) | (with_reducible apply serveWaiting_keeps) | (intro _) | split | (dsimp only) | (with_reducible refine keeps_mk rfl rfl rfl rfl rfl ?_))

theorem execCacheFill_keeps {pq : Kept} (line : BitVec 30) (s : State) (hkp : Keeps pq s) : Ends (Keeps pq) (execCacheFill line s) := by
  unfold execCacheFill
  repeat' (first | (with_reducible assumption) | (with_reducible apply cacheFill_keeps) | (with_reducible apply ends_next) | (intro _) | split | (dsimp only))

theorem formPre_keeps {pq : Kept} (s : State) (hkp : Keeps pq s) : Keeps pq (formPre s) := by
  unfold formPre
  repeat' (first | (with_reducible assumption) | (with_reducible apply State.setFlag_keeps) | (with_reducible apply State.setFld_keeps) | (with_reducible apply State.setReg_keeps) | (with_reducible apply keeps_ite) | (with_reducible refine keeps_foldl ?_ _ ?_) | (intro _) | split | (dsimp only))

theorem writeSpillWays_keeps {pq : Kept} (a : Agent) (v : Word) (s : State) (hkp : Keeps pq s) : Keeps pq (writeSpillWays a v s) := by
  unfold writeSpillWays
  repeat' (first | (with_reducible assumption) | (with_reducible apply State.setFlag_keeps) | (with_reducible apply formPre_keeps) | (with_reducible apply storeReg_keeps) | (with_reducible apply keeps_ite) | (intro _) | split | (dsimp only))

theorem execSpillWaysWrite_keeps {pq : Kept} (a : Agent) (v : Word) (s : State) (hkp : Keeps pq s) : Ends (Keeps pq) (execSpillWaysWrite a v s) := by
  unfold execSpillWaysWrite
  repeat' (first | (with_reducible assumption) | (with_reducible apply writeSpillWays_keeps) | (with_reducible apply ends_next) | (intro _) | split | (dsimp only))

theorem writeRoleMask_keeps {pq : Kept} (a : Agent) (pre : Bool) (v : Word) (s : State) (hkp : Keeps pq s) : Keeps pq (writeRoleMask a pre v s) := by
  unfold writeRoleMask
  repeat' (first | (with_reducible assumption) | (with_reducible apply formPre_keeps) | (with_reducible apply storeReg_keeps) | (with_reducible apply keeps_ite) | (intro _) | split | (dsimp only))

theorem execNavRoleMaskWrite_keeps {pq : Kept} (a : Agent) (pre : Bool) (v : Word) (s : State) (hkp : Keeps pq s) : Ends (Keeps pq) (execNavRoleMaskWrite a pre v s) := by
  unfold execNavRoleMaskWrite
  repeat' (first | (with_reducible assumption) | (with_reducible apply writeRoleMask_keeps) | (with_reducible apply ends_next) | (intro _) | split | (dsimp only))

theorem translationWalk_keeps {pq : Kept} (space va : Nat) (write : Bool) (agent : Byte) (s : State) (hkp : Keeps pq s) : Keeps pq (translationWalk space va write agent s) := by
  unfold translationWalk
  repeat' (first | (with_reducible assumption) | (with_reducible apply noteErr_keeps) | (with_reducible apply translate_keeps) | (intro _) | split | (with_reducible refine keeps_fst (by assumption) ?_) | (with_reducible refine keeps_fst3 (by assumption) ?_) | (dsimp only))

theorem execTranslationWalk_keeps {pq : Kept} (space : Fin 17) (va : DWord) (write : Bool) (agent : Byte) (s : State) (hkp : Keeps pq s) : Ends (Keeps pq) (execTranslationWalk space va write agent s) := by
  unfold execTranslationWalk
  repeat' (first | (with_reducible assumption) | (with_reducible apply translationWalk_keeps) | (with_reducible apply ends_next) | (intro _) | split | (dsimp only))

theorem writeMmuInv_keeps {pq : Kept} (a : Agent) (v : Word) (s : State) (hkp : Keeps pq s) : Keeps pq (writeMmuInv a v s) := by
  unfold writeMmuInv
  repeat' (first | (with_reducible assumption) | (with_reducible apply State.setFlag_keeps) | (with_reducible apply storeReg_keeps) | (with_reducible apply keeps_ite) | (intro _) | split | (dsimp only) | (with_reducible refine keeps_mk rfl rfl rfl rfl rfl ?_))

theorem execMmuInvGo_keeps {pq : Kept} (a : Agent) (v : Word) (s : State) (hkp : Keeps pq s) : Ends (Keeps pq) (execMmuInvGo a v s) := by
  unfold execMmuInvGo
  repeat' (first | (with_reducible assumption) | (with_reducible apply writeMmuInv_keeps) | (with_reducible apply ends_next) | (intro _) | split | (dsimp only))

theorem mmuInvDone_keeps {pq : Kept} (s : State) (hkp : Keeps pq s) : Keeps pq (mmuInvDone s) := by
  unfold mmuInvDone
  repeat' (first | (with_reducible assumption) | (with_reducible apply State.setFlag_keeps) | (with_reducible apply State.setTlb_keeps) | (intro _) | split | (dsimp only) | (with_reducible refine keeps_mk rfl rfl rfl rfl rfl ?_))

theorem execMmuInvDone_keeps {pq : Kept} (s : State) (hkp : Keeps pq s) : Ends (Keeps pq) (execMmuInvDone s) := by
  unfold execMmuInvDone
  repeat' (first | (with_reducible assumption) | (with_reducible apply mmuInvDone_keeps) | (with_reducible apply ends_next) | (intro _) | split | (dsimp only))

theorem hostReadCompletion_keeps {pq : Kept} (addr : Nat) (r : HostRead) (ch : Nat) (s : State) (hkp : Keeps pq s) : Keeps pq (hostReadCompletion addr r ch s) := by
  unfold hostReadCompletion
  repeat' (first | (with_reducible assumption) | (with_reducible apply chanError_keeps) | (intro _) | split | (dsimp only) | (with_reducible refine keeps_mk rfl rfl rfl rfl rfl ?_) | (exact keeps_hostMem _ _ (by assumption)))

theorem execHostReadCompletion_keeps {pq : Kept} (addr : DWord) (r : HostRead) (ch : Fin 192) (s : State) (hkp : Keeps pq s) : Ends (Keeps pq) (execHostReadCompletion addr r ch s) := by
  unfold execHostReadCompletion
  repeat' (first | (with_reducible assumption) | (with_reducible apply hostReadCompletion_keeps) | (with_reducible apply ends_next) | (intro _) | split | (dsimp only))

theorem execHostReadTimeout_keeps {pq : Kept} (ch : Fin 192) (s : State) (hkp : Keeps pq s) : Ends (Keeps pq) (execHostReadTimeout ch s) := by
  unfold execHostReadTimeout
  repeat' (first | (with_reducible assumption) | (with_reducible apply chanError_keeps) | (with_reducible apply ends_next) | (intro _) | split | (dsimp only))

theorem selfRefreshEntry_keeps {pq : Kept} (s : State) (hkp : Keeps pq s) : Keeps pq (selfRefreshEntry s) := by
  unfold selfRefreshEntry
  repeat' (first | (with_reducible assumption) | (with_reducible apply State.setFld_keeps) | (with_reducible apply keeps_ite) | (intro _) | split | (dsimp only) | (with_reducible refine keeps_mk rfl rfl rfl rfl rfl ?_))

theorem execSelfRefreshEntry_keeps {pq : Kept} (s : State) (hkp : Keeps pq s) : Ends (Keeps pq) (execSelfRefreshEntry s) := by
  unfold execSelfRefreshEntry
  repeat' (first | (with_reducible assumption) | (with_reducible apply selfRefreshEntry_keeps) | (with_reducible apply ends_next) | (intro _) | split | (dsimp only))

theorem selfRefreshExit_keeps {pq : Kept} (s : State) (hkp : Keeps pq s) : Keeps pq (selfRefreshExit s) := by
  unfold selfRefreshExit
  repeat' (first | (with_reducible assumption) | (with_reducible apply State.setFld_keeps) | (with_reducible apply keeps_ite) | (intro _) | split | (dsimp only))

theorem execSelfRefreshExit_keeps {pq : Kept} (s : State) (hkp : Keeps pq s) : Ends (Keeps pq) (execSelfRefreshExit s) := by
  unfold execSelfRefreshExit
  repeat' (first | (with_reducible assumption) | (with_reducible apply selfRefreshExit_keeps) | (with_reducible apply ends_next) | (intro _) | split | (dsimp only))

end Sys2Proof.Machine
end

