-- ==== Sys2Proof/Laws/KeepSpokeLink.lean ====
section
/-! SUPPORT. What the operations of Machine/SpokeLink.lean keep. -/

namespace Sys2Proof.Machine

theorem emitFrame_keeps {pq : Kept} (p : Nat) (fr : SpkFrame) (s : State) (hkp : Keeps pq s) : Keeps pq (emitFrame p fr s) := by
  unfold emitFrame
  repeat' (first | (with_reducible assumption) | (with_reducible apply State.emit_keeps) | (with_reducible apply State.setPort_keeps) | (intro _) | split | (dsimp only))

theorem sendFrame_keeps {pq : Kept} (p : Nat) (s : State) (hkp : Keeps pq s) : Keeps pq (sendFrame p s) := by
  unfold sendFrame
  repeat' (first | (with_reducible assumption) | (with_reducible apply State.addWrap_keeps) | (with_reducible apply State.setPort_keeps) | (with_reducible apply emitFrame_keeps) | (with_reducible apply keeps_ite) | (intro _) | split | (dsimp only))

theorem takeHeader_keeps {pq : Kept} (p : Nat) (bs : List Byte) (s : State) (hkp : Keeps pq s) : Keeps pq (takeHeader p bs s) := by
  unfold takeHeader
  repeat' (first | (with_reducible assumption) | (with_reducible apply State.addSat_keeps) | (with_reducible apply State.addWrap_keeps) | (with_reducible apply State.setPort_keeps) | (with_reducible apply keeps_ite) | (intro _) | split | (dsimp only))

theorem takeFrame_keeps {pq : Kept} (p : Nat) (fecOk : Bool) (bs : List Byte) (s : State) (hkp : Keeps pq s) : Keeps pq (takeFrame p fecOk bs s) := by
  unfold takeFrame
  repeat' (first | (with_reducible assumption) | (with_reducible apply State.addSat_keeps) | (with_reducible apply State.setPort_keeps) | (with_reducible apply takeHeader_keeps) | (with_reducible apply keeps_ite) | (intro _) | split | (dsimp only))

end Sys2Proof.Machine
end

