-- ==== Sys2Proof/Laws/KeepColl.lean ====
section
/-! SUPPORT. What the operations of Machine/Coll.lean keep. -/

namespace Sys2Proof.Machine

theorem setRuns_keeps {pq : Kept} (l : List CollRun) (s : State) (hkp : Keeps pq s) : Keeps pq (setRuns l s) := by
  unfold setRuns
  repeat' (first | (with_reducible assumption) | (intro _) | split | (dsimp only) | (with_reducible refine keeps_mk rfl rfl rfl rfl rfl ?_))

theorem putRun_keeps {pq : Kept} (r : CollRun) (s : State) (hkp : Keeps pq s) : Keeps pq (putRun r s) := by
  unfold putRun
  repeat' (first | (with_reducible assumption) | (with_reducible apply setRuns_keeps) | (with_reducible apply keeps_ite) | (intro _) | split | (dsimp only))

theorem dropRun_keeps {pq : Kept} (item : Nat) (s : State) (hkp : Keeps pq s) : Keeps pq (dropRun item s) := by
  unfold dropRun
  repeat' (first | (with_reducible assumption) | (with_reducible apply setRuns_keeps) | (intro _) | split | (dsimp only))

theorem endRun_keeps {pq : Kept} (item status port reason : Nat) (s : State) (hkp : Keeps pq s) : Keeps pq (endRun item status port reason s) := by
  unfold endRun
  repeat' (first | (with_reducible assumption) | (with_reducible apply dropRun_keeps) | (with_reducible apply finish_keeps) | (intro _) | split | (dsimp only))

theorem failRun_keeps {pq : Kept} (r : CollRun) (e : AccErr) (s : State) (hkp : Keeps pq s) : Keeps pq (failRun r e s) := by
  unfold failRun
  repeat' (first | (with_reducible assumption) | (with_reducible apply dropRun_keeps) | (with_reducible apply failItem_keeps) | (intro _) | split | (dsimp only))

theorem sendMsg_keeps {pq : Kept} {t : State} (owner : Nat × Nat) (dst cls plane collId tag ofs check : Nat) (data : List Byte)
    (s : State) (h : Keeps pq s) (e : sendMsg owner dst cls plane collId tag ofs check data s = some t) : Keeps pq t := by
  unfold sendMsg at e
  rw [Option.map_eq_some_iff] at e
  obtain ⟨p, -, rfl⟩ := e
  dsimp only
  apply spkEnqueue_keeps
  split
  · exact keeps_of_same h rfl rfl rfl rfl rfl
  · exact h

theorem sendData_keeps {pq : Kept} {t : State} (owner : Nat × Nat) (dst cls plane collId tag check fuel : Nat) :
    ∀ (ofs : Nat) (bs : List Byte) (s : State), Keeps pq s →
      sendData owner dst cls plane collId tag check fuel ofs bs s = some t → Keeps pq t := by
  induction fuel with
  | zero => intro ofs bs s h e; cases e; exact h
  | succ m ih =>
    intro ofs bs s h e
    unfold sendData at e
    split at e
    · cases e; exact h
    · split at e
      · cases e
      · exact ih _ _ _ (sendMsg_keeps _ _ _ _ _ _ _ _ _ _ h (by assumption)) e

theorem sendAbort_keeps {pq : Kept} (members : List Nat) (collId reason : Nat) (s : State) (hkp : Keeps pq s) : Keeps pq (sendAbort members collId reason s) := by
  unfold sendAbort
  repeat' (first | (with_reducible assumption) | (with_reducible apply sendControl_keeps) | (with_reducible apply keeps_ite) | (with_reducible refine keeps_foldl ?_ _ ?_) | (intro _) | split | (dsimp only))

theorem abortMembers_keeps {pq : Kept} (r : CollRun) (reason : Nat) (s : State) (hkp : Keeps pq s) : Keeps pq (abortMembers r reason s) := by
  unfold abortMembers
  repeat' (first | (with_reducible assumption) | (with_reducible apply sendAbort_keeps) | (intro _) | split | (dsimp only))

theorem runSend_keeps {pq : Kept} (r : CollRun) (dst phase : Nat) (bs : List Byte) (s : State) (hkp : Keeps pq s) : Keeps pq (runSend r dst phase bs s) := by
  unfold runSend
  repeat' (first | (with_reducible assumption) | (with_reducible apply endRun_keeps) | (with_reducible refine sendData_keeps _ _ _ _ _ _ _ _ _ _ _ ?_ (by assumption)) | (intro _) | split | (dsimp only))

theorem runWrite_keeps {pq : Kept} (r : CollRun) (ofs : Nat) (bs : List Byte) (s : State) (hkp : Keeps pq s) : Keeps pq (runWrite r ofs bs s) := by
  unfold runWrite
  repeat' (first | (with_reducible assumption) | (with_reducible apply failRun_keeps) | (with_reducible apply updItem_keeps) | (with_reducible apply vaWrite_keeps) | (with_reducible apply keeps_ite) | (intro _) | split | (with_reducible refine keeps_fst (by assumption) ?_) | (with_reducible refine keeps_fst3 (by assumption) ?_) | (dsimp only))

theorem runSendAll_keeps {pq : Kept} (item phase : Nat) (f : Nat → List Byte) (dsts : List Nat) (s : State) (hkp : Keeps pq s) : Keeps pq (runSendAll item phase f dsts s) := by
  unfold runSendAll
  repeat' (first | (with_reducible assumption) | (with_reducible apply runSend_keeps) | (with_reducible refine keeps_foldl ?_ _ ?_) | (intro _) | split | (dsimp only))

theorem runRead_keeps {pq : Kept} (r : CollRun) (ofs n : Nat) (s : State) (k : List Byte → State → State) (h : Keeps pq s)
    (hk : ∀ bs s, Keeps pq s → Keeps pq (k bs s)) : Keeps pq (runRead r ofs n s k) := by
  unfold runRead
  split
  · exact failRun_keeps _ _ _ (keeps_fst (by assumption) (vaRead_keeps _ _ _ _ h))
  · exact hk _ _ (keeps_fst (by assumption) (vaRead_keeps _ _ _ _ h))

theorem runReduce_keeps {pq : Kept} (r : CollRun) (s : State) (hkp : Keeps pq s) : Keeps pq (runReduce r s) := by
  unfold runReduce
  repeat' (first | (with_reducible assumption) | (with_reducible apply putRun_keeps) | (with_reducible apply runRead_keeps) | (with_reducible apply runSendAll_keeps) | (with_reducible apply keeps_ite) | (intro _) | split | (dsimp only))

theorem runOwn_keeps {pq : Kept} (r : CollRun) (p : List Byte) (s : State) (hkp : Keeps pq s) : Keeps pq (runOwn r p s) := by
  unfold runOwn
  repeat' (first | (with_reducible assumption) | (with_reducible apply putRun_keeps) | (with_reducible apply runSendAll_keeps) | (with_reducible apply runWrite_keeps) | (with_reducible apply keeps_ite) | (intro _) | split | (dsimp only))

theorem runSubs_keeps {pq : Kept} (r : CollRun) (s : State) (hkp : Keeps pq s) : Keeps pq (runSubs r s) := by
  unfold runSubs
  repeat' (first | (with_reducible assumption) | (with_reducible apply putRun_keeps) | (with_reducible apply runWrite_keeps) | (with_reducible apply keeps_ite) | (intro _) | split | (dsimp only))

theorem runSpread_keeps {pq : Kept} (r : CollRun) (s : State) (hkp : Keeps pq s) : Keeps pq (runSpread r s) := by
  unfold runSpread
  repeat' (first | (with_reducible assumption) | (with_reducible apply putRun_keeps) | (with_reducible apply runRead_keeps) | (with_reducible apply runSendAll_keeps) | (intro _) | split | (dsimp only))

theorem runShards_keeps {pq : Kept} (r : CollRun) (s : State) (hkp : Keeps pq s) : Keeps pq (runShards r s) := by
  unfold runShards
  repeat' (first | (with_reducible assumption) | (with_reducible apply putRun_keeps) | (with_reducible apply runWrite_keeps) | (with_reducible apply keeps_ite) | (intro _) | split | (dsimp only))

theorem runCast_keeps {pq : Kept} (r : CollRun) (bs : List Byte) (s : State) (hkp : Keeps pq s) : Keeps pq (runCast r bs s) := by
  unfold runCast
  repeat' (first | (with_reducible assumption) | (with_reducible apply runSendAll_keeps) | (with_reducible apply keeps_ite) | (intro _) | split | (dsimp only))

theorem runStep_keeps {pq : Kept} (r : CollRun) (s : State) (hkp : Keeps pq s) : Keeps pq (runStep r s) := by
  unfold runStep
  repeat' (first | (with_reducible assumption) | (with_reducible apply putRun_keeps) | (with_reducible apply runCast_keeps) | (with_reducible apply runOwn_keeps) | (with_reducible apply runRead_keeps) | (with_reducible apply runReduce_keeps) | (with_reducible apply runShards_keeps) | (with_reducible apply runSpread_keeps) | (with_reducible apply runSubs_keeps) | (with_reducible apply runWrite_keeps) | (with_reducible apply keeps_ite) | (intro _) | split | (dsimp only))

theorem runScatterRest_keeps {pq : Kept} (r : CollRun) (s : State) (hkp : Keeps pq s) : Keeps pq (runScatterRest r s) := by
  unfold runScatterRest
  repeat' (first | (with_reducible assumption) | (with_reducible apply State.draw_keeps) | (with_reducible apply vaWrite_keeps) | (with_reducible apply keeps_ite) | (intro _) | split | (with_reducible refine keeps_fst (by assumption) ?_) | (with_reducible refine keeps_fst3 (by assumption) ?_) | (with_reducible refine keeps_snd (by assumption) ?_) | (dsimp only))

theorem runSettle_keeps {pq : Kept} (item : Nat) (s : State) (hkp : Keeps pq s) : Keeps pq (runSettle item s) := by
  unfold runSettle
  repeat' (first | (with_reducible assumption) | (with_reducible apply dropRun_keeps) | (with_reducible apply finish_keeps) | (with_reducible apply runScatterRest_keeps) | (with_reducible apply keeps_ite) | (intro _) | split | (dsimp only))

theorem runAdvance_keeps {pq : Kept} (fuel : Nat) : ∀ (item : Nat) (s : State), Keeps pq s → Keeps pq (runAdvance fuel item s) := by
  induction fuel with
  | zero => intro item s h; exact h
  | succ m ih =>
    intro item s h
    unfold runAdvance
    split
    · exact h
    · dsimp only
      split
      · exact runStep_keeps _ _ h
      · exact ih _ _ (runStep_keeps _ _ h)

theorem runGo_keeps {pq : Kept} (item : Nat) (s : State) (hkp : Keeps pq s) : Keeps pq (runGo item s) := by
  unfold runGo
  repeat' (first | (with_reducible assumption) | (with_reducible apply runAdvance_keeps) | (with_reducible apply runSettle_keeps) | (intro _) | split | (dsimp only))

theorem setSteps_keeps {pq : Kept} (l : List CollStep) (s : State) (hkp : Keeps pq s) : Keeps pq (setSteps l s) := by
  unfold setSteps
  repeat' (first | (with_reducible assumption) | (intro _) | split | (dsimp only) | (with_reducible refine keeps_mk rfl rfl rfl rfl rfl ?_))

theorem dropStep_keeps {pq : Kept} (c : Nat) (s : State) (hkp : Keeps pq s) : Keeps pq (dropStep c s) := by
  unfold dropStep
  repeat' (first | (with_reducible assumption) | (with_reducible apply setSteps_keeps) | (intro _) | split | (dsimp only))

theorem collDone_keeps {pq : Kept} (c : Nat) (s : State) (hkp : Keeps pq s) : Keeps pq (collDone c s) := by
  unfold collDone
  repeat' (first | (with_reducible assumption) | (with_reducible apply descBegun_keeps) | (with_reducible apply dropStep_keeps) | (intro _) | split | (dsimp only))

theorem collFail_keeps {pq : Kept} (c status detail : Nat) (s : State) (hkp : Keeps pq s) : Keeps pq (collFail c status detail s) := by
  unfold collFail
  repeat' (first | (with_reducible assumption) | (with_reducible apply chanEnd_keeps) | (with_reducible apply dropStep_keeps) | (intro _) | split | (dsimp only))

theorem collFinish_keeps {pq : Kept} (c : Nat) (bs : List Byte) (s : State) (hkp : Keeps pq s) : Keeps pq (collFinish c bs s) := by
  unfold collFinish
  repeat' (first | (with_reducible assumption) | (with_reducible apply chanFail_keeps) | (with_reducible apply collDone_keeps) | (with_reducible apply dropStep_keeps) | (with_reducible apply updItem_keeps) | (with_reducible apply vaRead_keeps) | (with_reducible apply vaWrite_keeps) | (with_reducible apply keeps_ite) | (intro _) | split | (with_reducible refine keeps_fst (by assumption) ?_) | (with_reducible refine keeps_fst3 (by assumption) ?_) | (dsimp only))

theorem drainMsg_keeps {pq : Kept} (p : Nat) (m : SpkMsg) (s : State) (hkp : Keeps pq s) : Keeps pq (drainMsg p m s) := by
  unfold drainMsg
  repeat' (first | (with_reducible assumption) | (with_reducible apply State.setPort_keeps) | (intro _) | split | (dsimp only))

theorem deliverMsg_keeps {pq : Kept} {t : State} (p : Nat) (m : SpkMsg) (s : State) (h : Keeps pq s)
    (e : deliverMsg p m s = some t) : Keeps pq t := by
  have hd := drainMsg_keeps p m s h
  unfold deliverMsg at e
  split at e
  · dsimp only at e
    split at e
    · cases e; exact endRun_keeps _ _ _ _ _ (abortMembers_keeps _ _ _ hd)
    · cases e; exact runGo_keeps _ _ (putRun_keeps _ _ hd)
  · split at e
    · cases e
    · dsimp only at e
      split at e
      · cases e; exact setSteps_keeps _ _ hd
      · cases e; exact collFinish_keeps _ _ _ (setSteps_keeps _ _ hd)

theorem retryEarly_keeps {pq : Kept} (l : List (Nat × SpkMsg)) : ∀ (s : State), Keeps pq s → Keeps pq (retryEarly l s) := by
  induction l with
  | nil => intro s h; exact h
  | cons x rest ih =>
    intro s h
    unfold retryEarly
    split
    · refine ih _ (deliverMsg_keeps _ _ _ ?_ (by assumption))
      exact keeps_of_same h rfl rfl rfl rfl rfl
    · exact ih _ h

theorem collStart_keeps {pq : Kept} (c : Nat) (s : State) (hkp : Keeps pq s) : Keeps pq (collStart c s) := by
  unfold collStart
  repeat' (first | (with_reducible assumption) | (with_reducible apply State.setChan_keeps) | (with_reducible apply chanFail_keeps) | (with_reducible apply collFail_keeps) | (with_reducible apply retryEarly_keeps) | (with_reducible apply setSteps_keeps) | (with_reducible apply vaRead_keeps) | (with_reducible refine sendData_keeps _ _ _ _ _ _ _ _ _ _ _ ?_ (by assumption)) | (with_reducible apply keeps_ite) | (intro _) | split | (with_reducible refine keeps_fst (by assumption) ?_) | (with_reducible refine keeps_fst3 (by assumption) ?_) | (dsimp only))

theorem collDesc_keeps {pq : Kept} (c step : Nat) (s : State) (hkp : Keeps pq s) : Keeps pq (collDesc c step s) := by
  unfold collDesc
  repeat' (first | (with_reducible assumption) | (with_reducible apply chanEnd_keeps) | (with_reducible apply collStart_keeps) | (with_reducible apply onDesc_keeps) | (with_reducible apply keeps_ite) | (intro _) | split | (dsimp only))

theorem execCollSend_keeps {pq : Kept} (ch : Fin 192) (s : State) (hkp : Keeps pq s) : Ends (Keeps pq) (execCollSend ch s) := by
  unfold execCollSend
  repeat' (first | (with_reducible assumption) | (with_reducible apply collDesc_keeps) | (with_reducible apply ends_next) | (intro _) | split | (dsimp only))

theorem execCollRecv_keeps {pq : Kept} (ch : Fin 192) (s : State) (hkp : Keeps pq s) : Ends (Keeps pq) (execCollRecv ch s) := by
  unfold execCollRecv
  repeat' (first | (with_reducible assumption) | (with_reducible apply collDesc_keeps) | (with_reducible apply ends_next) | (intro _) | split | (dsimp only))

theorem execCollRecvSum_keeps {pq : Kept} (ch : Fin 192) (s : State) (hkp : Keeps pq s) : Ends (Keeps pq) (execCollRecvSum ch s) := by
  unfold execCollRecvSum
  repeat' (first | (with_reducible assumption) | (with_reducible apply collDesc_keeps) | (with_reducible apply ends_next) | (intro _) | split | (dsimp only))

theorem sendsSettle_keeps {pq : Kept} (s : State) (hkp : Keeps pq s) : Keeps pq (sendsSettle s) := by
  unfold sendsSettle
  repeat' (first | (with_reducible assumption) | (with_reducible apply collDone_keeps) | (with_reducible apply keeps_ite) | (with_reducible refine keeps_foldl ?_ _ ?_) | (intro _) | split | (dsimp only))

theorem runStart_keeps {pq : Kept} (item : Nat) (s : State) (hkp : Keeps pq s) : Keeps pq (runStart item s) := by
  unfold runStart
  repeat' (first | (with_reducible assumption) | (with_reducible apply dropRun_keeps) | (with_reducible apply endRun_keeps) | (with_reducible apply finish_keeps) | (with_reducible apply markStarted_keeps) | (with_reducible apply putRun_keeps) | (with_reducible apply retryEarly_keeps) | (with_reducible apply runGo_keeps) | (with_reducible apply runRead_keeps) | (with_reducible apply runSendAll_keeps) | (with_reducible apply keeps_ite) | (intro _) | split | (dsimp only))

theorem collSubmit_keeps {pq : Kept} (it : RItem) (s : State) (hkp : Keeps pq s) : Keeps pq (collSubmit it s) := by
  unfold collSubmit
  repeat' (first | (with_reducible assumption) | (with_reducible apply failItem_keeps) | (with_reducible apply finish_keeps) | (with_reducible apply runStart_keeps) | (with_reducible apply setRuns_keeps) | (with_reducible apply vaRead_keeps) | (with_reducible apply keeps_ite) | (intro _) | split | (with_reducible refine keeps_fst (by assumption) ?_) | (with_reducible refine keeps_fst3 (by assumption) ?_) | (dsimp only))

theorem execCollective_keeps {pq : Kept} (f : Fin 17) (q : Fin 8) (s : State) (hkp : Keeps pq s) : Ends (Keeps pq) (execCollective f q s) := by
  unfold execCollective
  repeat' (first | (with_reducible assumption) | (with_reducible apply collSubmit_keeps) | (with_reducible apply onItem_keeps) | (with_reducible apply ends_next) | (intro _) | split | (dsimp only))

theorem startWaiting_keeps {pq : Kept} (s : State) (hkp : Keeps pq s) : Keeps pq (startWaiting s) := by
  unfold startWaiting
  repeat' (first | (with_reducible assumption) | (with_reducible apply runStart_keeps) | (with_reducible refine keeps_foldl ?_ _ ?_) | (intro _) | split | (dsimp only))

theorem discoveryWaitTimeout_keeps {pq : Kept} (item : Nat) (s : State) (hkp : Keeps pq s) : Keeps pq (discoveryWaitTimeout item s) := by
  unfold discoveryWaitTimeout
  repeat' (first | (with_reducible assumption) | (with_reducible apply endRun_keeps) | (with_reducible apply keeps_ite) | (intro _) | split | (dsimp only))

theorem execDiscoveryWaitTimeout_keeps {pq : Kept} (item : BitVec 32) (s : State) (hkp : Keeps pq s) : Ends (Keeps pq) (execDiscoveryWaitTimeout item s) := by
  unfold execDiscoveryWaitTimeout
  repeat' (first | (with_reducible assumption) | (with_reducible apply discoveryWaitTimeout_keeps) | (with_reducible apply ends_next) | (intro _) | split | (dsimp only))

theorem collTimeout_keeps {pq : Kept} (item : Nat) (s : State) (hkp : Keeps pq s) : Keeps pq (collTimeout item s) := by
  unfold collTimeout
  repeat' (first | (with_reducible assumption) | (with_reducible apply endRun_keeps) | (with_reducible apply keeps_ite) | (intro _) | split | (dsimp only))

theorem execCollTimeout_keeps {pq : Kept} (item : BitVec 32) (s : State) (hkp : Keeps pq s) : Ends (Keeps pq) (execCollTimeout item s) := by
  unfold execCollTimeout
  repeat' (first | (with_reducible assumption) | (with_reducible apply collTimeout_keeps) | (with_reducible apply ends_next) | (intro _) | split | (dsimp only))

theorem abortReceive_keeps {pq : Kept} (collId : Nat) (s : State) (hkp : Keeps pq s) : Keeps pq (abortReceive collId s) := by
  unfold abortReceive
  repeat' (first | (with_reducible assumption) | (with_reducible apply endRun_keeps) | (with_reducible refine keeps_foldl ?_ _ ?_) | (intro _) | split | (dsimp only))

theorem execAbortReceive_keeps {pq : Kept} (collId : Word) (_reason : Byte) (s : State) (hkp : Keeps pq s) : Ends (Keeps pq) (execAbortReceive collId _reason s) := by
  unfold execAbortReceive
  repeat' (first | (with_reducible assumption) | (with_reducible apply abortReceive_keeps) | (with_reducible apply ends_next) | (intro _) | split | (dsimp only))

end Sys2Proof.Machine
end

