-- ==== Sys2Proof/Laws/KeepSpoke.lean ====
section
/-! SUPPORT. What the operations of Machine/Spoke.lean keep. -/

namespace Sys2Proof.Machine

theorem bumpGen_keeps {pq : Kept} (s : State) (hkp : Keeps pq s) : Keeps pq (bumpGen s) := by
  unfold bumpGen
  repeat' (first | (with_reducible assumption) | (with_reducible apply State.addWrap_keeps) | (intro _) | split | (dsimp only))

theorem endSteps_keeps {pq : Kept} (status detail : Nat) (s : State) (hkp : Keeps pq s) : Keeps pq (endSteps status detail s) := by
  unfold endSteps
  repeat' (first | (with_reducible assumption) | (with_reducible apply collFail_keeps) | (with_reducible apply keeps_ite) | (with_reducible refine keeps_foldl ?_ _ ?_) | (intro _) | split | (dsimp only))

theorem loseRuns_keeps {pq : Kept} (s : State) (hkp : Keeps pq s) : Keeps pq (loseRuns s) := by
  unfold loseRuns
  repeat' (first | (with_reducible assumption) | (with_reducible apply abortMembers_keeps) | (with_reducible apply endRun_keeps) | (with_reducible apply endSteps_keeps) | (with_reducible refine keeps_foldl ?_ _ ?_) | (intro _) | split | (dsimp only))

theorem dropEarly_keeps {pq : Kept} (s : State) (hkp : Keeps pq s) : Keeps pq (dropEarly s) := by
  unfold dropEarly
  repeat' (first | (with_reducible assumption) | (with_reducible apply drainMsg_keeps) | (with_reducible refine keeps_foldl ?_ _ ?_) | (intro _) | split | (dsimp only) | (with_reducible refine keeps_mk rfl rfl rfl rfl rfl ?_))

theorem restart_keeps {pq : Kept} (own : Bool) (s : State) (hkp : Keeps pq s) : Keeps pq (restart own s) := by
  unfold restart
  repeat' (first | (with_reducible assumption) | (with_reducible apply bumpGen_keeps) | (with_reducible apply dropEarly_keeps) | (with_reducible apply loseRuns_keeps) | (with_reducible apply setDisc_keeps) | (with_reducible apply keeps_ite) | (intro _) | split | (dsimp only) | (with_reducible refine keeps_mk rfl rfl rfl rfl rfl ?_))

theorem lostOn_keeps {pq : Kept} (p reason : Nat) (s : State) (hkp : Keeps pq s) : Keeps pq (lostOn p reason s) := by
  unfold lostOn
  repeat' (first | (with_reducible assumption) | (with_reducible apply collFail_keeps) | (with_reducible apply endRun_keeps) | (with_reducible apply keeps_ite) | (with_reducible refine keeps_foldl ?_ _ ?_) | (intro _) | split | (dsimp only))

theorem sendReport_keeps {pq : Kept} (s : State) (hkp : Keeps pq s) : Keeps pq (sendReport s) := by
  unfold sendReport
  repeat' (first | (with_reducible assumption) | (with_reducible apply sendAll_keeps) | (intro _) | split | (dsimp only))

theorem uplinkChange_keeps {pq : Kept} (s : State) (hkp : Keeps pq s) : Keeps pq (uplinkChange s) := by
  unfold uplinkChange
  repeat' (first | (with_reducible assumption) | (with_reducible apply sendReport_keeps) | (with_reducible apply keeps_ite) | (intro _) | split | (dsimp only))

theorem clearPort_keeps {pq : Kept} (p : Nat) (down : Bool) (s : State) (hkp : Keeps pq s) : Keeps pq (clearPort p down s) := by
  unfold clearPort
  repeat' (first | (with_reducible assumption) | (with_reducible apply State.setPort_keeps) | (with_reducible apply keeps_ite) | (intro _) | split | (dsimp only))

theorem leavePort_keeps {pq : Kept} (p st reason : Nat) (s : State) (hkp : Keeps pq s) : Keeps pq (leavePort p st reason s) := by
  unfold leavePort
  repeat' (first | (with_reducible assumption) | (with_reducible apply breakPair_keeps) | (with_reducible apply clearPort_keeps) | (with_reducible apply lostOn_keeps) | (with_reducible apply restart_keeps) | (with_reducible apply setLink_keeps) | (with_reducible apply uplinkChange_keeps) | (with_reducible apply keeps_ite) | (intro _) | split | (dsimp only))

theorem spkLinkEvent_keeps {pq : Kept} (p : Nat) (s : State) (hkp : Keeps pq s) : Keeps pq (spkLinkEvent p s) := by
  unfold spkLinkEvent
  repeat' (first | (with_reducible assumption) | (with_reducible apply event_keeps) | (intro _) | split | (dsimp only))

theorem portDown_keeps {pq : Kept} (p : Nat) (s : State) (hkp : Keeps pq s) : Keeps pq (portDown p s) := by
  unfold portDown
  repeat' (first | (with_reducible assumption) | (with_reducible apply leavePort_keeps) | (with_reducible apply spkLinkEvent_keeps) | (with_reducible apply keeps_ite) | (intro _) | split | (dsimp only))

theorem execSpkLockLost_keeps {pq : Kept} (p : Fin 17) (s : State) (hkp : Keeps pq s) : Ends (Keeps pq) (execSpkLockLost p s) := by
  unfold execSpkLockLost
  repeat' (first | (with_reducible assumption) | (with_reducible apply portDown_keeps) | (with_reducible apply ends_next) | (intro _) | split | (dsimp only))

theorem execHelloTimeout_keeps {pq : Kept} (p : Fin 17) (s : State) (hkp : Keeps pq s) : Ends (Keeps pq) (execHelloTimeout p s) := by
  unfold execHelloTimeout
  repeat' (first | (with_reducible assumption) | (with_reducible apply portDown_keeps) | (with_reducible apply ends_next) | (intro _) | split | (dsimp only))

theorem execSpkSignalPresent_keeps {pq : Kept} (p : Fin 17) (s : State) (hkp : Keeps pq s) : Ends (Keeps pq) (execSpkSignalPresent p s) := by
  unfold execSpkSignalPresent
  repeat' (first | (with_reducible assumption) | (with_reducible apply setLink_keeps) | (with_reducible apply ends_next) | (with_reducible apply keeps_ite) | (intro _) | split | (dsimp only))

theorem linkTrained_keeps {pq : Kept} (p rtt : Nat) (s : State) (hkp : Keeps pq s) : Keeps pq (linkTrained p rtt s) := by
  unfold linkTrained
  repeat' (first | (with_reducible assumption) | (with_reducible apply State.setFlag_keeps) | (with_reducible apply State.setPort_keeps) | (with_reducible apply State.setReg_keeps) | (with_reducible apply setLink_keeps) | (with_reducible apply keeps_ite) | (intro _) | split | (dsimp only) | (with_reducible refine keeps_mk rfl rfl rfl rfl rfl ?_))

theorem execLinkTrained_keeps {pq : Kept} (p : Fin 17) (rtt : BitVec 16) (s : State) (hkp : Keeps pq s) : Ends (Keeps pq) (execLinkTrained p rtt s) := by
  unfold execLinkTrained
  repeat' (first | (with_reducible assumption) | (with_reducible apply linkTrained_keeps) | (with_reducible apply ends_next) | (intro _) | split | (dsimp only))

theorem spokeStop_keeps {pq : Kept} (s : State) (hkp : Keeps pq s) : Keeps pq (spokeStop s) := by
  unfold spokeStop
  repeat' (first | (with_reducible assumption) | (with_reducible apply endSteps_keeps) | (with_reducible apply leavePort_keeps) | (with_reducible apply lostOn_keeps) | (with_reducible apply setDisc_keeps) | (with_reducible apply keeps_ite) | (with_reducible refine keeps_foldl ?_ _ ?_) | (intro _) | split | (dsimp only))

theorem writeSpkCtl_keeps {pq : Kept} (a : Agent) (v : Word) (s : State) (hkp : Keeps pq s) : Keeps pq (writeSpkCtl a v s) := by
  unfold writeSpkCtl
  repeat' (first | (with_reducible assumption) | (with_reducible apply setDisc_keeps) | (with_reducible apply spokeStop_keeps) | (with_reducible apply storeReg_keeps) | (with_reducible apply keeps_ite) | (intro _) | split | (dsimp only))

theorem execSpkEnable_keeps {pq : Kept} (a : Agent) (v : Word) (s : State) (hkp : Keeps pq s) : Ends (Keeps pq) (execSpkEnable a v s) := by
  unfold execSpkEnable
  repeat' (first | (with_reducible assumption) | (with_reducible apply writeSpkCtl_keeps) | (with_reducible apply ends_next) | (intro _) | split | (dsimp only))

theorem spokePowerOff_keeps {pq : Kept} (s : State) (hkp : Keeps pq s) : Keeps pq (spokePowerOff s) := by
  unfold spokePowerOff
  repeat' (first | (with_reducible assumption) | (with_reducible apply dropRun_keeps) | (with_reducible apply endSteps_keeps) | (with_reducible apply finish_keeps) | (with_reducible apply spokeStop_keeps) | (with_reducible apply keeps_ite) | (with_reducible refine keeps_foldl ?_ _ ?_) | (intro _) | split | (dsimp only) | (with_reducible refine keeps_mk rfl rfl rfl rfl rfl ?_))

theorem spokePowerOn_keeps {pq : Kept} (s : State) (hkp : Keeps pq s) : Keeps pq (spokePowerOn s) := by
  unfold spokePowerOn
  repeat' (first | (with_reducible assumption) | (with_reducible apply setDisc_keeps) | (with_reducible apply keeps_ite) | (intro _) | split | (dsimp only) | (with_reducible refine keeps_mk rfl rfl rfl rfl rfl ?_))

theorem writePortCtl_keeps {pq : Kept} (a : Agent) (p : Nat) (v : Word) (s : State) (hkp : Keeps pq s) : Keeps pq (writePortCtl a p v s) := by
  unfold writePortCtl
  repeat' (first | (with_reducible assumption) | (with_reducible apply leavePort_keeps) | (with_reducible apply storeReg_keeps) | (with_reducible apply keeps_ite) | (intro _) | split | (dsimp only))

theorem execSpkPortCtlWrite_keeps {pq : Kept} (a : Agent) (p : Fin 17) (v : Word) (s : State) (hkp : Keeps pq s) : Ends (Keeps pq) (execSpkPortCtlWrite a p v s) := by
  unfold execSpkPortCtlWrite
  repeat' (first | (with_reducible assumption) | (with_reducible apply writePortCtl_keeps) | (with_reducible apply ends_next) | (intro _) | split | (dsimp only))

theorem spkFrameSend_keeps {pq : Kept} (p : Nat) (s : State) (hkp : Keeps pq s) : Keeps pq (spkFrameSend p s) := by
  unfold spkFrameSend
  repeat' (first | (with_reducible assumption) | (with_reducible apply runSettle_keeps) | (with_reducible apply sendFrame_keeps) | (with_reducible apply sendsSettle_keeps) | (with_reducible apply keeps_ite) | (with_reducible refine keeps_foldl ?_ _ ?_) | (intro _) | split | (dsimp only))

theorem execSpkFrameSend_keeps {pq : Kept} (p : Fin 17) (s : State) (hkp : Keeps pq s) : Ends (Keeps pq) (execSpkFrameSend p s) := by
  unfold execSpkFrameSend
  repeat' (first | (with_reducible assumption) | (with_reducible apply spkFrameSend_keeps) | (with_reducible apply ends_next) | (intro _) | split | (dsimp only))

theorem spkFrameReceive_keeps {pq : Kept} (p : Nat) (fecOk : Bool) (bs : List Byte) (s : State) (hkp : Keeps pq s) : Keeps pq (spkFrameReceive p fecOk bs s) := by
  unfold spkFrameReceive
  repeat' (first | (with_reducible assumption) | (with_reducible apply leavePort_keeps) | (with_reducible apply spkLinkEvent_keeps) | (with_reducible apply takeFrame_keeps) | (with_reducible apply keeps_ite) | (intro _) | split | (dsimp only))

theorem execSpkFrameReceive_keeps {pq : Kept} (p : Fin 17) (fecOk : Bool) (bytes : List Byte) (s : State) (hkp : Keeps pq s) : Ends (Keeps pq) (execSpkFrameReceive p fecOk bytes s) := by
  unfold execSpkFrameReceive
  repeat' (first | (with_reducible assumption) | (with_reducible apply spkFrameReceive_keeps) | (with_reducible apply ends_next) | (intro _) | split | (dsimp only))

theorem execHelloSend_keeps {pq : Kept} (s : State) (hkp : Keeps pq s) : Ends (Keeps pq) (execHelloSend s) := by
  unfold execHelloSend
  repeat' (first | (with_reducible assumption) | (with_reducible apply sendControl_keeps) | (with_reducible apply ends_next) | (with_reducible refine keeps_foldl ?_ _ ?_) | (intro _) | split | (dsimp only))

theorem miscable_keeps {pq : Kept} (p : Nat) (s : State) (hkp : Keeps pq s) : Keeps pq (miscable p s) := by
  unfold miscable
  repeat' (first | (with_reducible assumption) | (with_reducible apply State.setFlag_keeps) | (with_reducible apply leavePort_keeps) | (intro _) | split | (dsimp only))

theorem becomeActive_keeps {pq : Kept} (p : Nat) (s : State) (hkp : Keeps pq s) : Keeps pq (becomeActive p s) := by
  unfold becomeActive
  repeat' (first | (with_reducible assumption) | (with_reducible apply restart_keeps) | (with_reducible apply setLink_keeps) | (with_reducible apply uplinkChange_keeps) | (with_reducible apply keeps_ite) | (intro _) | split | (dsimp only))

theorem showPartner_keeps {pq : Kept} (p : Nat) (uid : DWord) (hub : Bool) (pport : Nat) (s : State) (hkp : Keeps pq s) : Keeps pq (showPartner p uid hub pport s) := by
  unfold showPartner
  repeat' (first | (with_reducible assumption) | (with_reducible apply State.setFlag_keeps) | (with_reducible apply State.setFld_keeps) | (with_reducible apply State.setPair_keeps) | (with_reducible apply keeps_ite) | (intro _) | split | (dsimp only))

theorem helloReceive_keeps {pq : Kept} (p : Nat) (uid : DWord) (hub : Bool) (pport : Nat) (s : State) (hkp : Keeps pq s) : Keeps pq (helloReceive p uid hub pport s) := by
  unfold helloReceive
  repeat' (first | (with_reducible assumption) | (with_reducible apply State.setPort_keeps) | (with_reducible apply becomeActive_keeps) | (with_reducible apply leavePort_keeps) | (with_reducible apply miscable_keeps) | (with_reducible apply showPartner_keeps) | (with_reducible apply keeps_ite) | (with_reducible refine keeps_foldl ?_ _ ?_) | (intro _) | split | (dsimp only))

theorem execHelloReceive_keeps {pq : Kept} (p : Fin 17) (uid : DWord) (hub : Bool) (partnerPort : Byte) (s : State) (hkp : Keeps pq s) : Ends (Keeps pq) (execHelloReceive p uid hub partnerPort s) := by
  unfold execHelloReceive
  repeat' (first | (with_reducible assumption) | (with_reducible apply helloReceive_keeps) | (with_reducible apply ends_next) | (intro _) | split | (dsimp only))

theorem execAdjSend_keeps {pq : Kept} (s : State) (hkp : Keeps pq s) : Ends (Keeps pq) (execAdjSend s) := by
  unfold execAdjSend
  repeat' (first | (with_reducible assumption) | (with_reducible apply sendAll_keeps) | (with_reducible apply ends_next) | (with_reducible apply keeps_ite) | (intro _) | split | (dsimp only))

theorem addView_keeps {pq : Kept} (r : AdjRec) (s : State) (hkp : Keeps pq s) : Keeps pq (addView r s) := by
  unfold addView
  repeat' (first | (with_reducible assumption) | (intro _) | split | (dsimp only) | (with_reducible refine keeps_mk rfl rfl rfl rfl rfl ?_))

theorem adjReceive_keeps {pq : Kept} (p : Nat) (r : AdjRec) (s : State) (hkp : Keeps pq s) : Keeps pq (adjReceive p r s) := by
  unfold adjReceive
  repeat' (first | (with_reducible assumption) | (with_reducible apply addView_keeps) | (with_reducible apply restart_keeps) | (with_reducible apply sendAll_keeps) | (with_reducible apply keeps_ite) | (intro _) | split | (dsimp only))

theorem execAdjReceive_keeps {pq : Kept} (p : Fin 17) (r : AdjRec) (s : State) (hkp : Keeps pq s) : Ends (Keeps pq) (execAdjReceive p r s) := by
  unfold execAdjReceive
  repeat' (first | (with_reducible assumption) | (with_reducible apply adjReceive_keeps) | (with_reducible apply ends_next) | (intro _) | split | (dsimp only))

theorem showPartners_keeps {pq : Kept} (s : State) (hkp : Keeps pq s) : Keeps pq (showPartners s) := by
  unfold showPartners
  repeat' (first | (with_reducible assumption) | (with_reducible apply State.setFld_keeps) | (with_reducible refine keeps_foldl ?_ _ ?_) | (intro _) | split | (dsimp only))

theorem enterDone_keeps {pq : Kept} (num : Nat) (glob : Bool) (s : State) (hkp : Keeps pq s) : Keeps pq (enterDone num glob s) := by
  unfold enterDone
  repeat' (first | (with_reducible assumption) | (with_reducible apply State.setFlag_keeps) | (with_reducible apply State.setFld_keeps) | (with_reducible apply State.setReg_keeps) | (with_reducible apply event_keeps) | (with_reducible apply showPartners_keeps) | (with_reducible apply startWaiting_keeps) | (with_reducible apply keeps_ite) | (intro _) | split | (dsimp only) | (with_reducible refine keeps_mk rfl rfl rfl rfl rfl ?_))

theorem sendNum_keeps {pq : Kept} (n : Nat) (s : State) (hkp : Keeps pq s) : Keeps pq (sendNum n s) := by
  unfold sendNum
  repeat' (first | (with_reducible assumption) | (with_reducible apply sendAll_keeps) | (intro _) | split | (dsimp only))

theorem evalHub_keeps {pq : Kept} (s : State) (hkp : Keeps pq s) : Keeps pq (evalHub s) := by
  unfold evalHub
  repeat' (first | (with_reducible assumption) | (with_reducible apply enterDone_keeps) | (with_reducible apply keeps_ite) | (intro _) | split | (dsimp only))

theorem adoptNum_keeps {pq : Kept} (s : State) (hkp : Keeps pq s) : Keeps pq (adoptNum s) := by
  unfold adoptNum
  repeat' (first | (with_reducible assumption) | (with_reducible apply sendNum_keeps) | (with_reducible apply keeps_ite) | (intro _) | split | (dsimp only) | (with_reducible refine keeps_mk rfl rfl rfl rfl rfl ?_))

theorem enterHub_keeps {pq : Kept} (s : State) (hkp : Keeps pq s) : Keeps pq (enterHub s) := by
  unfold enterHub
  repeat' (first | (with_reducible assumption) | (with_reducible apply adoptNum_keeps) | (with_reducible apply evalHub_keeps) | (with_reducible apply sendNum_keeps) | (with_reducible apply sendReport_keeps) | (with_reducible apply setDisc_keeps) | (with_reducible apply keeps_ite) | (intro _) | split | (dsimp only))

theorem evalSeat_keeps {pq : Kept} (s : State) (hkp : Keeps pq s) : Keeps pq (evalSeat s) := by
  unfold evalSeat
  repeat' (first | (with_reducible assumption) | (with_reducible apply enterHub_keeps) | (with_reducible apply setDisc_keeps) | (with_reducible apply keeps_ite) | (intro _) | split | (dsimp only) | (with_reducible refine keeps_mk rfl rfl rfl rfl rfl ?_))

theorem seatReceive_keeps {pq : Kept} (uid leader : DWord) (count seat : Nat) (s : State) (hkp : Keeps pq s) : Keeps pq (seatReceive uid leader count seat s) := by
  unfold seatReceive
  repeat' (first | (with_reducible assumption) | (with_reducible apply evalSeat_keeps) | (intro _) | split | (dsimp only) | (with_reducible refine keeps_mk rfl rfl rfl rfl rfl ?_))

theorem execSeatReceive_keeps {pq : Kept} (uid leader : DWord) (count seat : Byte) (s : State) (hkp : Keeps pq s) : Ends (Keeps pq) (execSeatReceive uid leader count seat s) := by
  unfold execSeatReceive
  repeat' (first | (with_reducible assumption) | (with_reducible apply seatReceive_keeps) | (with_reducible apply ends_next) | (with_reducible apply keeps_ite) | (intro _) | split | (dsimp only))

theorem enterSeat_keeps {pq : Kept} (w : List DWord) (s : State) (hkp : Keeps pq s) : Keeps pq (enterSeat w s) := by
  unfold enterSeat
  repeat' (first | (with_reducible assumption) | (with_reducible apply State.setPair_keeps) | (with_reducible apply evalSeat_keeps) | (with_reducible apply sendAll_keeps) | (with_reducible apply setDisc_keeps) | (intro _) | split | (dsimp only) | (with_reducible refine keeps_mk rfl rfl rfl rfl rfl ?_))

theorem wheelEnd_keeps {pq : Kept} (s : State) (hkp : Keeps pq s) : Keeps pq (wheelEnd s) := by
  unfold wheelEnd
  repeat' (first | (with_reducible assumption) | (with_reducible apply State.setFlag_keeps) | (with_reducible apply enterSeat_keeps) | (with_reducible apply setDisc_keeps) | (with_reducible apply keeps_ite) | (with_reducible refine keeps_foldl ?_ _ ?_) | (intro _) | split | (dsimp only))

theorem settleExpiry_keeps {pq : Kept} (s : State) (hkp : Keeps pq s) : Keeps pq (settleExpiry s) := by
  unfold settleExpiry
  repeat' (first | (with_reducible assumption) | (with_reducible apply State.setFld_keeps) | (with_reducible apply sendAll_keeps) | (with_reducible apply setDisc_keeps) | (with_reducible apply startWaiting_keeps) | (with_reducible apply wheelEnd_keeps) | (with_reducible apply keeps_ite) | (intro _) | split | (dsimp only))

theorem execSettleExpiry_keeps {pq : Kept} (s : State) (hkp : Keeps pq s) : Ends (Keeps pq) (execSettleExpiry s) := by
  unfold execSettleExpiry
  repeat' (first | (with_reducible assumption) | (with_reducible apply settleExpiry_keeps) | (with_reducible apply ends_next) | (intro _) | split | (dsimp only))

theorem execReportSend_keeps {pq : Kept} (s : State) (hkp : Keeps pq s) : Ends (Keeps pq) (execReportSend s) := by
  unfold execReportSend
  repeat' (first | (with_reducible assumption) | (with_reducible apply uplinkChange_keeps) | (with_reducible apply ends_next) | (intro _) | split | (dsimp only))

theorem hubAgain_keeps {pq : Kept} (num : Nat) (s : State) (hkp : Keeps pq s) : Keeps pq (hubAgain num s) := by
  unfold hubAgain
  repeat' (first | (with_reducible assumption) | (with_reducible apply bumpGen_keeps) | (with_reducible apply dropEarly_keeps) | (with_reducible apply evalHub_keeps) | (with_reducible apply loseRuns_keeps) | (with_reducible apply sendNum_keeps) | (with_reducible apply setDisc_keeps) | (intro _) | split | (dsimp only) | (with_reducible refine keeps_mk rfl rfl rfl rfl rfl ?_))

theorem assignReceive_keeps {pq : Kept} (p : Nat) (leader : DWord) (wheel count : Nat) (s : State) (hkp : Keeps pq s) : Keeps pq (assignReceive p leader wheel count s) := by
  unfold assignReceive
  repeat' (first | (with_reducible assumption) | (with_reducible apply State.setFld_keeps) | (with_reducible apply evalHub_keeps) | (with_reducible apply hubAgain_keeps) | (with_reducible apply sendNum_keeps) | (with_reducible apply keeps_ite) | (intro _) | split | (dsimp only) | (with_reducible refine keeps_mk rfl rfl rfl rfl rfl ?_))

theorem execAssignReceive_keeps {pq : Kept} (p : Fin 17) (leader : DWord) (wheel count : Byte) (s : State) (hkp : Keeps pq s) : Ends (Keeps pq) (execAssignReceive p leader wheel count s) := by
  unfold execAssignReceive
  repeat' (first | (with_reducible assumption) | (with_reducible apply assignReceive_keeps) | (with_reducible apply ends_next) | (intro _) | split | (dsimp only))

theorem wheelNumReceive_keeps {pq : Kept} (uid : DWord) (wheel : Nat) (s : State) (hkp : Keeps pq s) : Keeps pq (wheelNumReceive uid wheel s) := by
  unfold wheelNumReceive
  repeat' (first | (with_reducible assumption) | (with_reducible apply adoptNum_keeps) | (with_reducible apply evalHub_keeps) | (with_reducible apply hubAgain_keeps) | (with_reducible apply keeps_ite) | (intro _) | split | (dsimp only) | (with_reducible refine keeps_mk rfl rfl rfl rfl rfl ?_))

theorem execWheelNumReceive_keeps {pq : Kept} (uid : DWord) (wheel : Byte) (s : State) (hkp : Keeps pq s) : Ends (Keeps pq) (execWheelNumReceive uid wheel s) := by
  unfold execWheelNumReceive
  repeat' (first | (with_reducible assumption) | (with_reducible apply wheelNumReceive_keeps) | (with_reducible apply ends_next) | (intro _) | split | (dsimp only))

theorem hubTimeout_keeps {pq : Kept} (s : State) (hkp : Keeps pq s) : Keeps pq (hubTimeout s) := by
  unfold hubTimeout
  repeat' (first | (with_reducible assumption) | (with_reducible apply State.setFlag_keeps) | (with_reducible apply enterDone_keeps) | (with_reducible apply keeps_ite) | (intro _) | split | (dsimp only))

theorem execHubTimeout_keeps {pq : Kept} (s : State) (hkp : Keeps pq s) : Ends (Keeps pq) (execHubTimeout s) := by
  unfold execHubTimeout
  repeat' (first | (with_reducible assumption) | (with_reducible apply hubTimeout_keeps) | (with_reducible apply ends_next) | (intro _) | split | (dsimp only))

theorem messageReceive_keeps {pq : Kept} (p : Nat) (m : SpkMsg) (s : State) (hkp : Keeps pq s) : Keeps pq (messageReceive p m s) := by
  unfold messageReceive
  repeat' (first | (with_reducible assumption) | (with_reducible apply State.addSat_keeps) | (with_reducible apply drainMsg_keeps) | (with_reducible apply mirrorSamples_keeps) | (with_reducible refine deliverMsg_keeps _ _ _ ?_ (by assumption)) | (with_reducible apply keeps_ite) | (intro _) | split | (dsimp only) | (with_reducible refine keeps_mk rfl rfl rfl rfl rfl ?_))

theorem execSpkMessageReceive_keeps {pq : Kept} (p : Fin 17) (m : SpkMsg) (s : State) (hkp : Keeps pq s) : Ends (Keeps pq) (execSpkMessageReceive p m s) := by
  unfold execSpkMessageReceive
  repeat' (first | (with_reducible assumption) | (with_reducible apply messageReceive_keeps) | (with_reducible apply ends_next) | (intro _) | split | (dsimp only))

end Sys2Proof.Machine
end

