-- ==== Sys2Proof/Laws/KeepResets.lean ====
section
/-! SUPPORT. What the operations of Machine/Resets.lean keep. -/

namespace Sys2Proof.Machine

theorem setChm_keeps {pq : Kept} (c : ChmSt) (s : State) (hkp : Keeps pq s) : Keeps pq (setChm c s) := by
  unfold setChm
  repeat' (first | (with_reducible assumption) | (intro _) | split | (dsimp only) | (with_reducible refine keeps_mk rfl rfl rfl rfl rfl ?_))

theorem markZeroing_keeps {pq : Kept} (it : RItem) (s : State) (hkp : Keeps pq s) : Keeps pq (markZeroing it s) := by
  unfold markZeroing
  repeat' (first | (with_reducible assumption) | (with_reducible apply State.setCore_keeps) | (with_reducible apply State.setTile_keeps) | (with_reducible apply keeps_ite) | (with_reducible refine keeps_foldl ?_ _ ?_) | (intro _) | split | (dsimp only))

theorem dropCsl_keeps {pq : Kept} (it : RItem) (s : State) (hkp : Keeps pq s) : Keeps pq (dropCsl it s) := by
  unfold dropCsl
  repeat' (first | (with_reducible assumption) | (with_reducible apply dropWaiter_keeps) | (with_reducible apply setCsl_keeps) | (with_reducible apply keeps_ite) | (with_reducible refine keeps_foldl ?_ _ ?_) | (intro _) | split | (dsimp only))

theorem stopWork_keeps {pq : Kept} (it : RItem) (s : State) (hkp : Keeps pq s) : Keeps pq (stopWork it s) := by
  unfold stopWork
  repeat' (first | (with_reducible assumption) | (with_reducible apply abortMembers_keeps) | (with_reducible apply dropRun_keeps) | (with_reducible apply stopStep_keeps) | (with_reducible apply keeps_ite) | (intro _) | split | (dsimp only))

theorem fenceItem_keeps {pq : Kept} (cause status : Nat) (it : RItem) (s : State) (hkp : Keeps pq s) : Keeps pq (fenceItem cause status it s) := by
  unfold fenceItem
  repeat' (first | (with_reducible assumption) | (with_reducible apply dropCsl_keeps) | (with_reducible apply formItem_keeps) | (with_reducible apply markZeroing_keeps) | (with_reducible apply stopUnits_keeps) | (with_reducible apply stopWork_keeps) | (with_reducible apply keeps_ite) | (intro _) | split | (dsimp only))

theorem fenceItems_keeps {pq : Kept} (f cause : Nat) (s : State) (hkp : Keeps pq s) : Keeps pq (fenceItems f cause s) := by
  unfold fenceItems
  repeat' (first | (with_reducible assumption) | (with_reducible apply fenceItem_keeps) | (with_reducible refine keeps_foldl ?_ _ ?_) | (intro _) | split | (dsimp only))

theorem fenceChans_keeps {pq : Kept} (f : Nat) (s : State) (hkp : Keeps pq s) : Keeps pq (fenceChans f s) := by
  unfold fenceChans
  repeat' (first | (with_reducible assumption) | (with_reducible apply stopChan_keeps) | (with_reducible apply keeps_ite) | (with_reducible refine keeps_foldl ?_ _ ?_) | (intro _) | split | (dsimp only))

theorem fencePairs_keeps {pq : Kept} (f : Nat) (s : State) (hkp : Keeps pq s) : Keeps pq (fencePairs f s) := by
  unfold fencePairs
  repeat' (first | (with_reducible assumption) | (with_reducible apply State.setSem_keeps) | (with_reducible apply keeps_ite) | (with_reducible refine keeps_foldl ?_ _ ?_) | (intro _) | split | (dsimp only))

theorem fenceFormed_keeps {pq : Kept} (f : Nat) (s : State) (hkp : Keeps pq s) : Keeps pq (fenceFormed f s) := by
  unfold fenceFormed
  repeat' (first | (with_reducible assumption) | (with_reducible apply setFormed_keeps) | (with_reducible apply keeps_ite) | (intro _) | split | (dsimp only))

theorem setFences_keeps {pq : Kept} (l : List (Nat × Nat × Nat)) (s : State) (hkp : Keeps pq s) : Keeps pq (setFences l s) := by
  unfold setFences
  repeat' (first | (with_reducible assumption) | (intro _) | split | (dsimp only) | (with_reducible refine keeps_mk rfl rfl rfl rfl rfl ?_))

theorem fenceStart_keeps {pq : Kept} (f cause : Nat) (s : State) (hkp : Keeps pq s) : Keeps pq (fenceStart f cause s) := by
  unfold fenceStart
  repeat' (first | (with_reducible assumption) | (with_reducible apply State.setReg_keeps) | (with_reducible apply fenceChans_keeps) | (with_reducible apply fenceFormed_keeps) | (with_reducible apply fenceItems_keeps) | (with_reducible apply fencePairs_keeps) | (with_reducible apply purgeFrames_keeps) | (with_reducible apply setFences_keeps) | (with_reducible apply keeps_ite) | (intro _) | split | (dsimp only))

theorem clearPage_keeps {pq : Kept} (f : Nat) (s : State) (hkp : Keeps pq s) : Keeps pq (clearPage f s) := by
  unfold clearPage
  repeat' (first | (with_reducible assumption) | (with_reducible apply State.setReg_keeps) | (with_reducible refine keeps_foldl ?_ _ ?_) | (intro _) | split | (dsimp only))

theorem ringsOff_keeps {pq : Kept} (f : Nat) (s : State) (hkp : Keeps pq s) : Keeps pq (ringsOff f s) := by
  unfold ringsOff
  repeat' (first | (with_reducible assumption) | (with_reducible apply ringOff_keeps) | (with_reducible apply keeps_ite) | (with_reducible refine keeps_foldl ?_ _ ?_) | (intro _) | split | (dsimp only))

theorem fenceComplete_keeps {pq : Kept} (f took : Nat) (s : State) (hkp : Keeps pq s) : Keeps pq (fenceComplete f took s) := by
  unfold fenceComplete
  repeat' (first | (with_reducible assumption) | (with_reducible apply State.setFld_keeps) | (with_reducible apply State.setReg_keeps) | (with_reducible apply clearPage_keeps) | (with_reducible apply clearTlb_keeps) | (with_reducible apply event_keeps) | (with_reducible apply ringsOff_keeps) | (with_reducible apply setFences_keeps) | (with_reducible apply keeps_ite) | (intro _) | split | (dsimp only))

theorem execFenceComplete_keeps {pq : Kept} (f : Fin 17) (took : BitVec 16) (s : State) (hkp : Keeps pq s) : Ends (Keeps pq) (execFenceComplete f took s) := by
  unfold execFenceComplete
  repeat' (first | (with_reducible assumption) | (with_reducible apply fenceComplete_keeps) | (with_reducible apply ends_next) | (intro _) | split | (dsimp only))

theorem setCause_keeps {pq : Kept} (f : Fld) (s : State) (hkp : Keeps pq s) : Keeps pq (setCause f s) := by
  unfold setCause
  repeat' (first | (with_reducible assumption) | (with_reducible apply State.setFlag_keeps) | (intro _) | split | (dsimp only))

theorem viFence_keeps {pq : Kept} (v cause : Nat) (s : State) (hkp : Keeps pq s) : Keeps pq (viFence v cause s) := by
  unfold viFence
  repeat' (first | (with_reducible assumption) | (with_reducible apply State.setReg_keeps) | (with_reducible apply fenceStart_keeps) | (with_reducible apply keeps_ite) | (intro _) | split | (dsimp only))

theorem writeVirst_keeps {pq : Kept} (a : Agent) (v : Word) (s : State) (hkp : Keeps pq s) : Keeps pq (writeVirst a v s) := by
  unfold writeVirst
  repeat' (first | (with_reducible assumption) | (with_reducible apply storeReg_keeps) | (with_reducible apply viFence_keeps) | (with_reducible apply keeps_ite) | (intro _) | split | (dsimp only))

theorem execViReset_keeps {pq : Kept} (a : Agent) (v : Word) (s : State) (hkp : Keeps pq s) : Ends (Keeps pq) (execViReset a v s) := by
  unfold execViReset
  repeat' (first | (with_reducible assumption) | (with_reducible apply writeVirst_keeps) | (with_reducible apply ends_next) | (intro _) | split | (dsimp only))

theorem vfFlr_keeps {pq : Kept} (vi : Nat) (s : State) (hkp : Keeps pq s) : Keeps pq (vfFlr vi s) := by
  unfold vfFlr
  repeat' (first | (with_reducible assumption) | (with_reducible apply setCause_keeps) | (with_reducible apply viFence_keeps) | (with_reducible apply keeps_ite) | (intro _) | split | (dsimp only))

theorem execVfFlr_keeps {pq : Kept} (vi : Fin 16) (s : State) (hkp : Keeps pq s) : Ends (Keeps pq) (execVfFlr vi s) := by
  unfold execVfFlr
  repeat' (first | (with_reducible assumption) | (with_reducible apply vfFlr_keeps) | (with_reducible apply ends_next) | (intro _) | split | (dsimp only))

theorem saveBacklog_keeps {pq : Kept} (l : List Cpl) (s : State) (hkp : Keeps pq s) : Keeps pq (saveBacklog l s) := by
  unfold saveBacklog
  repeat' (first | (with_reducible assumption) | (with_reducible apply loseReport_keeps) | (with_reducible apply showHold_keeps) | (with_reducible apply keeps_ite) | (with_reducible refine keeps_foldl ?_ _ ?_) | (intro _) | split | (dsimp only) | (with_reducible refine keeps_mk rfl rfl rfl rfl rfl ?_))

theorem clearHost_keeps {pq : Kept} (s : State) (h : Keeps pq s) : Keeps pq (clearHost s) := by
  unfold clearHost
  apply saveBacklog_keeps
  apply State.setFlag_keeps
  exact keeps_of_same (keeps_keep (fun k => !hostReg k) h) rfl rfl rfl rfl rfl

theorem cancelTime_keeps {pq : Kept} (s : State) (h : Keeps pq s) : Keeps pq (cancelTime s) :=
  keeps_time (State.setFlag_keeps _ _ _ _ (State.setFlag_keeps _ _ _ _ (State.setFlag_keeps _ _ _ _ h))) rfl rfl (fun _ _ e => nomatch e)

theorem stopTaskCores_keeps {pq : Kept} (s : State) (hkp : Keeps pq s) : Keeps pq (stopTaskCores s) := by
  unfold stopTaskCores
  repeat' (first | (with_reducible assumption) | (with_reducible apply stopCoreUnit_keeps) | (with_reducible apply keeps_ite) | (with_reducible refine keeps_foldl ?_ _ ?_) | (intro _) | split | (dsimp only))

theorem perstClass_keeps {pq : Kept} (cause : Nat) (bit : Fld) (s : State) (h : Keeps pq s) : Keeps pq (perstClass cause bit s) := by
  have h3 : Keeps pq (stopTaskCores (clearHost ((List.range 17).foldl (fun s f => fenceStart f cause s) (setCause bit s)))) :=
    stopTaskCores_keeps _ (clearHost_keeps _ (keeps_foldl (fun s x hs => fenceStart_keeps _ _ _ hs) _ (setCause_keeps _ _ h)))
  unfold perstClass
  refine keeps_foldl (fun s x hs => clearTlb_keeps _ _ hs) _ ?_
  split
  · exact keeps_of_same (keeps_keep (fun k => !tsrReg k) h3) rfl rfl rfl rfl rfl
  · exact keeps_of_same (keeps_keep (fun k => !tsrReg k) (cancelTime_keeps _ h3)) rfl rfl rfl rfl rfl

theorem setLinkUp_keeps {pq : Kept} (b : Bool) (s : State) (hkp : Keeps pq s) : Keeps pq (setLinkUp b s) := by
  unfold setLinkUp
  repeat' (first | (with_reducible assumption) | (intro _) | split | (dsimp only) | (with_reducible refine keeps_mk rfl rfl rfl rfl rfl ?_))

theorem execPerstN_keeps {pq : Kept} (s : State) (hkp : Keeps pq s) : Ends (Keeps pq) (execPerstN s) := by
  unfold execPerstN
  repeat' (first | (with_reducible assumption) | (with_reducible apply perstClass_keeps) | (with_reducible apply setLinkUp_keeps) | (with_reducible apply ends_next) | (with_reducible apply keeps_ite) | (intro _) | split | (dsimp only) | (with_reducible refine keeps_mk rfl rfl rfl rfl rfl ?_))

theorem execPerstNRelease_keeps {pq : Kept} (s : State) (hkp : Keeps pq s) : Ends (Keeps pq) (execPerstNRelease s) := by
  unfold execPerstNRelease
  repeat' (first | (with_reducible assumption) | (with_reducible apply ends_next) | (intro _) | split | (dsimp only) | (with_reducible refine keeps_mk rfl rfl rfl rfl rfl ?_))

theorem execPfFlr_keeps {pq : Kept} (s : State) (hkp : Keeps pq s) : Ends (Keeps pq) (execPfFlr s) := by
  unfold execPfFlr
  repeat' (first | (with_reducible assumption) | (with_reducible apply perstClass_keeps) | (with_reducible apply ends_next) | (with_reducible apply keeps_ite) | (intro _) | split | (dsimp only))

theorem linkReset_keeps {pq : Kept} (s : State) (hkp : Keeps pq s) : Keeps pq (linkReset s) := by
  unfold linkReset
  repeat' (first | (with_reducible assumption) | (with_reducible apply perstClass_keeps) | (with_reducible apply setLinkUp_keeps) | (with_reducible apply keeps_ite) | (intro _) | split | (dsimp only))

theorem execHotReset_keeps {pq : Kept} (s : State) (hkp : Keeps pq s) : Ends (Keeps pq) (execHotReset s) := by
  unfold execHotReset
  repeat' (first | (with_reducible assumption) | (with_reducible apply linkReset_keeps) | (with_reducible apply ends_next) | (intro _) | split | (dsimp only))

theorem execPcieLinkDown_keeps {pq : Kept} (s : State) (hkp : Keeps pq s) : Ends (Keeps pq) (execPcieLinkDown s) := by
  unfold execPcieLinkDown
  repeat' (first | (with_reducible assumption) | (with_reducible apply linkReset_keeps) | (with_reducible apply ends_next) | (intro _) | split | (dsimp only))

theorem execPcieLinkUp_keeps {pq : Kept} (s : State) (hkp : Keeps pq s) : Ends (Keeps pq) (execPcieLinkUp s) := by
  unfold execPcieLinkUp
  repeat' (first | (with_reducible assumption) | (with_reducible apply setLinkUp_keeps) | (with_reducible apply ends_next) | (with_reducible apply keeps_ite) | (intro _) | split | (dsimp only))

theorem coldTiles_keeps {pq : Kept} (n : Nat) : ∀ (s : State), Keeps pq s → Keeps pq (coldTiles n s) := by
  induction n with
  | zero => intro s h; exact h
  | succ m ih => intro s h; unfold coldTiles; exact ih _ (State.setTile_keeps _ _ _ (State.draw_keeps _ h))

theorem warmBelfry_keeps {pq : Kept} (s : State) (h : Keeps pq s) : Keeps pq (warmBelfry s) := by
  have step1 : ∀ (s : State) (g : Nat), Keeps pq s → Keeps pq { (s.setFlag (R.BEL_SG_CTL g) F.BEL_SG_CTL_EN false).setFld
      (R.BEL_SG_STAT g) F.BEL_SG_STAT_STATE 0 with bel := { s.bel with gens := [] } } := fun s g hs =>
    keeps_time (State.setFld_keeps _ _ _ _ (State.setFlag_keeps _ _ _ _ hs)) rfl rfl hs.sound.time.2.2
  have step2 : ∀ (s : State) (c : Nat), Keeps pq s → Keeps pq { (s.setFlag (R.BEL_CMP_CTL c) F.BEL_CMP_CTL_ARM false).setFld
      (R.BEL_CMP_CTL c) F.BEL_CMP_CTL_MODE 2 with bel := { s.bel with
        cmps := Tab.set (fun _ => {}) s.bel.cmps c { s.cmp c with queue := [], slotHit := false } } } := fun s c hs =>
    keeps_time (State.setFld_keeps _ _ _ _ (State.setFlag_keeps _ _ _ _ hs)) rfl rfl hs.sound.time.2.2
  unfold warmBelfry
  exact keeps_keep _ (State.setFld_keeps _ _ _ _ (State.setFlag_keeps _ _ _ _ (State.setFlag_keeps _ _ _ _
    (keeps_foldl step2 _ (keeps_foldl step1 _ (cancelTime_keeps _ h))))))

theorem dropSession_keeps {pq : Kept} (s : State) (hkp : Keeps pq s) : Keeps pq (dropSession s) := by
  unfold dropSession
  repeat' (first | (with_reducible assumption) | (with_reducible apply State.setFlag_keeps) | (with_reducible apply State.setFld_keeps) | (with_reducible apply keeps_ite) | (intro _) | split | (dsimp only) | (with_reducible refine keeps_mk rfl rfl rfl rfl rfl ?_))

theorem warmKeep_keeps {pq : Kept} (s : State) (h : Keeps pq s) : Keeps pq (warmKeep s) := by
  have hk : Keeps pq
      { regs := Tab.keep warmReg s.regs, bel := s.bel,
        mem := { poison := s.mem.poison, corrected := s.mem.corrected, upperDenied := s.mem.upperDenied },
        rfi := { devclk := s.rfi.devclk }, units := s.units, spk := { off := s.spk.off }, host := { link := s.host.link },
        hbm := s.hbm, hostMem := s.hostMem, out := s.out, free := s.free, pending := s.pending, chm := s.chm } :=
    keeps_of_same (keeps_keep warmReg h) rfl rfl rfl rfl rfl
  unfold warmKeep
  dsimp only
  split
  · exact State.setFlag_keeps _ _ _ _ hk
  · exact State.setFld_keeps _ _ _ _ (State.setFlag_keeps _ _ _ _ hk)

theorem warmReset_keeps {pq : Kept} (s : State) (hkp : Keeps pq s) : Keeps pq (warmReset s) := by
  unfold warmReset
  repeat' (first | (with_reducible assumption) | (with_reducible apply coldTiles_keeps) | (with_reducible apply dropSession_keeps) | (with_reducible apply setCause_keeps) | (with_reducible apply warmBelfry_keeps) | (with_reducible apply warmKeep_keeps) | (intro _) | split | (dsimp only))

theorem execSysrstN_keeps {pq : Kept} (s : State) (hkp : Keeps pq s) : Ends (Keeps pq) (execSysrstN s) := by
  unfold execSysrstN
  repeat' (first | (with_reducible assumption) | (with_reducible apply warmReset_keeps) | (with_reducible apply ends_next) | (with_reducible apply keeps_ite) | (intro _) | split | (dsimp only))

theorem keeps_cold {pq : Kept} (p : Nat → Bool) (chm : ChmSt) (s : State) (h : Keeps pq.untimed s) :
    Keeps pq.untimed
      { regs := Tab.keep p s.regs, hostMem := s.hostMem, out := s.out, free := s.free, pending := s.pending,
        rfi := { devclk := s.rfi.devclk }, chm := chm } :=
  ⟨⟨belSt_ok_zero, Tab.wf_keep _ _ _ h.sound.regs, rfl, h.sound.hostMem⟩, h.pending, fun _ e => nomatch e⟩

theorem wf_cells (l : List (Nat × Byte)) : ∀ m : Mem, Tab.wf memDefault m = true →
    Tab.wf memDefault (l.foldl (fun (m : Mem) e => m.setByte e.1 e.2) m) = true := by
  induction l with
  | nil => intro m w; exact w
  | cons e l ih => intro m w; exact ih _ (Mem.wf_setByte _ _ _ w)

theorem coldReset_keeps {pq : Kept} (held : Bool) (s : State) (h : Keeps pq.untimed s) : Keeps pq.untimed (coldReset held s) := by
  have hd := fun p chm v => State.draw_keeps _ (State.setFld_keeps _ R.CHM_BOOT_STAT F.CHM_BOOT_STAT_REVOKED v (keeps_cold p chm s h))
  unfold coldReset
  exact coldTiles_keeps _ _ (keeps_parts (hd _ _ _) rfl (hd _ _ _).sound.regs (wf_cells _ _ rfl) (hd _ _ _).sound.hostMem rfl)

theorem execPorstNAssert_keeps {pq : Kept} (s : State) (hkp : Keeps pq.untimed s) : Ends (Keeps pq.untimed) (execPorstNAssert s) := by
  unfold execPorstNAssert
  repeat' (first | (with_reducible assumption) | (with_reducible apply coldReset_keeps) | (with_reducible apply ends_next) | (intro _) | split | (dsimp only))

theorem execPgFall_keeps {pq : Kept} (_pg : Fin 4) (s : State) (hkp : Keeps pq.untimed s) : Ends (Keeps pq.untimed) (execPgFall _pg s) := by
  unfold execPgFall
  repeat' (first | (with_reducible assumption) | (with_reducible apply coldReset_keeps) | (with_reducible apply setCause_keeps) | (with_reducible apply ends_next) | (intro _) | split | (dsimp only))

theorem thermtrip_keeps {pq : Kept} (s : State) (h : Keeps pq s) : Keeps pq (thermtrip s) := by
  unfold thermtrip
  split
  · have hw := warmKeep_keeps _ h
    exact keeps_parts hw rfl (Tab.wf_keep _ _ _ h.sound.regs) hw.sound.hbm hw.sound.hostMem rfl
  · exact h

theorem execThermtripN_keeps {pq : Kept} (_sensor : Fin 24) (s : State) (hkp : Keeps pq s) : Ends (Keeps pq) (execThermtripN _sensor s) := by
  unfold execThermtripN
  repeat' (first | (with_reducible assumption) | (with_reducible apply thermtrip_keeps) | (with_reducible apply ends_next) | (intro _) | split | (dsimp only))

end Sys2Proof.Machine
end

