-- ==== Sys2Proof/Laws/KeepFaults.lean ====
section
/-! SUPPORT. What the operations of Machine/Faults.lean keep. -/

namespace Sys2Proof.Machine

theorem unitOff_keeps {pq : Kept} (k i : Nat) (s : State) (hkp : Keeps pq s) : Keeps pq (unitOff k i s) := by
  unfold unitOff
  repeat' (first | (with_reducible assumption) | (with_reducible apply fhLinkLost_keeps) | (with_reducible apply portDown_keeps) | (with_reducible apply keeps_ite) | (intro _) | split | (dsimp only))

theorem reconcileUnit_keeps {pq : Kept} (k i d : Nat) (s : State) (hkp : Keeps pq s) : Keeps pq (reconcileUnit k i d s) := by
  unfold reconcileUnit
  repeat' (first | (with_reducible assumption) | (with_reducible apply State.addSat_keeps) | (with_reducible apply State.setUnit_keeps) | (with_reducible apply event_keeps) | (with_reducible apply unitOff_keeps) | (with_reducible apply keeps_ite) | (intro _) | split | (dsimp only))

theorem sweep_keeps {pq : Kept} (s : State) (hkp : Keeps pq s) : Keeps pq (sweep s) := by
  unfold sweep
  repeat' (first | (with_reducible assumption) | (with_reducible apply reconcileUnit_keeps) | (with_reducible refine keeps_foldl ?_ _ ?_) | (intro _) | split | (dsimp only))

theorem applyUnits_keeps {pq : Kept} (s : State) (hkp : Keeps pq s) : Keeps pq (applyUnits s) := by
  unfold applyUnits
  repeat' (first | (with_reducible assumption) | (with_reducible apply State.setUnit_keeps) | (with_reducible refine keeps_foldl ?_ _ ?_) | (intro _) | split | (dsimp only))

theorem unitClear_keeps {pq : Kept} (k i : Nat) (s : State) (hkp : Keeps pq s) : Keeps pq (unitClear k i s) := by
  unfold unitClear
  repeat' (first | (with_reducible assumption) | (with_reducible apply State.setUnit_keeps) | (with_reducible apply coreClear_keeps) | (with_reducible apply leavePort_keeps) | (with_reducible apply navClear_keeps) | (with_reducible apply keeps_ite) | (intro _) | split | (dsimp only))

theorem writeUnitClr_keeps {pq : Kept} (a : Agent) (v : Word) (s : State) (hkp : Keeps pq s) : Keeps pq (writeUnitClr a v s) := by
  unfold writeUnitClr
  repeat' (first | (with_reducible assumption) | (with_reducible apply storeReg_keeps) | (with_reducible apply unitClear_keeps) | (with_reducible apply keeps_ite) | (intro _) | split | (dsimp only))

theorem execGlbUnitClr_keeps {pq : Kept} (a : Agent) (v : Word) (s : State) (hkp : Keeps pq s) : Ends (Keeps pq) (execGlbUnitClr a v s) := by
  unfold execGlbUnitClr
  repeat' (first | (with_reducible assumption) | (with_reducible apply writeUnitClr_keeps) | (with_reducible apply ends_next) | (intro _) | split | (dsimp only))

theorem zeroingDone_keeps {pq : Kept} (k i : Nat) (s : State) (hkp : Keeps pq s) : Keeps pq (zeroingDone k i s) := by
  unfold zeroingDone
  repeat' (first | (with_reducible assumption) | (with_reducible apply State.setCore_keeps) | (with_reducible apply State.setTile_keeps) | (with_reducible apply keeps_ite) | (intro _) | split | (dsimp only))

theorem execUnitZeroingDone_keeps {pq : Kept} (u : UnitRef) (s : State) (hkp : Keeps pq s) : Ends (Keeps pq) (execUnitZeroingDone u s) := by
  unfold execUnitZeroingDone
  repeat' (first | (with_reducible assumption) | (with_reducible apply zeroingDone_keeps) | (with_reducible apply ends_next) | (intro _) | split | (dsimp only))

end Sys2Proof.Machine
end

