-- ==== Sys2Proof/Laws/KeepPower.lean ====
section
/-! SUPPORT. What the operations of Machine/Power.lean keep. -/

namespace Sys2Proof.Machine

theorem State.setIsl_keeps {pq : Kept} (s : State) (cl : Bool) (x : IslandSt) (hkp : Keeps pq s) : Keeps pq (State.setIsl s cl x) := by
  unfold State.setIsl
  repeat' (first | (with_reducible assumption) | (with_reducible apply keeps_ite) | (intro _) | split | (dsimp only) | (with_reducible refine keeps_mk rfl rfl rfl rfl rfl ?_))

theorem showIsl_keeps {pq : Kept} (cl : Bool) (s : State) (hkp : Keeps pq s) : Keeps pq (showIsl cl s) := by
  unfold showIsl
  repeat' (first | (with_reducible assumption) | (with_reducible apply State.setIsl_keeps) | (with_reducible apply keeps_ite) | (intro _) | split | (dsimp only))

theorem voutResult_keeps {pq : Kept} (cl : Bool) (p tries : Nat) (ack : Bool) (s : State) (hkp : Keeps pq s) : Keeps pq (voutResult cl p tries ack s) := by
  unfold voutResult
  repeat' (first | (with_reducible assumption) | (with_reducible apply State.emit_keeps) | (with_reducible apply State.setFlag_keeps) | (with_reducible apply State.setFld_keeps) | (with_reducible apply State.setIsl_keeps) | (with_reducible apply showIsl_keeps) | (with_reducible apply keeps_ite) | (intro _) | split | (dsimp only))

theorem dvfsStep_keeps {pq : Kept} (cl ack : Bool) (s : State) (hkp : Keeps pq s) : Keeps pq (dvfsStep cl ack s) := by
  unfold dvfsStep
  repeat' (first | (with_reducible assumption) | (with_reducible apply State.setIsl_keeps) | (with_reducible apply voutResult_keeps) | (with_reducible apply keeps_ite) | (intro _) | split | (dsimp only))

theorem execDvfsStep_keeps {pq : Kept} (cl ack : Bool) (s : State) (hkp : Keeps pq s) : Ends (Keeps pq) (execDvfsStep cl ack s) := by
  unfold execDvfsStep
  repeat' (first | (with_reducible assumption) | (with_reducible apply dvfsStep_keeps) | (with_reducible apply ends_next) | (intro _) | split | (dsimp only))

theorem slewWaitEnd_keeps {pq : Kept} (cl : Bool) (s : State) (hkp : Keeps pq s) : Keeps pq (slewWaitEnd cl s) := by
  unfold slewWaitEnd
  repeat' (first | (with_reducible assumption) | (with_reducible apply State.setIsl_keeps) | (with_reducible apply showIsl_keeps) | (intro _) | split | (dsimp only))

theorem execSlewWaitEnd_keeps {pq : Kept} (cl : Bool) (s : State) (hkp : Keeps pq s) : Ends (Keeps pq) (execSlewWaitEnd cl s) := by
  unfold execSlewWaitEnd
  repeat' (first | (with_reducible assumption) | (with_reducible apply slewWaitEnd_keeps) | (with_reducible apply ends_next) | (intro _) | split | (dsimp only))

theorem pmbusRetry_keeps {pq : Kept} (cl ack : Bool) (s : State) (hkp : Keeps pq s) : Keeps pq (pmbusRetry cl ack s) := by
  unfold pmbusRetry
  repeat' (first | (with_reducible assumption) | (with_reducible apply voutResult_keeps) | (intro _) | split | (dsimp only))

theorem execPmbusRetry_keeps {pq : Kept} (cl ack : Bool) (s : State) (hkp : Keeps pq s) : Ends (Keeps pq) (execPmbusRetry cl ack s) := by
  unfold execPmbusRetry
  repeat' (first | (with_reducible assumption) | (with_reducible apply pmbusRetry_keeps) | (with_reducible apply ends_next) | (intro _) | split | (dsimp only))

theorem execDvfsRequest_keeps {pq : Kept} (a : Agent) (v : Word) (s : State) (hkp : Keeps pq s) : Ends (Keeps pq) (execDvfsRequest a v s) := by
  unfold execDvfsRequest
  repeat' (first | (with_reducible assumption) | (with_reducible apply storeReg_keeps) | (with_reducible apply ends_next) | (intro _) | split | (dsimp only))

theorem setThr_keeps {pq : Kept} (t : ThrSt) (s : State) (hkp : Keeps pq s) : Keeps pq (setThr t s) := by
  unfold setThr
  repeat' (first | (with_reducible assumption) | (intro _) | split | (dsimp only) | (with_reducible refine keeps_mk rfl rfl rfl rfl rfl ?_))

theorem throttleEvent_keeps {pq : Kept} (active : Bool) (s : State) (hkp : Keeps pq s) : Keeps pq (throttleEvent active s) := by
  unfold throttleEvent
  repeat' (first | (with_reducible assumption) | (with_reducible apply event_keeps) | (intro _) | split | (dsimp only))

theorem showThr_keeps {pq : Kept} (s : State) (hkp : Keeps pq s) : Keeps pq (showThr s) := by
  unfold showThr
  repeat' (first | (with_reducible assumption) | (with_reducible apply State.setFlag_keeps) | (with_reducible apply State.setFld_keeps) | (intro _) | split | (dsimp only))

theorem evalThr_keeps {pq : Kept} (s : State) (hkp : Keeps pq s) : Keeps pq (evalThr s) := by
  unfold evalThr
  repeat' (first | (with_reducible assumption) | (with_reducible apply State.addWrap_keeps) | (with_reducible apply setThr_keeps) | (with_reducible apply showThr_keeps) | (with_reducible apply throttleEvent_keeps) | (with_reducible apply keeps_ite) | (intro _) | split | (dsimp only))

theorem throttleStep_keeps {pq : Kept} (s : State) (hkp : Keeps pq s) : Keeps pq (throttleStep s) := by
  unfold throttleStep
  repeat' (first | (with_reducible assumption) | (with_reducible apply setThr_keeps) | (with_reducible apply keeps_ite) | (intro _) | split | (dsimp only))

theorem execThrottleStep_keeps {pq : Kept} (s : State) (hkp : Keeps pq s) : Ends (Keeps pq) (execThrottleStep s) := by
  unfold execThrottleStep
  repeat' (first | (with_reducible assumption) | (with_reducible apply throttleStep_keeps) | (with_reducible apply ends_next) | (intro _) | split | (dsimp only))

theorem throttleReleaseStep_keeps {pq : Kept} (s : State) (hkp : Keeps pq s) : Keeps pq (throttleReleaseStep s) := by
  unfold throttleReleaseStep
  repeat' (first | (with_reducible assumption) | (with_reducible apply setThr_keeps) | (with_reducible apply showThr_keeps) | (with_reducible apply throttleEvent_keeps) | (with_reducible apply keeps_ite) | (intro _) | split | (dsimp only))

theorem execThrottleReleaseStep_keeps {pq : Kept} (s : State) (hkp : Keeps pq s) : Ends (Keeps pq) (execThrottleReleaseStep s) := by
  unfold execThrottleReleaseStep
  repeat' (first | (with_reducible assumption) | (with_reducible apply throttleReleaseStep_keeps) | (with_reducible apply ends_next) | (intro _) | split | (dsimp only))

theorem sensorSample_keeps {pq : Kept} (temps : List (BitVec 12)) (s : State) (hkp : Keeps pq s) : Keeps pq (sensorSample temps s) := by
  unfold sensorSample
  repeat' (first | (with_reducible assumption) | (with_reducible apply State.setFld_keeps) | (with_reducible apply State.setReg_keeps) | (with_reducible apply evalThr_keeps) | (with_reducible apply keeps_ite) | (with_reducible refine keeps_foldl ?_ _ ?_) | (intro _) | split | (dsimp only))

theorem execSensorSample_keeps {pq : Kept} (temps : List (BitVec 12)) (s : State) (hkp : Keeps pq s) : Ends (Keeps pq) (execSensorSample temps s) := by
  unfold execSensorSample
  repeat' (first | (with_reducible assumption) | (with_reducible apply sensorSample_keeps) | (with_reducible apply ends_next) | (intro _) | split | (dsimp only))

theorem powerEstimate_keeps {pq : Kept} (mw : List Word) (s : State) (hkp : Keeps pq s) : Keeps pq (powerEstimate mw s) := by
  unfold powerEstimate
  repeat' (first | (with_reducible assumption) | (with_reducible apply State.setPair_keeps) | (with_reducible apply State.setReg_keeps) | (with_reducible apply evalThr_keeps) | (with_reducible apply keeps_ite) | (with_reducible refine keeps_foldl ?_ _ ?_) | (intro _) | split | (dsimp only) | (with_reducible refine keeps_mk rfl rfl rfl rfl rfl ?_))

theorem execPowerEstimate_keeps {pq : Kept} (mw : List Word) (s : State) (hkp : Keeps pq s) : Ends (Keeps pq) (execPowerEstimate mw s) := by
  unfold execPowerEstimate
  repeat' (first | (with_reducible assumption) | (with_reducible apply powerEstimate_keeps) | (with_reducible apply ends_next) | (intro _) | split | (dsimp only))

theorem requestProfile_keeps {pq : Kept} (p sg : Nat) (s : State) (hkp : Keeps pq s) : Keeps pq (requestProfile p sg s) := by
  unfold requestProfile
  repeat' (first | (with_reducible assumption) | (with_reducible apply State.setFlag_keeps) | (with_reducible apply keeps_ite) | (intro _) | split | (dsimp only) | (with_reducible refine keeps_mk rfl rfl rfl rfl rfl ?_))

theorem writeProfReq_keeps {pq : Kept} (a : Agent) (v : Word) (s : State) (hkp : Keeps pq s) : Keeps pq (writeProfReq a v s) := by
  unfold writeProfReq
  repeat' (first | (with_reducible assumption) | (with_reducible apply requestProfile_keeps) | (with_reducible apply storeReg_keeps) | (with_reducible apply keeps_ite) | (intro _) | split | (dsimp only))

theorem execProfileRequest_keeps {pq : Kept} (a : Agent) (v : Word) (s : State) (hkp : Keeps pq s) : Ends (Keeps pq) (execProfileRequest a v s) := by
  unfold execProfileRequest
  repeat' (first | (with_reducible assumption) | (with_reducible apply writeProfReq_keeps) | (with_reducible apply ends_next) | (intro _) | split | (dsimp only))

theorem switchIslands_keeps {pq : Kept} (p : Nat) (s : State) (hkp : Keeps pq s) : Keeps pq (switchIslands p s) := by
  unfold switchIslands
  repeat' (first | (with_reducible assumption) | (with_reducible apply spokePowerOff_keeps) | (with_reducible apply spokePowerOn_keeps) | (with_reducible apply keeps_ite) | (intro _) | split | (dsimp only) | (with_reducible refine keeps_mk rfl rfl rfl rfl rfl ?_))

theorem beginProfile_keeps {pq : Kept} (p : Nat) (s : State) (hkp : Keeps pq s) : Keeps pq (beginProfile p s) := by
  unfold beginProfile
  repeat' (first | (with_reducible assumption) | (with_reducible apply State.setFlag_keeps) | (with_reducible apply State.setFld_keeps) | (with_reducible apply State.setReg_keeps) | (with_reducible apply switchIslands_keeps) | (intro _) | split | (dsimp only) | (with_reducible refine keeps_mk rfl rfl rfl rfl rfl ?_))

theorem profileStrobe_keeps {pq : Kept} (g : Nat) (s : State) (hkp : Keeps pq s) : Keeps pq (profileStrobe g s) := by
  unfold profileStrobe
  repeat' (first | (with_reducible assumption) | (with_reducible apply beginProfile_keeps) | (with_reducible apply keeps_ite) | (intro _) | split | (dsimp only))

theorem profileChangeComplete_keeps {pq : Kept} (s : State) (hkp : Keeps pq s) : Keeps pq (profileChangeComplete s) := by
  unfold profileChangeComplete
  repeat' (first | (with_reducible assumption) | (with_reducible apply State.setFlag_keeps) | (with_reducible apply State.setFld_keeps) | (with_reducible apply event_keeps) | (with_reducible apply showIsl_keeps) | (with_reducible apply keeps_ite) | (intro _) | split | (dsimp only) | (with_reducible refine keeps_mk rfl rfl rfl rfl rfl ?_))

theorem execProfileChangeComplete_keeps {pq : Kept} (s : State) (hkp : Keeps pq s) : Ends (Keeps pq) (execProfileChangeComplete s) := by
  unfold execProfileChangeComplete
  repeat' (first | (with_reducible assumption) | (with_reducible apply profileChangeComplete_keeps) | (with_reducible apply ends_next) | (intro _) | split | (dsimp only))

theorem initProfile_keeps {pq : Kept} (p : Nat) (s : State) (hkp : Keeps pq s) : Keeps pq (initProfile p s) := by
  unfold initProfile
  repeat' (first | (with_reducible assumption) | (with_reducible apply State.setFld_keeps) | (with_reducible apply State.setReg_keeps) | (with_reducible apply applyUnits_keeps) | (with_reducible apply keeps_ite) | (intro _) | split | (dsimp only) | (with_reducible refine keeps_mk rfl rfl rfl rfl rfl ?_))

theorem reconciliation_keeps {pq : Kept} (s : State) (hkp : Keeps pq s) : Keeps pq (reconciliation s) := by
  unfold reconciliation
  repeat' (first | (with_reducible assumption) | (with_reducible apply beginProfile_keeps) | (with_reducible apply sweep_keeps) | (with_reducible apply keeps_ite) | (intro _) | split | (dsimp only) | (with_reducible refine keeps_mk rfl rfl rfl rfl rfl ?_))

theorem execReconciliation_keeps {pq : Kept} (s : State) (hkp : Keeps pq s) : Ends (Keeps pq) (execReconciliation s) := by
  unfold execReconciliation
  repeat' (first | (with_reducible assumption) | (with_reducible apply reconciliation_keeps) | (with_reducible apply ends_next) | (intro _) | split | (dsimp only))

theorem overrideEvent_keeps {pq : Kept} (en : Bool) (s : State) (hkp : Keeps pq s) : Keeps pq (overrideEvent en s) := by
  unfold overrideEvent
  repeat' (first | (with_reducible assumption) | (with_reducible apply event_keeps) | (intro _) | split | (dsimp only))

theorem setOverride_keeps {pq : Kept} (en : Bool) (s : State) (hkp : Keeps pq s) : Keeps pq (setOverride en s) := by
  unfold setOverride
  repeat' (first | (with_reducible assumption) | (with_reducible apply State.setFlag_keeps) | (with_reducible apply overrideEvent_keeps) | (with_reducible apply keeps_ite) | (intro _) | split | (dsimp only))

theorem writeOvr_keeps {pq : Kept} (a : Agent) (v : Word) (s : State) (hkp : Keeps pq s) : Keeps pq (writeOvr a v s) := by
  unfold writeOvr
  repeat' (first | (with_reducible assumption) | (with_reducible apply State.setFlag_keeps) | (with_reducible apply setOverride_keeps) | (with_reducible apply storeReg_keeps) | (with_reducible apply keeps_ite) | (intro _) | split | (dsimp only))

theorem execChmOvrWrite_keeps {pq : Kept} (a : Agent) (v : Word) (s : State) (hkp : Keeps pq s) : Ends (Keeps pq) (execChmOvrWrite a v s) := by
  unfold execChmOvrWrite
  repeat' (first | (with_reducible assumption) | (with_reducible apply writeOvr_keeps) | (with_reducible apply ends_next) | (intro _) | split | (dsimp only))

theorem overrideStrobe_keeps {pq : Kept} (g : Nat) (s : State) (hkp : Keeps pq s) : Keeps pq (overrideStrobe g s) := by
  unfold overrideStrobe
  repeat' (first | (with_reducible assumption) | (with_reducible apply keeps_ite) | (intro _) | split | (dsimp only) | (with_reducible refine keeps_mk rfl rfl rfl rfl rfl ?_))

end Sys2Proof.Machine
end

