-- ==== Sys2Proof/Laws/KeepBoot.lean ====
section
/-! SUPPORT. What the operations of Machine/Boot.lean keep. -/

namespace Sys2Proof.Machine

theorem setFlash_keeps {pq : Kept} (t : Tab Byte) (s : State) (hkp : Keeps pq s) : Keeps pq (setFlash t s) := by
  unfold setFlash
  repeat' (first | (with_reducible assumption) | (intro _) | split | (dsimp only) | (with_reducible refine keeps_mk rfl rfl rfl rfl rfl ?_))

theorem setLoaded_keeps {pq : Kept} (t : Tab Byte) (s : State) (hkp : Keeps pq s) : Keeps pq (setLoaded t s) := by
  unfold setLoaded
  repeat' (first | (with_reducible assumption) | (intro _) | split | (dsimp only) | (with_reducible refine keeps_mk rfl rfl rfl rfl rfl ?_))

theorem writeBankBytes_keeps {pq : Kept} (b off : Nat) (bs : List Byte) (s : State) (hkp : Keeps pq s) : Keeps pq (writeBankBytes b off bs s) := by
  unfold writeBankBytes
  repeat' (first | (with_reducible assumption) | (with_reducible apply setFlash_keeps) | (with_reducible apply setLoaded_keeps) | (with_reducible apply keeps_ite) | (intro _) | split | (dsimp only))

theorem eraseRegion_keeps {pq : Kept} (b kind : Nat) (s : State) (hkp : Keeps pq s) : Keeps pq (eraseRegion b kind s) := by
  unfold eraseRegion
  repeat' (first | (with_reducible assumption) | (with_reducible apply setFlash_keeps) | (with_reducible apply setLoaded_keeps) | (with_reducible apply keeps_ite) | (intro _) | split | (dsimp only))

theorem copyBank_keeps {pq : Kept} (src dst : Nat) (s : State) (hkp : Keeps pq s) : Keeps pq (copyBank src dst s) := by
  unfold copyBank
  repeat' (first | (with_reducible assumption) | (with_reducible apply eraseRegion_keeps) | (with_reducible apply setFlash_keeps) | (with_reducible refine keeps_foldl ?_ _ ?_) | (intro _) | split | (dsimp only))

theorem showStart_keeps {pq : Kept} (c : Option ChfRun) (o : StartOutcome) (s : State) (hkp : Keeps pq s) : Keeps pq (showStart c o s) := by
  unfold showStart
  repeat' (first | (with_reducible assumption) | (with_reducible apply State.setFld_keeps) | (with_reducible apply State.setReg_keeps) | (with_reducible apply keeps_ite) | (intro _) | split | (dsimp only))

theorem voutModes_keeps {pq : Kept} (s : State) (hkp : Keeps pq s) : Keeps pq (voutModes s) := by
  unfold voutModes
  repeat' (first | (with_reducible assumption) | (with_reducible apply State.setFlag_keeps) | (with_reducible apply State.setFld_keeps) | (with_reducible apply keeps_ite) | (intro _) | split | (dsimp only))

theorem startDecision_keeps {pq : Kept} (s : State) (hkp : Keeps pq s) : Keeps pq (startDecision s) := by
  unfold startDecision
  repeat' (first | (with_reducible assumption) | (with_reducible apply State.setFlag_keeps) | (with_reducible apply showStart_keeps) | (with_reducible apply voutModes_keeps) | (with_reducible apply keeps_ite) | (intro _) | split | (dsimp only) | (with_reducible refine keeps_mk rfl rfl rfl rfl rfl ?_))

theorem execStartDecision_keeps {pq : Kept} (s : State) (hkp : Keeps pq s) : Ends (Keeps pq) (execStartDecision s) := by
  unfold execStartDecision
  repeat' (first | (with_reducible assumption) | (with_reducible apply startDecision_keeps) | (with_reducible apply ends_next) | (intro _) | split | (dsimp only))

theorem porstRelease_keeps {pq : Kept} (boot prof : Nat) (twin : Bool) (s : State) (hkp : Keeps pq.untimed s) : Keeps pq.untimed (porstRelease boot prof twin s) := by
  unfold porstRelease
  repeat' (first | (with_reducible assumption) | (with_reducible apply State.setFlag_keeps) | (with_reducible apply State.setFld_keeps) | (with_reducible apply initProfile_keeps) | (with_reducible apply keeps_ite) | (intro _) | split | (dsimp only) | (with_reducible refine keeps_mk rfl rfl rfl rfl rfl ?_) | (with_reducible refine keeps_belfry rfl rfl (fun _ e => e) rfl rfl rfl rfl ?_) | (with_reducible refine keeps_belfry rfl rfl (fun _ e => nomatch e) rfl rfl rfl rfl ?_) | (with_reducible refine keeps_zero rfl rfl rfl rfl ?_))

theorem execPorstNRelease_keeps {pq : Kept} (bootSrc profile : Fin 4) (twinEn : Bool) (s : State) (hkp : Keeps pq.untimed s) : Ends (Keeps pq.untimed) (execPorstNRelease bootSrc profile twinEn s) := by
  unfold execPorstNRelease
  repeat' (first | (with_reducible assumption) | (with_reducible apply porstRelease_keeps) | (with_reducible apply ends_next) | (intro _) | split | (dsimp only))

theorem restartChm_keeps {pq : Kept} (s : State) (hkp : Keeps pq s) : Keeps pq (restartChm s) := by
  unfold restartChm
  repeat' (first | (with_reducible assumption) | (with_reducible apply restart_keeps) | (with_reducible apply warmReset_keeps) | (intro _) | split | (dsimp only) | (with_reducible refine keeps_mk rfl rfl rfl rfl rfl ?_))

theorem setSession_keeps {pq : Kept} (owner : Nat) (s : State) (hkp : Keeps pq s) : Keeps pq (setSession owner s) := by
  unfold setSession
  repeat' (first | (with_reducible assumption) | (with_reducible apply State.setFlag_keeps) | (intro _) | split | (dsimp only) | (with_reducible refine keeps_mk rfl rfl rfl rfl rfl ?_))

theorem openSession_keeps {pq : Kept} (owner : Nat) (s : State) (hkp : Keeps pq s) : Keeps pq (openSession owner s) := by
  unfold openSession
  repeat' (first | (with_reducible assumption) | (with_reducible apply copyBank_keeps) | (with_reducible apply setSession_keeps) | (with_reducible apply keeps_ite) | (intro _) | split | (dsimp only))

theorem beginImage_keeps {pq : Kept} (kind total : Nat) (s : State) (hkp : Keeps pq s) : Keeps pq (beginImage kind total s) := by
  unfold beginImage
  repeat' (first | (with_reducible assumption) | (with_reducible apply eraseRegion_keeps) | (intro _) | split | (dsimp only) | (with_reducible refine keeps_mk rfl rfl rfl rfl rfl ?_))

theorem writeChunk_keeps {pq : Kept} (off : Nat) (bs : List Byte) (s : State) (hkp : Keeps pq s) : Keeps pq (writeChunk off bs s) := by
  unfold writeChunk
  repeat' (first | (with_reducible assumption) | (with_reducible apply writeBankBytes_keeps) | (intro _) | split | (dsimp only))

theorem verifyImage_keeps {pq : Kept} (kind : Nat) (s : State) (hkp : Keeps pq s) : Keeps pq (verifyImage kind s).2 := by
  unfold verifyImage
  repeat' (first | (with_reducible assumption) | (with_reducible apply eraseRegion_keeps) | (with_reducible apply keeps_ite) | (intro _) | split | (dsimp only))

theorem activate_keeps {pq : Kept} (s : State) (hkp : Keeps pq s) : Keeps pq (activate s) := by
  unfold activate
  repeat' (first | (with_reducible assumption) | (with_reducible apply setFlash_keeps) | (with_reducible apply setSession_keeps) | (with_reducible apply keeps_ite) | (intro _) | split | (dsimp only))

theorem setRsp_keeps {pq : Kept} (l : List Nat) (s : State) (hkp : Keeps pq s) : Keeps pq (setRsp l s) := by
  unfold setRsp
  repeat' (first | (with_reducible assumption) | (with_reducible apply State.setReg_keeps) | (with_reducible refine keeps_foldl ?_ _ ?_) | (intro _) | split | (dsimp only))

theorem getFw_keeps {pq : Kept} (which : Nat) (s : State) (hkp : Keeps pq s) : Keeps pq (getFw which s).2 := by
  unfold getFw
  repeat' (first | (with_reducible assumption) | (with_reducible apply State.setReg_keeps) | (with_reducible apply setRsp_keeps) | (with_reducible apply keeps_ite) | (intro _) | split | (dsimp only))

theorem inSession_keeps {pq : Kept} (s : State) (k : State → Nat × State) (h : Keeps pq s)
    (hk : ∀ s, Keeps pq s → Keeps pq (k s).2) : Keeps pq (inSession s k).2 := by
  unfold inSession
  split
  · exact hk _ h
  · exact h

theorem updImage_keeps {pq : Kept} (s : State) (hkp : Keeps pq s) : Keeps pq (updImage s).2 := by
  unfold updImage
  repeat' (first | (with_reducible assumption) | (with_reducible apply beginImage_keeps) | (with_reducible apply inSession_keeps) | (with_reducible apply keeps_ite) | (intro _) | split | (with_reducible refine keeps_snd (by assumption) ?_) | (dsimp only))

theorem updChunk_keeps {pq : Kept} (s : State) (hkp : Keeps pq s) : Keeps pq (updChunk s).2 := by
  unfold updChunk
  repeat' (first | (with_reducible assumption) | (with_reducible apply inSession_keeps) | (with_reducible apply writeChunk_keeps) | (with_reducible apply keeps_ite) | (intro _) | split | (with_reducible refine keeps_snd (by assumption) ?_) | (dsimp only))

theorem updVerify_keeps {pq : Kept} (s : State) (hkp : Keeps pq s) : Keeps pq (updVerify s).2 := by
  unfold updVerify
  repeat' (first | (with_reducible assumption) | (with_reducible apply inSession_keeps) | (with_reducible apply verifyImage_keeps) | (with_reducible apply keeps_ite) | (intro _) | split | (with_reducible refine keeps_snd (by assumption) ?_) | (dsimp only))

theorem updActivate_keeps {pq : Kept} (s : State) (hkp : Keeps pq s) : Keeps pq (updActivate s).2 := by
  unfold updActivate
  repeat' (first | (with_reducible assumption) | (with_reducible apply activate_keeps) | (with_reducible apply inSession_keeps) | (with_reducible apply restart_keeps) | (with_reducible apply keeps_ite) | (intro _) | split | (with_reducible refine keeps_snd (by assumption) ?_) | (dsimp only) | (with_reducible refine keeps_mk rfl rfl rfl rfl rfl ?_))

theorem probeStaged_keeps {pq : Kept} (s : State) (hkp : Keeps pq s) : Keeps pq (probeStaged s).2 := by
  unfold probeStaged
  repeat' (first | (with_reducible assumption) | (with_reducible apply State.setFld_keeps) | (intro _) | split | (dsimp only))

theorem expertCmd_keeps {pq : Kept} (s : State) (k : State → Nat × State) (h : Keeps pq s)
    (hk : ∀ s, Keeps pq s → Keeps pq (k s).2) : Keeps pq (expertCmd s k).2 := by
  unfold expertCmd
  split
  · exact h
  · split
    · exact hk _ h
    · exact State.setFlag_keeps _ _ _ _ h

theorem setUnitCmd_keeps {pq : Kept} (s : State) (hkp : Keeps pq s) : Keeps pq (setUnitCmd s).2 := by
  unfold setUnitCmd
  repeat' (first | (with_reducible assumption) | (with_reducible apply State.setUnit_keeps) | (with_reducible apply expertCmd_keeps) | (with_reducible apply keeps_ite) | (intro _) | split | (with_reducible refine keeps_snd (by assumption) ?_) | (dsimp only))

theorem clearUnitCmd_keeps {pq : Kept} (s : State) (hkp : Keeps pq s) : Keeps pq (clearUnitCmd s).2 := by
  unfold clearUnitCmd
  repeat' (first | (with_reducible assumption) | (with_reducible apply expertCmd_keeps) | (with_reducible apply unitClear_keeps) | (with_reducible apply keeps_ite) | (intro _) | split | (with_reducible refine keeps_snd (by assumption) ?_) | (dsimp only))

theorem runCmd_keeps {pq : Kept} (op : Nat) (s : State) (hkp : Keeps pq s) : Keeps pq (runCmd op s).2 := by
  unfold runCmd
  repeat' (first | (with_reducible assumption) | (with_reducible apply clearUnitCmd_keeps) | (with_reducible apply getFw_keeps) | (with_reducible apply inSession_keeps) | (with_reducible apply openSession_keeps) | (with_reducible apply probeStaged_keeps) | (with_reducible apply setSession_keeps) | (with_reducible apply setUnitCmd_keeps) | (with_reducible apply updActivate_keeps) | (with_reducible apply updChunk_keeps) | (with_reducible apply updImage_keeps) | (with_reducible apply updVerify_keeps) | (with_reducible apply keeps_ite) | (intro _) | split | (with_reducible refine keeps_snd (by assumption) ?_) | (dsimp only))

theorem writeCmd_keeps {pq : Kept} (a : Agent) (v : Word) (s : State) (hkp : Keeps pq s) : Keeps pq (writeCmd a v s) := by
  unfold writeCmd
  repeat' (first | (with_reducible assumption) | (with_reducible apply State.setFlag_keeps) | (with_reducible apply runCmd_keeps) | (with_reducible apply storeReg_keeps) | (with_reducible apply keeps_ite) | (intro _) | split | (with_reducible refine keeps_snd (by assumption) ?_) | (dsimp only) | (with_reducible refine keeps_mk rfl rfl rfl rfl rfl ?_))

theorem execGetFw_keeps {pq : Kept} (a : Agent) (v : Word) (s : State) (hkp : Keeps pq s) : Ends (Keeps pq) (execGetFw a v s) := by
  unfold execGetFw
  repeat' (first | (with_reducible assumption) | (with_reducible apply writeCmd_keeps) | (with_reducible apply ends_next) | (intro _) | split | (dsimp only))

theorem execUpdBegin_keeps {pq : Kept} (a : Agent) (v : Word) (s : State) (hkp : Keeps pq s) : Ends (Keeps pq) (execUpdBegin a v s) := by
  unfold execUpdBegin
  repeat' (first | (with_reducible assumption) | (with_reducible apply writeCmd_keeps) | (with_reducible apply ends_next) | (intro _) | split | (dsimp only))

theorem execUpdImage_keeps {pq : Kept} (a : Agent) (v : Word) (s : State) (hkp : Keeps pq s) : Ends (Keeps pq) (execUpdImage a v s) := by
  unfold execUpdImage
  repeat' (first | (with_reducible assumption) | (with_reducible apply writeCmd_keeps) | (with_reducible apply ends_next) | (intro _) | split | (dsimp only))

theorem execUpdChunk_keeps {pq : Kept} (a : Agent) (v : Word) (s : State) (hkp : Keeps pq s) : Ends (Keeps pq) (execUpdChunk a v s) := by
  unfold execUpdChunk
  repeat' (first | (with_reducible assumption) | (with_reducible apply writeCmd_keeps) | (with_reducible apply ends_next) | (intro _) | split | (dsimp only))

theorem execUpdVerify_keeps {pq : Kept} (a : Agent) (v : Word) (s : State) (hkp : Keeps pq s) : Ends (Keeps pq) (execUpdVerify a v s) := by
  unfold execUpdVerify
  repeat' (first | (with_reducible assumption) | (with_reducible apply writeCmd_keeps) | (with_reducible apply ends_next) | (intro _) | split | (dsimp only))

theorem execProbe_keeps {pq : Kept} (a : Agent) (v : Word) (s : State) (hkp : Keeps pq s) : Ends (Keeps pq) (execProbe a v s) := by
  unfold execProbe
  repeat' (first | (with_reducible assumption) | (with_reducible apply writeCmd_keeps) | (with_reducible apply ends_next) | (intro _) | split | (dsimp only))

theorem execUpdActivate_keeps {pq : Kept} (a : Agent) (v : Word) (s : State) (hkp : Keeps pq s) : Ends (Keeps pq) (execUpdActivate a v s) := by
  unfold execUpdActivate
  repeat' (first | (with_reducible assumption) | (with_reducible apply writeCmd_keeps) | (with_reducible apply ends_next) | (intro _) | split | (dsimp only))

theorem execUpdAbort_keeps {pq : Kept} (a : Agent) (v : Word) (s : State) (hkp : Keeps pq s) : Ends (Keeps pq) (execUpdAbort a v s) := by
  unfold execUpdAbort
  repeat' (first | (with_reducible assumption) | (with_reducible apply writeCmd_keeps) | (with_reducible apply ends_next) | (intro _) | split | (dsimp only))

theorem execSetUnit_keeps {pq : Kept} (a : Agent) (v : Word) (s : State) (hkp : Keeps pq s) : Ends (Keeps pq) (execSetUnit a v s) := by
  unfold execSetUnit
  repeat' (first | (with_reducible assumption) | (with_reducible apply writeCmd_keeps) | (with_reducible apply ends_next) | (intro _) | split | (dsimp only))

theorem execClearUnit_keeps {pq : Kept} (a : Agent) (v : Word) (s : State) (hkp : Keeps pq s) : Ends (Keeps pq) (execClearUnit a v s) := by
  unfold execClearUnit
  repeat' (first | (with_reducible assumption) | (with_reducible apply writeCmd_keeps) | (with_reducible apply ends_next) | (intro _) | split | (dsimp only))

theorem fwEvent_keeps {pq : Kept} (op kind result : Nat) (s : State) (hkp : Keeps pq s) : Keeps pq (fwEvent op kind result s) := by
  unfold fwEvent
  repeat' (first | (with_reducible assumption) | (with_reducible apply event_keeps) | (intro _) | split | (dsimp only))

theorem mailboxCommandEnd_keeps {pq : Kept} (s : State) (hkp : Keeps pq s) : Keeps pq (mailboxCommandEnd s) := by
  unfold mailboxCommandEnd
  repeat' (first | (with_reducible assumption) | (with_reducible apply State.setFlag_keeps) | (with_reducible apply State.setFld_keeps) | (with_reducible apply fwEvent_keeps) | (with_reducible apply restartChm_keeps) | (with_reducible apply keeps_ite) | (intro _) | split | (dsimp only) | (with_reducible refine keeps_mk rfl rfl rfl rfl rfl ?_))

theorem execMailboxCommandEnd_keeps {pq : Kept} (s : State) (hkp : Keeps pq s) : Ends (Keeps pq) (execMailboxCommandEnd s) := by
  unfold execMailboxCommandEnd
  repeat' (first | (with_reducible assumption) | (with_reducible apply mailboxCommandEnd_keeps) | (with_reducible apply ends_next) | (intro _) | split | (dsimp only))

theorem execUpdSessionTimeout_keeps {pq : Kept} (s : State) (hkp : Keeps pq s) : Ends (Keeps pq) (execUpdSessionTimeout s) := by
  unfold execUpdSessionTimeout
  repeat' (first | (with_reducible assumption) | (with_reducible apply setSession_keeps) | (with_reducible apply ends_next) | (with_reducible apply keeps_ite) | (intro _) | split | (dsimp only))

end Sys2Proof.Machine
end

