-- ==== Sys2Proof/Laws/KeepMctp.lean ====
section
/-! SUPPORT. What the operations of Machine/Mctp.lean keep. -/

namespace Sys2Proof.Machine

theorem reply_keeps {pq : Kept} (kind : Nat) (vals : List Nat) (s : State) (hkp : Keeps pq s) : Keeps pq (reply kind vals s) := by
  unfold reply
  repeat' (first | (with_reducible assumption) | (with_reducible apply State.emit_keeps) | (with_reducible apply keeps_ite) | (intro _) | split | (dsimp only))

theorem pldmReply_keeps {pq : Kept} (kind : Nat) (vals : List Nat) (s : State) (hkp : Keeps pq s) : Keeps pq (pldmReply kind vals s) := by
  unfold pldmReply
  repeat' (first | (with_reducible assumption) | (with_reducible apply reply_keeps) | (with_reducible apply keeps_ite) | (intro _) | split | (dsimp only))

theorem execSetEndpointId_keeps {pq : Kept} (eid : Byte) (s : State) (hkp : Keeps pq s) : Ends (Keeps pq) (execSetEndpointId eid s) := by
  unfold execSetEndpointId
  repeat' (first | (with_reducible assumption) | (with_reducible apply State.setFld_keeps) | (with_reducible apply reply_keeps) | (with_reducible apply ends_next) | (with_reducible apply keeps_ite) | (intro _) | split | (dsimp only))

theorem execGetEndpointId_keeps {pq : Kept} (s : State) (hkp : Keeps pq s) : Ends (Keeps pq) (execGetEndpointId s) := by
  unfold execGetEndpointId
  repeat' (first | (with_reducible assumption) | (with_reducible apply reply_keeps) | (with_reducible apply ends_next) | (intro _) | split | (dsimp only))

theorem execGetEndpointUuid_keeps {pq : Kept} (s : State) (hkp : Keeps pq s) : Ends (Keeps pq) (execGetEndpointUuid s) := by
  unfold execGetEndpointUuid
  repeat' (first | (with_reducible assumption) | (with_reducible apply reply_keeps) | (with_reducible apply ends_next) | (intro _) | split | (dsimp only))

theorem execGetMctpVersionSupport_keeps {pq : Kept} (msgType : Byte) (s : State) (hkp : Keeps pq s) : Ends (Keeps pq) (execGetMctpVersionSupport msgType s) := by
  unfold execGetMctpVersionSupport
  repeat' (first | (with_reducible assumption) | (with_reducible apply reply_keeps) | (with_reducible apply ends_next) | (intro _) | split | (dsimp only))

theorem execGetMessageTypeSupport_keeps {pq : Kept} (s : State) (hkp : Keeps pq s) : Ends (Keeps pq) (execGetMessageTypeSupport s) := by
  unfold execGetMessageTypeSupport
  repeat' (first | (with_reducible assumption) | (with_reducible apply reply_keeps) | (with_reducible apply ends_next) | (intro _) | split | (dsimp only))

theorem execMctpOtherType_keeps {pq : Kept} (msgType : Byte) (wantsReply : Bool) (s : State) (hkp : Keeps pq s) : Ends (Keeps pq) (execMctpOtherType msgType wantsReply s) := by
  unfold execMctpOtherType
  repeat' (first | (with_reducible assumption) | (with_reducible apply reply_keeps) | (with_reducible apply ends_next) | (with_reducible apply keeps_ite) | (intro _) | split | (dsimp only))

theorem execGetTid_keeps {pq : Kept} (s : State) (hkp : Keeps pq s) : Ends (Keeps pq) (execGetTid s) := by
  unfold execGetTid
  repeat' (first | (with_reducible assumption) | (with_reducible apply pldmReply_keeps) | (with_reducible apply ends_next) | (intro _) | split | (dsimp only))

theorem execGetPldmVersion_keeps {pq : Kept} (ty : Byte) (s : State) (hkp : Keeps pq s) : Ends (Keeps pq) (execGetPldmVersion ty s) := by
  unfold execGetPldmVersion
  repeat' (first | (with_reducible assumption) | (with_reducible apply pldmReply_keeps) | (with_reducible apply ends_next) | (intro _) | split | (dsimp only))

theorem execGetPldmTypes_keeps {pq : Kept} (s : State) (hkp : Keeps pq s) : Ends (Keeps pq) (execGetPldmTypes s) := by
  unfold execGetPldmTypes
  repeat' (first | (with_reducible assumption) | (with_reducible apply pldmReply_keeps) | (with_reducible apply ends_next) | (intro _) | split | (dsimp only))

theorem execGetPldmCommands_keeps {pq : Kept} (ty : Byte) (s : State) (hkp : Keeps pq s) : Ends (Keeps pq) (execGetPldmCommands ty s) := by
  unfold execGetPldmCommands
  repeat' (first | (with_reducible assumption) | (with_reducible apply pldmReply_keeps) | (with_reducible apply ends_next) | (intro _) | split | (dsimp only))

theorem execGetPdr_keeps {pq : Kept} (handle : Word) (s : State) (hkp : Keeps pq s) : Ends (Keeps pq) (execGetPdr handle s) := by
  unfold execGetPdr
  repeat' (first | (with_reducible assumption) | (with_reducible apply pldmReply_keeps) | (with_reducible apply ends_next) | (intro _) | split | (dsimp only))

theorem execGetSensorReading_keeps {pq : Kept} (sensor : BitVec 16) (s : State) (hkp : Keeps pq s) : Ends (Keeps pq) (execGetSensorReading sensor s) := by
  unfold execGetSensorReading
  repeat' (first | (with_reducible assumption) | (with_reducible apply pldmReply_keeps) | (with_reducible apply ends_next) | (intro _) | split | (dsimp only))

theorem execSetNumericEffecterValue_keeps {pq : Kept} (effecter : BitVec 16) (v : Word) (s : State) (hkp : Keeps pq s) : Ends (Keeps pq) (execSetNumericEffecterValue effecter v s) := by
  unfold execSetNumericEffecterValue
  repeat' (first | (with_reducible assumption) | (with_reducible apply pldmReply_keeps) | (with_reducible apply requestProfile_keeps) | (with_reducible apply ends_next) | (with_reducible apply keeps_ite) | (intro _) | split | (dsimp only))

theorem setPldm_keeps {pq : Kept} (st : Nat) (s : State) (hkp : Keeps pq s) : Keeps pq (setPldm st s) := by
  unfold setPldm
  repeat' (first | (with_reducible assumption) | (intro _) | split | (dsimp only) | (with_reducible refine keeps_mk rfl rfl rfl rfl rfl ?_))

theorem updReply_keeps {pq : Kept} (kind c : Nat) (s : State) (hkp : Keeps pq s) : Keeps pq (updReply kind c s) := by
  unfold updReply
  repeat' (first | (with_reducible assumption) | (with_reducible apply reply_keeps) | (intro _) | split | (dsimp only))

theorem execRequestUpdate_keeps {pq : Kept} (s : State) (hkp : Keeps pq s) : Ends (Keeps pq) (execRequestUpdate s) := by
  unfold execRequestUpdate
  repeat' (first | (with_reducible assumption) | (with_reducible apply openSession_keeps) | (with_reducible apply setPldm_keeps) | (with_reducible apply updReply_keeps) | (with_reducible apply ends_next) | (with_reducible apply keeps_ite) | (intro _) | split | (dsimp only))

theorem inPldm_keeps {pq : Kept} (kind st : Nat) (s : State) (k : State → State) (h : Keeps pq s)
    (hk : ∀ s, Keeps pq s → Keeps pq (k s)) : Keeps pq (inPldm kind st s k) := by
  unfold inPldm
  repeat' (first | (with_reducible assumption) | (with_reducible apply hk) | (with_reducible apply updReply_keeps) | split)

theorem execPassComponentTable_keeps {pq : Kept} (kinds : List (Fin 4)) (s : State) (hkp : Keeps pq s) : Ends (Keeps pq) (execPassComponentTable kinds s) := by
  unfold execPassComponentTable
  repeat' (first | (with_reducible assumption) | (with_reducible apply inPldm_keeps) | (with_reducible apply reply_keeps) | (with_reducible apply setPldm_keeps) | (with_reducible apply ends_next) | (intro _) | split | (dsimp only))

theorem execUpdateComponent_keeps {pq : Kept} (kind : Fin 4) (size : Word) (s : State) (hkp : Keeps pq s) : Ends (Keeps pq) (execUpdateComponent kind size s) := by
  unfold execUpdateComponent
  repeat' (first | (with_reducible assumption) | (with_reducible apply beginImage_keeps) | (with_reducible apply inPldm_keeps) | (with_reducible apply setPldm_keeps) | (with_reducible apply updReply_keeps) | (with_reducible apply ends_next) | (with_reducible apply keeps_ite) | (intro _) | split | (dsimp only))

theorem execRequestFirmwareData_keeps {pq : Kept} (offset : Word) (data : List Byte) (s : State) (hkp : Keeps pq s) : Ends (Keeps pq) (execRequestFirmwareData offset data s) := by
  unfold execRequestFirmwareData
  repeat' (first | (with_reducible assumption) | (with_reducible apply inPldm_keeps) | (with_reducible apply updReply_keeps) | (with_reducible apply writeChunk_keeps) | (with_reducible apply ends_next) | (with_reducible apply keeps_ite) | (intro _) | split | (dsimp only))

theorem execTransferComplete_keeps {pq : Kept} (ok : Bool) (s : State) (hkp : Keeps pq s) : Ends (Keeps pq) (execTransferComplete ok s) := by
  unfold execTransferComplete
  repeat' (first | (with_reducible assumption) | (with_reducible apply inPldm_keeps) | (with_reducible apply setPldm_keeps) | (with_reducible apply updReply_keeps) | (with_reducible apply ends_next) | (with_reducible apply keeps_ite) | (intro _) | split | (dsimp only))

theorem execVerifyComplete_keeps {pq : Kept} (s : State) (hkp : Keeps pq s) : Ends (Keeps pq) (execVerifyComplete s) := by
  unfold execVerifyComplete
  repeat' (first | (with_reducible assumption) | (with_reducible apply fwEvent_keeps) | (with_reducible apply inPldm_keeps) | (with_reducible apply setPldm_keeps) | (with_reducible apply updReply_keeps) | (with_reducible apply verifyImage_keeps) | (with_reducible apply ends_next) | (with_reducible apply keeps_ite) | (intro _) | split | (with_reducible refine keeps_snd (by assumption) ?_) | (dsimp only))

theorem execApplyComplete_keeps {pq : Kept} (ok : Bool) (s : State) (hkp : Keeps pq s) : Ends (Keeps pq) (execApplyComplete ok s) := by
  unfold execApplyComplete
  repeat' (first | (with_reducible assumption) | (with_reducible apply inPldm_keeps) | (with_reducible apply setPldm_keeps) | (with_reducible apply updReply_keeps) | (with_reducible apply ends_next) | (with_reducible apply keeps_ite) | (intro _) | split | (dsimp only))

theorem execActivateFirmware_keeps {pq : Kept} (s : State) (hkp : Keeps pq s) : Ends (Keeps pq) (execActivateFirmware s) := by
  unfold execActivateFirmware
  repeat' (first | (with_reducible assumption) | (with_reducible apply activate_keeps) | (with_reducible apply fwEvent_keeps) | (with_reducible apply inPldm_keeps) | (with_reducible apply updReply_keeps) | (with_reducible apply ends_next) | (intro _) | split | (dsimp only))

theorem execGetStatus_keeps {pq : Kept} (s : State) (hkp : Keeps pq s) : Ends (Keeps pq) (execGetStatus s) := by
  unfold execGetStatus
  repeat' (first | (with_reducible assumption) | (with_reducible apply reply_keeps) | (with_reducible apply ends_next) | (intro _) | split | (dsimp only))

theorem execCancelUpdate_keeps {pq : Kept} (s : State) (hkp : Keeps pq s) : Ends (Keeps pq) (execCancelUpdate s) := by
  unfold execCancelUpdate
  repeat' (first | (with_reducible assumption) | (with_reducible apply setSession_keeps) | (with_reducible apply updReply_keeps) | (with_reducible apply ends_next) | (with_reducible apply keeps_ite) | (intro _) | split | (dsimp only))

theorem execSmbusTimeout_keeps {pq : Kept} (s : State) (hkp : Keeps pq s) : Ends (Keeps pq) (execSmbusTimeout s) := by
  unfold execSmbusTimeout
  repeat' (first | (with_reducible assumption) | (with_reducible apply ends_next) | (intro _) | split | (dsimp only))

end Sys2Proof.Machine
end

