-- ==== Sys2Proof/Laws/KeepRegWrite.lean ====
section
/-! SUPPORT. What the operations of Machine/RegWrite.lean keep. -/

namespace Sys2Proof.Machine

theorem basicReg_keeps {pq : Kept} (k : Nat) (s : State) (off : Nat) (hkp : Keeps pq s) : Keeps pq (basicReg k s off) := by
  unfold basicReg
  repeat' (first | (with_reducible assumption) | (with_reducible apply State.setReg_keeps) | (with_reducible apply leavePort_keeps) | (with_reducible apply keeps_ite) | (intro _) | split | (dsimp only))

theorem basicBelfry_keeps {pq : Kept} (s : State) (h : Keeps pq s) : Keeps pq (basicBelfry s) := by
  unfold basicBelfry
  have h1 := keeps_foldl (f := fun s c => if cmpMode s c < 2 then
      ((s.setFlag (R.BEL_CMP_CTL c) F.BEL_CMP_CTL_ARM false).setFld (R.BEL_CMP_CTL c) F.BEL_CMP_CTL_MODE 2).setCmp c
        { s.cmp c with queue := [], slotHit := false }
    else s) (fun s c hs => keeps_ite (fun _ => State.setCmp_keeps _ _ _ (State.setFld_keeps _ _ _ _ (State.setFlag_keeps _ _ _ _ hs)))
      (fun _ => hs)) (List.range 16) h
  dsimp only
  have h2 := keeps_time (State.setFlag_keeps _ R.BEL_SET_CTL F.BEL_SET_CTL_OFS_GO false h1) (b := { (List.foldl _ s (List.range 16)).bel with ofsPend := none }) rfl rfl h1.sound.time.2.2
  refine State.setFld_keeps _ _ _ _ (keeps_ite (fun _ => ?_) (fun _ => h2))
  exact keeps_time (State.setFlag_keeps _ _ _ _ h2) rfl rfl (fun _ _ e => nomatch e)

theorem basicNave_keeps {pq : Kept} (s : State) (hkp : Keeps pq s) : Keeps pq (basicNave s) := by
  unfold basicNave
  repeat' (first | (with_reducible assumption) | (with_reducible apply State.setTile_keeps) | (with_reducible apply keeps_ite) | (with_reducible refine keeps_foldl ?_ _ ?_) | (intro _) | split | (dsimp only))

theorem clearExpert_keeps {pq : Kept} (k : Nat) (s : State) (hkp : Keeps pq s) : Keeps pq (clearExpert k s) := by
  unfold clearExpert
  repeat' (first | (with_reducible assumption) | (with_reducible apply basicBelfry_keeps) | (with_reducible apply basicNave_keeps) | (with_reducible apply basicReg_keeps) | (with_reducible apply setOverride_keeps) | (with_reducible apply keeps_ite) | (with_reducible refine keeps_foldl ?_ _ ?_) | (intro _) | split | (dsimp only))

theorem writeExpert_keeps {pq : Kept} (a : Agent) (v : Word) (s : State) (hkp : Keeps pq s) : Keeps pq (writeExpert a v s) := by
  unfold writeExpert
  repeat' (first | (with_reducible assumption) | (with_reducible apply clearExpert_keeps) | (with_reducible apply storeReg_keeps) | (with_reducible apply keeps_ite) | (with_reducible refine keeps_foldl ?_ _ ?_) | (intro _) | split | (dsimp only))

theorem execGlbExpertWrite_keeps {pq : Kept} (a : Agent) (v : Word) (s : State) (hkp : Keeps pq s) : Ends (Keeps pq) (execGlbExpertWrite a v s) := by
  unfold execGlbExpertWrite
  repeat' (first | (with_reducible assumption) | (with_reducible apply writeExpert_keeps) | (with_reducible apply ends_next) | (intro _) | split | (dsimp only))

theorem writePage_keeps {pq : Kept} (a : Agent) (f o off : Nat) (v : Word) (s : State) (hkp : Keeps pq s) : Keeps pq (writePage a f o off v s) := by
  unfold writePage
  repeat' (first | (with_reducible assumption) | (with_reducible apply storeReg_keeps) | (with_reducible apply writeMsixCtl_keeps) | (with_reducible apply writeRingBase_keeps) | (with_reducible apply writeRingCfg_keeps) | (with_reducible apply writeSeqCmd_keeps) | (with_reducible apply keeps_ite) | (intro _) | split | (dsimp only))

theorem writeGlobal_keeps {pq : Kept} (a : Agent) (off : Nat) (v : Word) (s : State) (hkp : Keeps pq s) : Keeps pq (writeGlobal a off v s) := by
  unfold writeGlobal
  repeat' (first | (with_reducible assumption) | (with_reducible apply storeReg_keeps) | (with_reducible apply writeExpert_keeps) | (with_reducible apply writeMsixCtl_keeps) | (with_reducible apply writeRoleMask_keeps) | (with_reducible apply writeSeal_keeps) | (with_reducible apply writeUnitClr_keeps) | (with_reducible apply writeVirst_keeps) | (with_reducible apply keeps_ite) | (intro _) | split | (dsimp only))

theorem writeChm_keeps {pq : Kept} (a : Agent) (off : Nat) (v : Word) (s : State) (hkp : Keeps pq s) : Keeps pq (writeChm a off v s) := by
  unfold writeChm
  repeat' (first | (with_reducible assumption) | (with_reducible apply coreSig_keeps) | (with_reducible apply storeReg_keeps) | (with_reducible apply writeCmd_keeps) | (with_reducible apply writeOvr_keeps) | (with_reducible apply writeProfReq_keeps) | (with_reducible apply keeps_ite) | (intro _) | split | (dsimp only))

theorem writeBel_keeps {pq : Kept} (a : Agent) (off : Nat) (v : Word) (s : State) (hkp : Keeps pq s) : Keeps pq (writeBel a off v s) := by
  unfold writeBel
  repeat' (first | (with_reducible assumption) | (with_reducible apply loadTarget_keeps) | (with_reducible apply storeReg_keeps) | (with_reducible apply writeCmpCtl_keeps) | (with_reducible apply writeFreqAdj_keeps) | (with_reducible apply writeRclk_keeps) | (with_reducible apply writeSetCtl_keeps) | (with_reducible apply writeSgCtl_keeps) | (with_reducible apply writeTimeReg_keeps) | (with_reducible apply keeps_ite) | (intro _) | split | (dsimp only))

theorem writeStream_keeps {pq : Kept} (a : Agent) (off : Nat) (v : Word) (s : State) (hkp : Keeps pq s) : Keeps pq (writeStream a off v s) := by
  unfold writeStream
  repeat' (first | (with_reducible assumption) | (with_reducible apply channelGo_keeps) | (with_reducible apply semCfg_keeps) | (with_reducible apply semOp_keeps) | (with_reducible apply semOwn_keeps) | (with_reducible apply storeReg_keeps) | (with_reducible apply keeps_ite) | (intro _) | split | (dsimp only))

theorem writeMemSeq_keeps {pq : Kept} (a : Agent) (off : Nat) (v : Word) (s : State) (hkp : Keeps pq s) : Keeps pq (writeMemSeq a off v s) := by
  unfold writeMemSeq
  repeat' (first | (with_reducible assumption) | (with_reducible apply storeReg_keeps) | (with_reducible apply writeGroup_keeps) | (with_reducible apply writeMmuInv_keeps) | (with_reducible apply writeSeqCmd_keeps) | (with_reducible apply writeSpillWays_keeps) | (with_reducible apply keeps_ite) | (intro _) | split | (dsimp only))

theorem writeUnits_keeps {pq : Kept} (a : Agent) (off : Nat) (v : Word) (s : State) (hkp : Keeps pq s) : Keeps pq (writeUnits a off v s) := by
  unfold writeUnits
  repeat' (first | (with_reducible assumption) | (with_reducible apply dmemIndirect_keeps) | (with_reducible apply imemIndirect_keeps) | (with_reducible apply storeReg_keeps) | (with_reducible apply writeCloCtl_keeps) | (with_reducible apply writeNavCtl_keeps) | (intro _) | split | (dsimp only))

theorem writeRadio_keeps {pq : Kept} (a : Agent) (off : Nat) (v : Word) (s : State) (hkp : Keeps pq s) : Keeps pq (writeRadio a off v s) := by
  unfold writeRadio
  repeat' (first | (with_reducible assumption) | (with_reducible apply captureGo_keeps) | (with_reducible apply storeReg_keeps) | (with_reducible apply writeAgcCtl_keeps) | (with_reducible apply writeAgcGain_keeps) | (with_reducible apply writeBank_keeps) | (with_reducible apply writePdrBase_keeps) | (with_reducible apply writePraCtl_keeps) | (with_reducible apply writeRfiCtl_keeps) | (with_reducible apply keeps_ite) | (intro _) | split | (dsimp only))

theorem writeFhs_keeps {pq : Kept} (a : Agent) (off : Nat) (v : Word) (s : State) (hkp : Keeps pq s) : Keeps pq (writeFhs a off v s) := by
  unfold writeFhs
  repeat' (first | (with_reducible assumption) | (with_reducible apply storeReg_keeps) | (with_reducible apply writeFhPortCtl_keeps) | (with_reducible apply writeFhsCtl_keeps) | (with_reducible apply writeMacCmd_keeps) | (with_reducible apply writePeak_keeps) | (with_reducible apply writeQuadCfg_keeps) | (with_reducible apply writeQueueBuf_keeps) | (with_reducible apply keeps_ite) | (intro _) | split | (dsimp only))

theorem writeSpk_keeps {pq : Kept} (a : Agent) (off : Nat) (v : Word) (s : State) (hkp : Keeps pq s) : Keeps pq (writeSpk a off v s) := by
  unfold writeSpk
  repeat' (first | (with_reducible assumption) | (with_reducible apply storeReg_keeps) | (with_reducible apply writePortCtl_keeps) | (with_reducible apply writeSpkCtl_keeps) | (with_reducible apply keeps_ite) | (intro _) | split | (dsimp only))

theorem writeCry_keeps {pq : Kept} (a : Agent) (off : Nat) (v : Word) (s : State) (hkp : Keeps pq s) : Keeps pq (writeCry a off v s) := by
  unfold writeCry
  repeat' (first | (with_reducible assumption) | (with_reducible apply cryInval_keeps) | (with_reducible apply digestQuery_keeps) | (with_reducible apply storeReg_keeps) | (with_reducible apply writeTwinCtl_keeps) | (with_reducible apply keeps_ite) | (intro _) | split | (dsimp only))

theorem writeAt_keeps {pq : Kept} (a : Agent) (off : Nat) (v : Word) (s : State) (hkp : Keeps pq s) : Keeps pq (writeAt a off v s) := by
  unfold writeAt
  repeat' (first | (with_reducible assumption) | (with_reducible apply planArm_keeps) | (with_reducible apply storeReg_keeps) | (with_reducible apply writeBel_keeps) | (with_reducible apply writeChm_keeps) | (with_reducible apply writeCry_keeps) | (with_reducible apply writeFhs_keeps) | (with_reducible apply writeGlobal_keeps) | (with_reducible apply writeMemSeq_keeps) | (with_reducible apply writePage_keeps) | (with_reducible apply writeRadio_keeps) | (with_reducible apply writeSpk_keeps) | (with_reducible apply writeStream_keeps) | (with_reducible apply writeUnits_keeps) | (intro _) | split | (dsimp only))

theorem execRegisterWrite_keeps {pq : Kept} (a : Agent) (off : BitVec 25) (v : Word) (s : State) (hkp : Keeps pq s) : Ends (Keeps pq) (execRegisterWrite a off v s) := by
  unfold execRegisterWrite
  repeat' (first | (with_reducible assumption) | (with_reducible apply writeAt_keeps) | (with_reducible apply ends_next) | (intro _) | split | (dsimp only))

end Sys2Proof.Machine
end

