-- ==== Sys2Proof/Laws/KeepTick.lean ====
section
/-! SUPPORT. What the operations of Machine/Tick.lean keep. -/

namespace Sys2Proof.Machine

theorem cmpStrobe_keeps {pq : Kept} (c : Nat) (s : State) (hkp : Keeps pq s) : Keeps pq (cmpStrobe c s) := by
  unfold cmpStrobe
  repeat' (first | (with_reducible assumption) | (with_reducible apply State.setCmp_keeps) | (with_reducible apply State.setFlag_keeps) | (with_reducible apply keeps_ite) | (intro _) | split | (dsimp only))

theorem fireStrobe_keeps {pq : Kept} (g : Nat) (s : State) (hkp : Keeps pq s) : Keeps pq (fireStrobe g s) := by
  unfold fireStrobe
  repeat' (first | (with_reducible assumption) | (with_reducible apply State.addWrap_keeps) | (with_reducible apply State.emit_keeps) | (with_reducible apply State.setFld_keeps) | (with_reducible apply State.setGen_keeps) | (with_reducible apply State.setPair_keeps) | (with_reducible apply cmpStrobe_keeps) | (with_reducible apply forBound_keeps) | (intro _) | split | (dsimp only))

theorem strobeModes_keeps {pq : Kept} (g : Nat) (s : State) (hkp : Keeps pq s) : Keeps pq (strobeModes g s) := by
  unfold strobeModes
  repeat' (first | (with_reducible assumption) | (with_reducible apply overrideStrobe_keeps) | (with_reducible apply profileStrobe_keeps) | (with_reducible apply radioStrobe_keeps) | (intro _) | split | (dsimp only))

theorem slotStrobe_keeps {pq : Kept} (g : Nat) (s : State) (hkp : Keeps pq s) : Keeps pq (slotStrobe g s) := by
  unfold slotStrobe
  repeat' (first | (with_reducible assumption) | (with_reducible apply fireStrobe_keeps) | (with_reducible apply strobeModes_keeps) | (with_reducible apply keeps_ite) | (intro _) | split | (dsimp only))

theorem execSlotStrobe_keeps {pq : Kept} (g : Fin 4) (s : State) (hkp : Keeps pq s) : Ends (Keeps pq) (execSlotStrobe g s) := by
  unfold execSlotStrobe
  repeat' (first | (with_reducible assumption) | (with_reducible apply slotStrobe_keeps) | (with_reducible apply ends_next) | (intro _) | split | (dsimp only))

theorem settleGen_keeps {pq : Kept} (g : Nat) (s : State) (hkp : Keeps pq s) : Keeps pq (settleGen g s) := by
  unfold settleGen
  repeat' (first | (with_reducible assumption) | (with_reducible apply sgStop_keeps) | (with_reducible apply slotStrobe_keeps) | (with_reducible apply symbolStrobe_keeps) | (with_reducible refine keeps_foldl ?_ _ ?_) | (intro _) | split | (dsimp only))

theorem settle_keeps {pq : Kept} (s : State) (hkp : Keeps pq s) : Keeps pq (settle s) := by
  unfold settle
  repeat' (first | (with_reducible assumption) | (with_reducible apply fireCmp_keeps) | (with_reducible apply ppsAssert_keeps) | (with_reducible apply ppsWidthEnd_keeps) | (with_reducible apply settleGen_keeps) | (with_reducible refine keeps_foldl ?_ _ ?_) | (intro _) | split | (dsimp only))

theorem actCancel_keeps {pq : Kept} (s : State) (h : Keeps pq s) : Keeps pq (actCancel s) := by
  unfold actCancel
  split
  · exact keeps_time (State.setFlag_keeps _ _ _ _ (State.setFlag_keeps _ _ _ _ (State.setFlag_keeps _ _ _ _ h))) rfl rfl (fun _ _ e => nomatch e)
  · exact h

theorem markStepped_keeps {pq : Kept} (s : State) (hkp : Keeps pq s) : Keeps pq (markStepped s) := by
  unfold markStepped
  repeat' (first | (with_reducible assumption) | (with_reducible apply State.setFlag_keeps) | (with_reducible apply State.setFld_keeps) | (intro _) | split | (dsimp only))

theorem Tod.add_ok (t : Tod) (d : Int) (h : t.frac < 2 ^ 40) : (t.add d).ok := by
  refine ⟨?_, ?_, h⟩ <;> simp only [Tod.add] <;> omega

theorem Tod.step_ok (t : Tod) (adj ofs : Int) : (t.step adj ofs).ok := by
  unfold Tod.step
  apply Tod.add_ok
  dsimp only
  omega

theorem nextTod_keeps {pq : Kept} (d : Nat) (s : State) (h : Keeps pq.untimed s) : Keeps pq.untimed (nextTod d s).2 := by
  have hs : Tod.ok ((s.bel.setPend.map (fun x => x.1)).getD {}) := by
    cases e : s.bel.setPend with
    | none => exact ⟨by decide, by decide, by decide⟩
    | some p => exact h.sound.time.2.2 p.1 p.2 e
  have h1 := State.setFlag_keeps _ R.BEL_SET_CTL F.BEL_SET_CTL_OFS_GO false (State.setFlag_keeps _ R.BEL_SET_CTL F.BEL_SET_CTL_GO false h)
  unfold nextTod
  dsimp only
  split
  · apply markStepped_keeps
    split
    · have h2 := State.setFlag_keeps _ R.BEL_STATUS F.BEL_STATUS_OFS_LOST true h1
      exact keeps_retimed h2 ⟨hs, h2.sound.time.2.1, fun _ _ e => nomatch e⟩
    · exact keeps_retimed h1 ⟨hs, h1.sound.time.2.1, fun _ _ e => nomatch e⟩
  · split
    · apply markStepped_keeps
      have h2 := State.setFlag_keeps _ R.BEL_SET_CTL F.BEL_SET_CTL_OFS_GO false h
      exact keeps_retimed h2 ⟨Tod.step_ok _ _ _, h2.sound.time.2⟩
    · exact keeps_retimed h ⟨Tod.step_ok _ _ _, h.sound.time.2⟩

theorem genAdvance_keeps {pq : Kept} (old new : Tod) (jump : Bool) (g : Nat) (s : State) (hkp : Keeps pq s) : Keeps pq (genAdvance old new jump g s) := by
  unfold genAdvance
  repeat' (first | (with_reducible assumption) | (with_reducible apply State.setFlag_keeps) | (with_reducible apply State.setFld_keeps) | (with_reducible apply State.setGen_keeps) | (with_reducible apply keeps_ite) | (intro _) | split | (dsimp only))

theorem rclkAdvance_keeps {pq : Kept} (s : State) (h : Keeps pq s) : Keeps pq (rclkAdvance s) := by
  unfold rclkAdvance
  split
  · dsimp only
    split
    · exact keeps_time h rfl rfl h.sound.time.2.2
    · exact keeps_time h rfl rfl h.sound.time.2.2
  · exact h

theorem advanceTick_keeps {pq : Kept} (s : State) (h : Keeps pq.untimed s) : Keeps pq.untimed (advanceTick s) := by
  have hn := nextTod_keeps ((actCancel s).bel.dnc + 1) _ (actCancel_keeps _ h)
  unfold advanceTick
  dsimp only
  apply rclkAdvance_keeps
  refine keeps_foldl (fun s x hs => genAdvance_keeps _ _ _ _ _ hs) _ ?_
  generalize (nextTod ((actCancel s).bel.dnc + 1) (actCancel s)).2 = t at hn ⊢
  exact keeps_retimed hn ⟨hn.sound.time.1, Nat.mod_lt _ (Nat.two_pow_pos 64), hn.sound.time.2.2⟩

theorem tick_keeps {pq : Kept} (s : State) (hkp : Keeps pq.untimed s) : Keeps pq.untimed (tick s) := by
  unfold tick
  repeat' (first | (with_reducible assumption) | (with_reducible apply advanceTick_keeps) | (with_reducible apply settle_keeps) | (with_reducible apply keeps_ite) | (intro _) | split | (dsimp only))

theorem execTick_keeps {pq : Kept} (s : State) (hkp : Keeps pq.untimed s) : Ends (Keeps pq.untimed) (execTick s) := by
  unfold execTick
  repeat' (first | (with_reducible assumption) | (with_reducible apply tick_keeps) | (with_reducible apply ends_next) | (intro _) | split | (dsimp only))

theorem execTimeSetApply_keeps {pq : Kept} (s : State) (hkp : Keeps pq.untimed s) : Ends (Keeps pq.untimed) (execTimeSetApply s) := by
  unfold execTimeSetApply
  repeat' (first | (with_reducible assumption) | (with_reducible apply tick_keeps) | (with_reducible apply ends_next) | (with_reducible apply keeps_ite) | (intro _) | split | (dsimp only))

theorem execTimeOffsetApply_keeps {pq : Kept} (s : State) (hkp : Keeps pq.untimed s) : Ends (Keeps pq.untimed) (execTimeOffsetApply s) := by
  unfold execTimeOffsetApply
  repeat' (first | (with_reducible assumption) | (with_reducible apply tick_keeps) | (with_reducible apply ends_next) | (with_reducible apply keeps_ite) | (intro _) | split | (dsimp only))

theorem execTimeCancelApply_keeps {pq : Kept} (s : State) (hkp : Keeps pq.untimed s) : Ends (Keeps pq.untimed) (execTimeCancelApply s) := by
  unfold execTimeCancelApply
  repeat' (first | (with_reducible assumption) | (with_reducible apply tick_keeps) | (with_reducible apply ends_next) | (with_reducible apply keeps_ite) | (intro _) | split | (dsimp only))

end Sys2Proof.Machine
end

