-- ==== Sys2Proof/WellFormed.lean ====
section
/-! DEFINITION. Which command terms are commands: a length, a range or a bit of the written value that the row's rule fixes and the
operand's type does not. -/

namespace Sys2Proof

/-- No value twice. -/
def distinct : List Nat → Bool
  | [] => true
  | x :: xs => !xs.contains x && distinct xs

def bitSet (v : Word) (k : Nat) : Bool := v.toNat.testBit k

/-- The report ring is the PF's alone (R318). -/
def hasRing (f : Fin 17) (ring : Fin 18) : Bool := ring.val < 17 || f.val == 16

/-- A completion with data brings a byte at least (R274). -/
def hostReadOk : HostRead → Bool
  | .data bs => 1 ≤ bs.length
  | .error => true
  | .poisoned => true

/-- FHS_MAC_CMD.OP of a write that has GO (Table FHL-5). -/
def macCmdOp (v : Word) : Nat := if bitSet v 31 then v.toNat / 2 ^ 16 % 4 else 4

/-- SEQ_CMD.OP of a write that has GO (Table SEQ-5). -/
def seqCmdOp (v : Word) : Nat := if bitSet v 31 then v.toNat / 2 ^ 24 % 4 else 0

/-- CHM_CMD.OP of a write that has GO (Table MGT-3). -/
def chmCmdOp (v : Word) : Nat := if bitSet v 31 then v.toNat % 2 ^ 8 else 0

/-- Is the term a command? -/
def wellFormed : Instr → Bool
  | .porstNAssert => true
  | .pgFall _ => true
  | .porstNRelease _ _ _ => true
  | .sysrstN => true
  | .perstN => true
  | .perstNRelease => true
  | .pfFlr => true
  | .hotReset => true
  | .pcieLinkDown => true
  | .pcieLinkUp => true
  | .thermtripN _ => true
  | .startDecision => true
  | .todSnapshot _ => true
  | .dncSnapshot _ => true
  | .freqAdjWrite _ _ => true
  | .timeSetGo _ v => bitSet v 0
  | .ofsGo _ v => bitSet v 1
  | .cancel _ v => bitSet v 3
  | .timeSetApply => true
  | .timeOffsetApply => true
  | .timeCancelApply => true
  | .sgEnable _ _ v => bitSet v 0
  | .sgDisable _ _ v => !bitSet v 0
  | .sgStop _ => true
  | .slotStrobe _ => true
  | .symbolStrobe _ => true
  | .cmpArm _ _ v => bitSet v 8
  | .cmpDisarm _ _ v => !bitSet v 8
  | .cmpTargetLoad _ _ _ => true
  | .cmpFire _ => true
  | .ppsOutAssert => true
  | .ppsOutWidthEnd => true
  | .ppsInEdge _ => true
  | .jesdLinkEnable _ _ => true
  | .slotStartMarker _ => true
  | .rxLockLost => true
  | .txLockLost => true
  | .rxSamples _ _ => true
  | .dpdSwap _ _ _ => true
  | .dpdBankWrite _ _ _ _ _ => true
  | .ltCorrection _ _ => true
  | .ltUnder _ => true
  | .dpdCaptureGo _ _ v => bitSet v 0
  | .dpdCaptureStart => true
  | .dpdCaptureDone x orx => x.length == orx.length
  | .agcGridPoint _ _ _ _ => true
  | .agcFreezeDelay _ => true
  | .agcWindowEnd _ _ _ => true
  | .agcModeWrite _ _ _ => true
  | .cnvSpiFrame _ => true
  | .prachEnable _ _ v => bitSet v 0
  | .prachOccasion _ => true
  | .preambleDetection _ peaks => peaks.length ≤ 64 && distinct (peaks.map (·.preamble.val))
  | .monitorMeasurement _ _ _ => true
  | .bundleIssue _ _ _ => true
  | .waitevWake _ => true
  | .interruptEntry _ => true
  | .evpEvent _ _ => true
  | .externalDmemAccess _ _ _ _ data _ => 1 ≤ data.length
  | .coreEnable _ _ v => bitSet v 0
  | .coreDisable _ _ v => !bitSet v 0
  | .coreStop _ => true
  | .coreHalt _ _ v => bitSet v 1
  | .coreStep _ _ v => bitSet v 2
  | .coreResume _ _ v => bitSet v 4
  | .cloClr _ _ v => bitSet v 3
  | .imemIndirectAccess _ _ _ => true
  | .dmemIndirectAccess _ _ _ => true
  | .chmCoreSig _ _ => true
  | .coreTaskPlacement _ => true
  | .planArm _ _ _ => true
  | .planValidationEnd _ _ => true
  | .fwlSlotStrobe _ => true
  | .predictionLanded _ _ _ _ => true
  | .predictionFault _ _ _ => true
  | .estimateReady _ _ _ _ => true
  | .itemFinal _ _ _ _ _ _ => true
  | .deadlineEvent _ => true
  | .kvAppend _ _ _ _ => true
  | .arrayPass _ _ => true
  | .feederRefill _ _ _ requests => distinct (requests.map fun r => 32 * r.1.val + r.2.val)
  | .mvpVector _ _ => true
  | .fillTimeout _ _ => true
  | .stageTrigger _ _ => true
  | .stageItemPlacement _ _ => true
  | .preemptionRequest _ => true
  | .spillStart _ => true
  | .spillDone _ _ => true
  | .preOver _ => true
  | .lendingEnd _ => true
  | .restoreDone _ => true
  | .preReq _ _ v => bitSet v 0
  | .preRel _ _ v => bitSet v 1
  | .navClr _ _ v => bitSet v 2
  | .tileSramUe _ _ => true
  | .taskPlacement _ => true
  | .channelGo _ _ v => bitSet v 0
  | .streamNop _ => true
  | .copy _ => true
  | .header _ => true
  | .rows _ => true
  | .link _ => true
  | .collSend _ => true
  | .collRecv _ => true
  | .collRecvSum _ => true
  | .undefinedStreamOpcode _ => true
  | .seBurst _ => true
  | .semWaitGrant _ _ => true
  | .semCfgWrite _ _ _ => true
  | .semOwnWrite _ _ _ => true
  | .semOpProducer _ _ => true
  | .semOpConsumer _ _ => true
  | .cslCommand _ => true
  | .swapEffect _ => true
  | .fenceComplete _ _ => true
  | .hbmRead block _ _ => block.toNat < 2 ^ 31
  | .hbmWrite addr data _ _ => 1 ≤ data.length && addr.toNat % 64 + data.length ≤ 64
  | .cacheAccess _ _ _ _ _ _ => true
  | .cacheFill _ => true
  | .hbmRefresh block => block.toNat < 2 ^ 31
  | .hbmHotChange _ _ => true
  | .translationWalk _ _ _ _ => true
  | .mmuInvGo _ v => bitSet v 0
  | .mmuInvDone => true
  | .spillWaysWrite _ _ => true
  | .navRoleMaskWrite _ _ _ => true
  | .hostReadCompletion _ r _ => hostReadOk r
  | .hostReadTimeout _ => true
  | .selfRefreshEntry => true
  | .seqOpen _ _ v => bitSet v 31 && seqCmdOp v == 0
  | .seqClose _ _ v => bitSet v 31 && seqCmdOp v == 1
  | .seqCloseEnd _ => true
  | .seqBadOp _ _ v => bitSet v 31 && 2 ≤ seqCmdOp v
  | .seqGroupConfig _ _ _ => true
  | .stepBegin _ => true
  | .stepEnd _ _ => true
  | .doorbellPoll _ => true
  | .sqFetchError _ _ => true
  | .hostNop _ _ => true
  | .task _ _ img => img.digest.length == 32 && img.lists.length ≤ img.channels
  | .step _ _ => true
  | .collective _ _ => true
  | .frameTx _ _ => true
  | .rxPost _ _ => true
  | .undefinedHostOpcode _ _ => true
  | .completionWrite => true
  | .coalTimeExpiry f ring => hasRing f ring && 8 ≤ ring.val
  | .msixUnmask _ f vec => vec.val < (if f.val = 16 then 64 else 8)
  | .rrBacklogMove => true
  | .ringEnable _ f ring v => hasRing f ring && bitSet v 0
  | .ringDisable _ f ring v => hasRing f ring && !bitSet v 0
  | .ringConfigWrite _ f ring _ _ => hasRing f ring
  | .glbSeal _ _ => true
  | .glbExpertWrite _ _ => true
  | .registerWrite _ off _ => off.toNat % 4 == 0
  | .frameReceive _ _ => true
  | .macLearn => true
  | .macAgeing => true
  | .macRead _ v => macCmdOp v == 0
  | .macWrite _ v => macCmdOp v == 1
  | .macInvalidate _ v => macCmdOp v == 2
  | .flushPort _ v => macCmdOp v == 3
  | .fhLinkLost _ => true
  | .fhLinkUp _ => true
  | .egressSelect _ => true
  | .frameTxEnd _ => true
  | .shaperRefill => true
  | .cloisterPortFrame _ => true
  | .quadConfigWrite _ _ _ => true
  | .queueBufWrite _ _ _ _ => true
  | .spkEnable _ v => bitSet v 0
  | .spkPortCtlWrite _ _ _ => true
  | .spkFrameSend _ => true
  | .spkFrameReceive _ _ bytes => bytes.length == 4112
  | .linkTrained _ _ => true
  | .spkLockLost _ => true
  | .helloSend => true
  | .helloReceive _ _ _ _ => true
  | .helloTimeout _ => true
  | .adjSend => true
  | .adjReceive _ r => r.neigh.length ≤ 17
  | .settleExpiry => true
  | .seatReceive _ _ _ _ => true
  | .reportSend => true
  | .assignReceive _ _ _ _ => true
  | .wheelNumReceive _ _ => true
  | .hubTimeout => true
  | .discoveryWaitTimeout _ => true
  | .spkMessageReceive _ m => 1 ≤ m.data.length && m.data.length ≤ 65536
  | .abortReceive _ _ => true
  | .collTimeout _ => true
  | .twinEnable _ v => bitSet v 0
  | .twinDisable _ v => !bitSet v 0
  | .twinHelloReceive _ => true
  | .compareRecordReceive r => r.result.length == 32 && r.stages.all (·.digest.length == 32)
  | .twinWaitExpiry => true
  | .digestFinal => true
  | .cryInval _ v => bitSet v 0
  | .digestQuery _ _ => true
  | .replayArm _ _ => true
  | .viReset _ v => bitSet v 31
  | .vfFlr _ => true
  | .unitZeroingDone u => u.kind.val ≤ 1 && u.index.val < (if u.kind.val = 0 then 32 else 16)
  | .reconciliation => true
  | .glbUnitClr _ _ => true
  | .getFw _ v => chmCmdOp v == 0x01
  | .updBegin _ v => chmCmdOp v == 0x02
  | .updImage _ v => chmCmdOp v == 0x03
  | .updChunk _ v => chmCmdOp v == 0x04
  | .updVerify _ v => chmCmdOp v == 0x05
  | .probe _ v => chmCmdOp v == 0x06
  | .updActivate _ v => chmCmdOp v == 0x07
  | .updAbort _ v => chmCmdOp v == 0x08
  | .setUnit _ v => chmCmdOp v == 0x10
  | .clearUnit _ v => chmCmdOp v == 0x11
  | .mailboxCommandEnd => true
  | .updSessionTimeout => true
  | .setEndpointId _ => true
  | .getEndpointId => true
  | .getEndpointUuid => true
  | .getMctpVersionSupport _ => true
  | .getMessageTypeSupport => true
  | .mctpOtherType msgType _ => msgType.toNat != 0 && msgType.toNat != 1 && msgType.toNat != 5
  | .getTid => true
  | .getPldmVersion _ => true
  | .getPldmTypes => true
  | .getPldmCommands _ => true
  | .getPdr _ => true
  | .getSensorReading _ => true
  | .setNumericEffecterValue _ _ => true
  | .requestUpdate => true
  | .passComponentTable kinds => distinct (kinds.map (·.val))
  | .updateComponent _ _ => true
  | .requestFirmwareData _ _ => true
  | .transferComplete _ => true
  | .verifyComplete => true
  | .applyComplete _ => true
  | .activateFirmware => true
  | .getStatus => true
  | .cancelUpdate => true
  | .smbusTimeout => true
  | .chmOvrWrite _ _ => true
  | .profileRequest _ v => bitSet v 31
  | .profileChangeComplete => true
  | .dvfsRequest _ _ => true
  | .dvfsStep _ _ => true
  | .slewWaitEnd _ => true
  | .pmbusRetry _ _ => true
  | .sensorSample temps => temps.length == 24
  | .powerEstimate mw => mw.length == 7
  | .throttleStep => true
  | .throttleReleaseStep => true
  | .tick => true
  | .rxLockGained => true
  | .txLockGained => true
  | .sysrefEdge => true
  | .transmitSamples _ _ => true
  | .spkSignalPresent _ => true
  | .selfRefreshExit => true

end Sys2Proof
end

