-- ==== Sys2Proof/Tests/Slice0.lean ====
section
/-! SUPPORT. The model's own tests: terms that are no command, and for every statement with hypotheses states and operands that meet
them together. -/

open Sys2Proof Sys2Proof.Machine

section
-- One theorem at a time: each `decide +kernel` waits for the kernel, and all of them at once would need a thread each.
set_option Elab.async false

/-- A device that has started NORMAL with its host link up. -/
def normal : State :=
  { regs := [(R.GLB_STATUS, F.GLB_STATUS_START.put (resetVal R.GLB_STATUS) 0)], host := { link := true } }

/-- The same with a set and an offset of time pending. -/
def pendingTime : State := { normal with bel := { setPend := some ({}, none), ofsPend := some 1 } }

/-- With expert control of the Belfry. -/
def expert0 (s : State) : State := s.setReg R.GLB_EXPERT 1

theorem normal_sound : Sound normal :=
  ⟨⟨⟨by decide, by decide, by decide⟩, by decide, fun _ _ e => nomatch e⟩, by decide +kernel, by decide, by decide⟩

/-- A descriptor of an opcode with an address in bytes 8 to 15. -/
def hostDesc (op addr : Nat) : List Byte := leBytes 8 op ++ leBytes 8 addr ++ List.replicate 48 0
/-- Item 7 of the PF with that descriptor, in front of its SQ 7. -/
def hostHeld (op addr : Nat) : State := { normal with
  mem := { tlb := [(16, [⟨0, 16, 0, true, true, false, false, []⟩])] }
  host := { link := true, nextId := 8, items := [{ id := 7, func := 16, sq := 7, idx := 0, cq := 7, desc := hostDesc op addr }] } }

/-- The Chapter House running from bank 0, a session of `who`, ARG0 and ARG1 as given; some bytes of bank 0's CRF. -/
def chmAt (who a0 a1 : Nat) : State :=
  { (((normal.setReg R.GLB_EXPERT 0x800).setReg (R.CHM_ARG 0) (BitVec.ofNat 32 a0)).setReg (R.CHM_ARG 1) (BitVec.ofNat 32 a1)).setReg (R.CHM_WIN 0) 0x04030201 with
    chm := { chf := some { bank := 0, version := 5, ilevel := 7 }, session := who, comp := 2, totals := [(2, 64)],
             flash := [(4, 0), (0x200000, 9), (0x200001, 8), (0x900000, 3)] } }
def goOp (op : Nat) : Word := BitVec.ofNat 32 (0x80000000 + op)

/-- A device under PORST_N. -/
def heldState : State := { normal with chm := { held := true } }

/-- A twin of seat 0 in wheel 0, discovery DONE, its partner on port 3; twin state `st`, completions 2 and 3 formed, 3 held with KEY 9. -/
def twinAt (st : Nat) (done : Bool) : State :=
  let s := ((((normal.setReg R.GLB_EXPERT 0x400).setFld R.SPK_STAT F.SPK_STAT_DSTATE (if done then 5 else 4)).setFld (R.SPK_P_STAT 3) F.SPK_P_STAT_PARTNER 1).setFld
    R.CRY_TWIN_STAT F.CRY_TWIN_STAT_STATE st).setFlag R.CRY_TWIN_STAT F.CRY_TWIN_STAT_STRAP true
  { (setLink 3 3 s) with
    host := { link := true, nextId := 9, items := [{ id := 7, func := 16, sq := 7, idx := 0, cq := 7, desc := hostDesc 4 0 }],
              formed := [{ id := 2, status := 0 }, { id := 3, status := 1, held := st == 2, key := 9, result := List.replicate 32 1, stages := [⟨2, 0, [5]⟩, ⟨1, 0, [6]⟩] }] }
    cry := if st = 0 then {} else { port := some 3, partner := [⟨77, 0, [], []⟩] } }

/-- Control writes with the command's bit the other way. -/
def badBits : List Instr :=
  [.timeSetGo .pf 0xFFFFFFFE, .ofsGo .pf 0xFFFFFFFD, .cancel .pf 0xFFFFFFF7, .sgEnable .pf 0 0xFFFFFFFE, .sgDisable .pf 0 1, .cmpArm .pf 0 0xFFFFFEFF,
   .cmpDisarm .pf 0 0x100, .dpdCaptureGo .pf 0 0xFFFFFFFE, .prachEnable .pf 0 0xFFFFFFFE, .coreEnable .pf 0 0xFFFFFFFE, .coreDisable .pf 0 1,
   .coreHalt .pf 0 0xFFFFFFFD, .coreStep .pf 0 0xFFFFFFFB, .coreResume .pf 0 0xFFFFFFEF, .cloClr .pf 0 0xFFFFFFF7, .preReq .pf 0 0xFFFFFFFE,
   .preRel .pf 0 0xFFFFFFFD, .navClr .pf 0 0xFFFFFFFB, .channelGo .pf 0 0xFFFFFFFE, .mmuInvGo .pf 0xFFFFFFFE, .spkEnable .pf 0xFFFFFFFE,
   .twinEnable .pf 0xFFFFFFFE, .twinDisable .pf 1, .cryInval .pf 0xFFFFFFFE]
def badBits2 : List Instr :=
  [.viReset .pf 0x7FFFFFFF, .profileRequest .pf 0x7FFFFFFF, .seqOpen .pf none 0, .seqOpen .pf none 0x81000000, .seqClose .pf none 0x01000000,
   .seqClose .pf none 0x80000000, .seqBadOp .pf none 0x02000000, .seqBadOp .pf none 0x81000000, .macRead .pf 0, .macWrite .pf 0x80000000,
   .macInvalidate .pf 0x80010000, .flushPort .pf 0x80020000, .ringEnable .pf 0 0 0, .ringDisable .pf 0 0 1]
/-- Mailbox commands of another operation. -/
def badOps : List Instr :=
  [.getFw .pf 1, .updBegin .pf 0x80000001, .updImage .pf 0x80000002, .updChunk .pf 0x80000003, .updVerify .pf 0x80000004, .probe .pf 0x80000005,
   .updActivate .pf 0x80000006, .updAbort .pf 0x80000007, .setUnit .pf 0x80000011, .clearUnit .pf 0x80000010]
/-- Lengths and values that the row's rule does not have. -/
def badShapes : List Instr :=
  [.dpdCaptureDone [⟨1, 2⟩] [], .preambleDetection 0 (List.replicate 2 ⟨5, 0, 0, 0⟩), .externalDmemAccess 0 0 true 0 [] 0,
   .feederRefill 0 0 0 [(1, 2), (1, 2)], .hbmRead 0x80000000 0 0, .hbmWrite 0 [] false 0, .hbmWrite 63 [1, 2] false 0, .hbmRefresh 0x80000000,
   .hostReadCompletion 0 (.data []) 0, .task 0 0 ⟨1, 0, [], []⟩, .task 0 0 ⟨1, 0, [1, 2], List.replicate 32 0⟩, .coalTimeExpiry 0 17,
   .coalTimeExpiry 0 7, .msixUnmask .pf 0 8, .ringEnable .pf 0 17 1, .ringDisable .pf 0 17 0, .ringConfigWrite .pf 0 17 0 0,
   .registerWrite .pf 2 0, .spkFrameReceive 0 true [1], .adjReceive 0 ⟨1, 2, List.replicate 18 0⟩]
def badShapes2 : List Instr :=
  [.spkMessageReceive 0 ⟨0, 0, 0, 0, 0, 0, 0, 0, []⟩, .compareRecordReceive ⟨1, 0, [1], []⟩,
   .compareRecordReceive ⟨1, 0, List.replicate 32 0, [⟨1, 0, [5]⟩]⟩, .unitZeroingDone ⟨2, 0⟩, .unitZeroingDone ⟨1, 16⟩, .mctpOtherType 0 true,
   .mctpOtherType 1 true, .mctpOtherType 5 true, .passComponentTable [1, 1]]
theorem test_ill_formed_bits : (badBits ++ badBits2 ++ badOps).all (fun c => !wellFormed c) = true := by decide
theorem test_ill_formed_shapes : (badShapes ++ badShapes2).all (fun c => !wellFormed c) = true := by decide
theorem test_ill_formed_samples : wellFormed (.sensorSample []) = false ∧ wellFormed (.powerEstimate []) = false := by decide
theorem test_well_formed : wellFormed (.timeSetGo .pf 1) = true ∧ wellFormed (.seqBadOp .pf none 0x82000000) = true ∧
    wellFormed (.registerWrite (.vf 3) 0x10004 7) = true ∧ wellFormed (.unitZeroingDone ⟨0, 31⟩) = true ∧ wellFormed (.getFw .pf 0x80000001) = true := by decide
/-- The table gives no row bits: no word spells a command, and none is put in front of the queue. -/
theorem test_no_word (n w : Nat) : decodeTableWord n w = none ∧ State.reset.withFetchWord n w = State.reset := ⟨rfl, rfl⟩

/-! ### StepRunsFront -/

theorem witness_StepRunsFront : ({ State.reset with pending := [.tick] } : State).pending = .tick :: [] := rfl

/-! ### EmptyQueueIdles -/

theorem witness_EmptyQueueIdles : State.reset.pending = [] := rfl

/-! ### StepKeepsSound -/

theorem witness_StepKeepsSound : Sound State.reset := ⟨⟨⟨by decide, by decide, by decide⟩, by decide, fun _ _ e => nomatch e⟩, by decide, by decide, by decide⟩

/-! ### OnlyTicksMoveTime -/

theorem witness_OnlyTicksMoveTime : Sound State.reset ∧ movesTime .sysrstN = false ∧ ∃ t, exec .sysrstN State.reset = .next t :=
  ⟨⟨⟨⟨by decide, by decide, by decide⟩, by decide, fun _ _ e => nomatch e⟩, by decide, by decide, by decide⟩, rfl, _, rfl⟩

/-! ### SnapshotsAreTheReaders -/

theorem witness_SnapshotsAreTheReaders :
    answers .chf (belOff .chf R.BEL_TOD_NS) normal = true ∧ answers (.vf 15) (belOff (.vf 15) R.BEL_DNC_LO) normal = true ∧
    answers .pf (belOff .pf R.BEL_TOD_NS) State.reset = false ∧ answers .chf (belOff .chf R.BEL_DNC_LO) State.reset = false := by decide +kernel

/-! ### FrequencyAndOwner -/

theorem witness_FrequencyAndOwner :
    answers .pf R.BEL_FREQ_ADJ normal = true ∧ ownsTime .pf normal = true ∧ answers .chf R.BEL_FREQ_ADJ normal = true ∧
    ownsTime .chf normal = false ∧ answers .chf R.BEL_SET_CTL normal = true := by decide +kernel

/-! ### SetControl -/

theorem witness_SetControl : answers .pf R.BEL_SET_CTL normal = true ∧ ownsTime .pf normal = true ∧
    setCtlWrite 1 normal 1 0 0 ∧ normal.bel.setPend = none ∧ (normal.reg R.BEL_SET_NS).toNat ≤ 999999999 ∧
    999999999 < ((normal.setReg R.BEL_SET_NS 1000000000).reg R.BEL_SET_NS).toNat ∧
    setCtlWrite 1 (normal.setReg R.BEL_SET_NS 1000000000) 1 0 0 ∧ pendingTime.bel.setPend.isSome = true ∧
    setCtlWrite 1 pendingTime 1 0 0 := by unfold setCtlWrite; decide +kernel
theorem witness_SetControl_ofs : answers .pf R.BEL_SET_CTL (expert0 normal) = true ∧ ownsTime .pf (expert0 normal) = true ∧
    setCtlWrite 2 (expert0 normal) 0 1 0 ∧ expertOn (expert0 normal) 0 = true ∧ (expert0 normal).bel.ofsPend = none ∧
    setCtlWrite 2 (expert0 pendingTime) 0 1 0 ∧ (expert0 pendingTime).bel.ofsPend.isSome = true ∧
    expertOn normal 0 = false ∧ setCtlWrite 2 normal 0 1 0 ∧ setCtlWrite 8 normal 0 0 1 := by unfold setCtlWrite; decide +kernel

/-! ### TicksMoveTime -/

theorem witness_TicksMoveTime : normal.chm.held = false ∧ NothingDue normal ∧ setDueAt normal (normal.bel.dnc + 1) = false ∧
    normal.bel.ofsPend = none ∧ cancelPending normal = false := by unfold NothingDue; decide +kernel
theorem witness_TicksMoveTime_set : Sound pendingTime ∧ NothingDue pendingTime ∧ pendingTime.bel.setPend = some ({}, none) ∧
    setDueAt pendingTime (pendingTime.bel.dnc + 1) = true ∧ cancelPending pendingTime = false :=
  ⟨⟨⟨⟨by decide, by decide, by decide⟩, by decide, fun _ _ e => by cases e; exact ⟨by decide, by decide, by decide⟩⟩, by decide +kernel, by decide, by decide⟩,
    by unfold NothingDue; decide +kernel⟩
theorem witness_TicksMoveTime_cancel : NothingDue (normal.setFlag R.BEL_SET_CTL F.BEL_SET_CTL_CANCEL true) ∧
    cancelPending (normal.setFlag R.BEL_SET_CTL F.BEL_SET_CTL_CANCEL true) = true := by unfold NothingDue; decide +kernel

/-! ### SlotGenerators -/

/-- Generator 3 with the widest grid of R51 and one symbol. -/
def gridState : State := (normal.setReg (R.BEL_SG_PERIOD 3) 1000000).setReg (R.BEL_SG_PHASE 3) 999999
/-- The same generator running, with a slot and symbol due. -/
def gridRuns : State :=
  (gridState.setFld (R.BEL_SG_STAT 3) F.BEL_SG_STAT_STATE 2).setGen 3 { period := 1000000, syms := [0], slotDue := true }
theorem witness_SlotGenerators : answers .pf (R.BEL_SG_CTL 3) gridState = true ∧
    gridState.fld (R.BEL_SG_STAT 3) F.BEL_SG_STAT_STATE = 0 ∧ F.BEL_SG_CTL_EN.get 0x101 = 1 ∧
    gridMeetsR51 gridState 3 (F.BEL_SG_CTL_NSYM.get 0x101) ∧ F.BEL_SG_CTL_EN.get 0x201 = 1 ∧
    ¬gridMeetsR51 gridState 3 (F.BEL_SG_CTL_NSYM.get 0x201) := by
  refine ⟨by decide +kernel, by decide +kernel, by decide, ⟨by decide +kernel, by decide +kernel, by decide +kernel, by decide +kernel, by decide, by decide, by decide +kernel, ?_, ?_⟩, by decide, ?_⟩
  · intro k hk; have : F.BEL_SG_CTL_NSYM.get 0x101 = 1 := by decide
    omega
  · intro k hk
    have h : F.BEL_SG_CTL_NSYM.get 0x101 = 1 := by decide
    have : k = 0 := by omega
    subst this; decide +kernel
  · intro h; exact absurd (h.2.2.2.2.2.2.2.1 0 (by decide)) (by decide +kernel)
theorem witness_SlotGenerators_run : answers .pf (R.BEL_SG_CTL 3) gridRuns = true ∧
    gridRuns.fld (R.BEL_SG_STAT 3) F.BEL_SG_STAT_STATE ≠ 0 ∧ F.BEL_SG_CTL_EN.get 0x100 = 0 ∧ (gridRuns.gen 3).slotDue = true ∧
    (gridRuns.gen 3).stopAt = none ∧ gridRuns.chm.request = none ∧ rfiSg gridRuns ≠ 3 ∧ gridRuns.rfi.mode = 0 ∧
    ((gridRuns.setGen 3 { stopAt := some 0 }).gen 3).stopAt = some 0 ∧
    symbolDue 3 (gridRuns.setGen 3 { period := 1000000, syms := [0] }) = true := by decide +kernel

/-! ### Comparators -/

/-- Comparator 15 armed in SLOT mode at a strobe, towards CL. -/
def cmpArmedState : State := (normal.setReg (R.BEL_CMP_CTL 15) 0x10102).setCmp 15 { slotHit := true }
theorem witness_Comparators : answers .pf (R.BEL_CMP_CTL 15) normal = true ∧ cmpArmed normal 15 = false ∧
    F.BEL_CMP_CTL_ARM.get 0x102 = 1 ∧ armable normal 15 (F.BEL_CMP_CTL_MODE.get 0x102) (F.BEL_CMP_CTL_SG.get 0x102) ∧
    expertOn (expert0 normal) 0 = true ∧ F.BEL_CMP_CTL_MODE.get 0x101 = 1 ∧
    (normal.reg (R.BEL_CMP_PERIOD 15)).toNat < 1000 ∧ F.BEL_CMP_CTL_MODE.get 0x103 = 3 ∧
    2 * (normal.reg (R.BEL_SG_PERIOD (F.BEL_CMP_CTL_SG.get 0x103))).toNat ≤ (normal.reg (R.BEL_CMP_TGT_LO 15)).toNat := by
  unfold armable; decide +kernel
theorem witness_Comparators_fire : cmpArmed cmpArmedState 15 = true ∧ F.BEL_CMP_CTL_ARM.get 2 = 0 ∧
    2 ≤ F.BEL_CMP_CTL_MODE.get 2 ∧ F.BEL_CMP_CTL_MODE.get 2 < 4 ∧ answers .pf (R.BEL_CMP_TGT_LO 15) normal = true ∧
    cmpDue 15 cmpArmedState = true ∧ cmpArmedState.fld (R.BEL_CMP_CTL 15) F.BEL_CMP_CTL_DEST < 8 ∧
    cmpDue 15 (cmpArmedState.setReg (R.BEL_CMP_CTL 15) 0x80102) = true ∧
    8 ≤ (cmpArmedState.setReg (R.BEL_CMP_CTL 15) 0x80102).fld (R.BEL_CMP_CTL 15) F.BEL_CMP_CTL_DEST := by decide +kernel

/-! ### PulsePerSecond -/

theorem witness_PulsePerSecond :
    ((normal.setReg R.BEL_PPSOUT_CTL 1).flag R.BEL_PPSOUT_CTL F.BEL_PPSOUT_CTL_EN = true) ∧
    ((normal.setReg R.BEL_PPSIN_CTL 3).flag R.BEL_PPSIN_CTL F.BEL_PPSIN_CTL_EN = true) ∧
    ((normal.setReg R.BEL_PPSIN_CTL 3).flag R.BEL_PPSIN_CTL F.BEL_PPSIN_CTL_EDGE = true) ∧
    normal.flag R.BEL_PPSIN_CTL F.BEL_PPSIN_CTL_EN = false ∧ normal.bel.tod.ns < 1000000000 ∧
    ({ ppsDue := true, ppsHigh := true, ppsEnd := 5, dnc := 5 } : BelSt).ppsEnd ≤ 5 := by decide +kernel

/-! ### ColdAndWarmReset -/

theorem witness_ColdAndWarmReset : heldState.chm.held = true ∧ normal.chm.held = false ∧ alive normal = true ∧ alive heldState = false ∧
    warmReg R.GLB_STATUS = false := by decide +kernel

/-! ### PcieResetsAndTrip -/

theorem witness_PcieResetsAndTrip : alive normal = true ∧ normal.chm.perst = false ∧ normal.host.link = true ∧
    ({ normal with host := {} } : State).host.link = false ∧ ({ normal with chm := { held := true } } : State).chm.held = true ∧ alive ({ normal with chm := { held := true } } : State) = false := by decide +kernel

/-! ### StartDecided -/

/-- A device whose straps are sampled and whose start is not decided, with boot source b. -/
def booting (b : Nat) : State := (State.setFld {} R.CHM_BOOT_STAT F.CHM_BOOT_STAT_BOOT_SRC b)
theorem witness_StartDecided : alive (booting 3) = true ∧ startOf (booting 3) = 3 ∧ bootSrc (booting 3) = 3 ∧ startOf (booting 0) = 3 ∧
    bootSrc (booting 0) = 0 ∧ (booting 0).chm.chf = none ∧ (findChf (booting 0)).1 = none ∧ (findChf (booting 1)).1 = none ∧
    bootSrc (booting 1) = 1 ∧ ({ booting 0 with chm := { chf := some { bank := 0, version := 77, ilevel := 3 } } } : State).chm.chf.isSome = true ∧ startOf normal ≠ 3 := by decide +kernel

/-! ### VirtualInstanceReset -/

/-- VI 15 under a fence of a VI reset with nothing left to report. -/
def fence15 : State := { (normal.setReg R.SE_FENCE_STAT 0x8000).setReg (R.VIS_QUOTA (visPage 15)) 7 with
  host := { link := true, fences := [(15, 1, 2)], rings := [(ringKey 15 3, { state := 1 })] } }
theorem witness_VirtualInstanceReset : reaches .pf R.GLB_VIRST normal = true ∧ F.GLB_VIRST_GO.get 0x8000000F = 1 ∧
    fenced normal 15 = false ∧ fenced fence15 (F.GLB_VIRST_VI.get 0x8000000F) = true ∧ reaches .pf R.GLB_VIRST fence15 = true ∧
    fence15.host.fences.find? (·.1 == 15) = some (15, 1, 2) ∧ fenceQuiet fence15 15 = true ∧
    fenced normal 3 = false ∧ normal.host.fences = [] ∧
    ((normal.setTile 31 { zeroing := true }).tile 31).zeroing = true ∧ tileState (normal.setTile 31 { zeroing := true }) 31 ≠ nvLent ∧
    ((normal.setTile 31 { zeroing := true }).tile 31).slot = none ∧ ((normal.setCore 15 { zeroing := true }).core 15).zeroing = true ∧
    fence15.host.fences ≠ [] := by decide +kernel

/-! ### UnitsUnderManagement -/

/-- Tile 31 faulted, core 15 faulted, engine 23 unresponsive, with GLB_UNIT_SEL on a unit. -/
def faultedUnits (sel : Word) : State :=
  (((((normal.setReg R.GLB_UNIT_SEL sel).setReg R.GLB_TILEMAP 0xFFFFFFFF).setFld (R.NAV_STAT 31) F.NAV_STAT_STATE nvFaulted).setFld (R.CLO_STAT 15) F.CLO_STAT_STATE cFaulted).setUnit
    kEngine 23 { down := true }).setUnit kCore 15 { mgmt := 1, down := true }
theorem witness_UnitsUnderManagement : alive (faultedUnits 0x1F01) = true ∧ (faultedUnits 0x1F01).chm.request = none ∧
    reaches .pf R.GLB_UNIT_CLR (faultedUnits 0x1F01) = true ∧ F.GLB_UNIT_CLR_GO.get 1 = 1 ∧
    unitSel (faultedUnits 0x1F01) = (kTile, 31) ∧ unitThere (faultedUnits 0x1F01) kTile 31 = true ∧
    tileState (faultedUnits 0x1F01) 31 = nvFaulted ∧ unitSel (faultedUnits 0x0F02) = (kCore, 15) ∧
    coreState (faultedUnits 0x0F02) 15 = cFaulted ∧ unitThere (faultedUnits 0x0F02) kCore 15 = true ∧
    unitSel (faultedUnits 0x1707) = (kEngine, 23) ∧ unitThere (faultedUnits 0x1707) kEngine 23 = true := by decide +kernel

/-! ### ConverterLinks -/

/-- A receive link of 10 converters on 4 lanes, a transmit link of 8 on 4; 122.88 MHz times 10. -/
def linkState0 : State := (normal.setReg R.RFI_JRX_CFG (F.RFI_JRX_CFG_L.put (F.RFI_JRX_CFG_M.put (F.RFI_JRX_CFG_N.put
  (F.RFI_JRX_CFG_E.put (F.RFI_JRX_CFG_CLKMUL.put 0 16) 1) 16) 8) 4)).setReg R.RFI_JTX_CFG (F.RFI_JRX_CFG_L.put (F.RFI_JRX_CFG_M.put (F.RFI_JRX_CFG_N.put
  (F.RFI_JRX_CFG_E.put (F.RFI_JRX_CFG_CLKMUL.put 0 16) 1) 16) 8) 4)
/-- Both links started and locked. -/
def linksUp : State := { (linkState0.setReg R.RFI_CTL 0x31).setReg R.RFI_STAT 3 with rfi := { mode := 1, rxOn := true, txOn := true } }
theorem witness_ConverterLinks : reaches .pf R.RFI_CTL linkState0 = true ∧ linkStarts 0x30 linkState0 F.RFI_CTL_RX_EN ∧
    linkStarts 0x30 linkState0 F.RFI_CTL_TX_EN ∧ linkValid (linkState0.reg R.RFI_JRX_CFG) 10 linkState0.rfi.devclk = true ∧
    linkValid (linkState0.reg R.RFI_JTX_CFG) 8 linkState0.rfi.devclk = true ∧
    linkValid (normal.reg R.RFI_JRX_CFG) 10 normal.rfi.devclk = false ∧ linkValid (normal.reg R.RFI_JTX_CFG) 8 normal.rfi.devclk = false ∧
    linkStarts 0x30 normal F.RFI_CTL_RX_EN ∧ linkStops 1 linksUp F.RFI_CTL_RX_EN ∧ linkStops 1 linksUp F.RFI_CTL_TX_EN ∧
    linksUp.flag R.RFI_STAT F.RFI_STAT_RX_LOCK = true ∧ linksUp.flag R.RFI_STAT F.RFI_STAT_TX_LOCK = true ∧
    normal.flag R.RFI_STAT F.RFI_STAT_RX_LOCK = false ∧ normal.flag R.RFI_STAT F.RFI_STAT_TX_LOCK = false ∧
    linksUp.rfi.rxOn = true ∧ linksUp.rfi.txOn = true ∧ reaches .pf R.RFI_CTL linksUp = true := by
  unfold linkStarts linkStops; decide +kernel

/-! ### SamplesInAndOut -/

/-- Both links started, antenna and chain 3 mapped, decimation code d. -/
def radioUp (d : Nat) : State :=
  let s := (normal.setFlag (R.RFI_RXMAP 3) F.RFI_RXMAP_EN true).setFld (R.RFI_RXMAP 3) F.RFI_RXMAP_DEC d
  { ((s.setFlag (R.RFI_TXMAP 3) F.RFI_TXMAP_EN true).setReg R.RFI_SBUF_NSAMP 64).setReg R.RFI_JRX_CFG 0x85 with
    rfi := { mode := 1, rxOn := true, txOn := true, marked := true, tx := [(3, { hist := [⟨1, 2⟩, ⟨3, 4⟩] })] } }
theorem witness_SamplesInAndOut : receiving (radioUp 0) ∧ ((radioUp 0).rxAnt 3).next = none ∧
    (radioUp 0).fld (R.RFI_RXMAP 3) F.RFI_RXMAP_DEC = 0 ∧ (radioUp 2).fld (R.RFI_RXMAP 3) F.RFI_RXMAP_DEC ≠ 0 ∧ receiving (radioUp 2) ∧
    (radioUp 0).flag (R.RFI_RXMAP 3) F.RFI_RXMAP_EN = true ∧ normal.rfi.mode ≠ 1 ∧ (radioUp 0).rfi.mode = 1 ∧
    (radioUp 0).flag (R.RFI_TXMAP 3) F.RFI_TXMAP_EN = true ∧ txMuted (radioUp 0) = false ∧ ((radioUp 0).txChain 3).en = false ∧
    (radioUp 0).flag (R.RFI_DPD_CTL 3) F.RFI_DPD_CTL_LT_EN = false ∧ 2 ≤ ((radioUp 0).txChain 3).hist.length ∧
    (radioUp 0).fld (R.RFI_TXMAP 3) F.RFI_TXMAP_INT = 0 := by
  refine ⟨⟨?_, ?_, ?_⟩, ?_, ?_, ?_, ⟨?_, ?_, ?_⟩, ?_⟩ <;> decide +kernel

/-! ### Predistortion -/

/-- Expert control of the Radio Front, learned term of chain 3 on. -/
def dpdState : State := (normal.setReg R.GLB_EXPERT 2).setFlag (R.RFI_DPD_CTL 3) F.RFI_DPD_CTL_LT_EN true
/-- A capture of chain 3 queued, and running when r. -/
def capState (r : Bool) : State := { dpdState with rfi := { caps := [{ chain := 3, sym := 2, len := 256, addr := 4096 }], capRun := r } }
theorem witness_Predistortion : reaches .pf (R.RFI_DPD_CTL 3) dpdState = true ∧ expertOn dpdState 1 = true ∧
    reaches .pf (R.RFI_DPD_CTL 3) normal = true ∧ expertOn normal 1 = false ∧ swapPending normal 3 = false ∧
    F.RFI_DPD_CTL_SWAP.get 4 = 1 ∧ reaches .pf (bankOff 3 1 383) dpdState = true ∧ activeBank dpdState 3 ≠ 1 ∧
    reaches .pf (bankOff 3 0 0) dpdState = true ∧ activeBank dpdState 3 = 0 ∧
    swapPending (dpdState.setFlag (R.RFI_DPD_CTL 3) F.RFI_DPD_CTL_SWAP true) 3 = true ∧
    reaches .pf (bankOff 3 0 0) (dpdState.setFlag (R.RFI_DPD_CTL 3) F.RFI_DPD_CTL_SWAP true) = true ∧
    dpdState.flag (R.RFI_DPD_CTL 3) F.RFI_DPD_CTL_LT_EN = true ∧ normal.flag (R.RFI_DPD_CTL 3) F.RFI_DPD_CTL_LT_EN = false ∧
    reaches .pf (R.RFI_DPD_CAP 3) dpdState = true ∧ F.RFI_DPD_CAP_GO.get 1 = 1 ∧ dpdState.rfi.caps.any (·.chain == 3) = false ∧
    (capState false).rfi.caps.any (·.chain == 3) = true ∧ (capState false).rfi.capRun = false ∧ (capState true).rfi.capRun = true ∧
    (capState true).rfi.orxSteps = [] := by decide +kernel

/-! ### GainControl -/

/-- Channels 0 to 4 in mode m, gain 30, limits 0 to 63, steps of 0.5 dB up to 15, frames waiting for channel 3. -/
def agcState (m : Nat) : State :=
  { (List.range 5).foldl (fun s a => ((s.setReg (R.RFI_AGC_CTL a) (BitVec.ofNat 32 (m + 8))).setReg (R.RFI_AGC_GAIN a) 30).setReg (R.RFI_AGC_LIM a)
      (F.RFI_AGC_LIM_GMAX.put (F.RFI_AGC_LIM_MAX_STEP.put (F.RFI_AGC_LIM_STEP.put 0 1) 15) 63)) (normal.setReg R.GLB_EXPERT 2) with
    rfi := { mode := 1, cnv := [(3, 9), (4, 8)], agc := [(3, { nchg := 64 })] } }
theorem witness_GainControl : (agcState 1).rfi.mode = 1 ∧ fastFreeze (agcState 1) 3 = true ∧
    frozenNext ((agcState 1).setReg (R.RFI_AGC_FRZ 3) 9) 3 = false ∧ fastFreeze ((agcState 1).setReg (R.RFI_AGC_FRZ 3) 9) 3 = true ∧
    viaSpi ((agcState 1).setReg (R.RFI_AGC_FRZ 3) 9) 3 = false ∧ frozenNext (agcState 1) 3 = true ∧ viaSpi (agcState 1) 4 = true ∧
    frozenNext (((agcState 1).setReg (R.RFI_AGC_FRZ 4) 9).setAgc 4 { grid := 3 }) 4 = false ∧
    ((((agcState 1).setReg (R.RFI_AGC_FRZ 4) 9).setAgc 4 { grid := 3 }).agcOf 4).grid = 3 ∧
    (((agcState 1).agcOf 4).grid + 1) % 4 ≠ 0 ∧ fastFreeze (agcState 2) 4 = false ∧ freezeSrc (agcState 1) 3 1 = true ∧
    (agcState 2).fld (R.RFI_AGC_CTL 4) F.RFI_AGC_CTL_MODE = 2 ∧ (agcState 2).rfi.capRun = false ∧
    reaches .pf (R.RFI_AGC_CTL 4) (agcState 1) = true ∧ expertOn (agcState 1) 1 = true ∧ F.RFI_AGC_CTL_MODE.get 2 < 3 ∧
    (agcState 1).rfi.cnv = [(3, 9), (4, 8)] ∧ normal.rfi.cnv = [] := by decide +kernel

/-! ### PreamblesAndMonitor -/

/-- Cell 3 enabled with comparator 15 towards RF, an occasion running, channel 4 monitoring cell 15. -/
def prachState (m : Nat) : State :=
  { ((((((normal.setReg (R.RFI_PRA_CTL 3) 0xF01).setReg (R.RFI_PRA_OCC 3) (F.RFI_PRA_OCC_CMP.put 0 15)).setFld (R.BEL_CMP_CTL 15) F.BEL_CMP_CTL_DEST 4).setReg
      (R.RFI_AGC_CTL 3) 5).setReg (R.RFI_AGC_CTL 4) 2).setReg (R.RFI_MON 4) (F.RFI_MON_CELL.put (F.RFI_MON_EN.put 0 1) 15)).setReg (R.RFI_PRA_THR 3) 10 with
    rfi := { mode := m, cells := [(3, { occ := some 7, ndet := 4294967295 })], pdrOff := true, synCtl := F.RFI_SYN_CTL_SRC.put 0 1 } }
/-- Two peaks of preamble 63 and one of preamble 0 below 10. -/
def peaks0 : List Peak := [{ preamble := 63, pnr := 10, ta := 1, fofs := 2 }, { preamble := 63, pnr := 11, ta := 3, fofs := 4 }, { preamble := 0, pnr := 9, ta := 5, fofs := 6 }]
theorem witness_PreamblesAndMonitor : reaches .pf (R.RFI_PRA_CTL 3) normal = true ∧ F.RFI_PRA_CTL_EN.get 0x11 = 1 ∧
    formatOk (F.RFI_PRA_CTL_FORMAT.get 0x31) (F.RFI_PRA_CTL_LEN.get 0x31) = false ∧ formatOk (F.RFI_PRA_CTL_FORMAT.get 0x33) (F.RFI_PRA_CTL_LEN.get 0x33) = true ∧
    (prachState 1).flag (R.RFI_PRA_CTL 3) F.RFI_PRA_CTL_EN = true ∧
    bitOf ((prachState 1).fld (R.BEL_CMP_CTL ((prachState 1).fld (R.RFI_PRA_OCC 3) F.RFI_PRA_OCC_CMP)) F.BEL_CMP_CTL_DEST) 2 = true ∧
    ((prachState 1).radioCell 3).occ = some 7 ∧ (prachState 1).rfi.mode = 1 ∧ (prachState 2).rfi.mode = 2 ∧
    startBlocked (prachState 2) (rfiSg (prachState 2)) = false ∧ normal.rfi.mode = 0 ∧ ((prachState 1).radioCell 2).occ = none ∧
    (prachState 1).fld (R.RFI_AGC_CTL 4) F.RFI_AGC_CTL_MODE = 2 ∧ (prachState 1).flag (R.RFI_MON 4) F.RFI_MON_EN = true := by decide +kernel

/-! ### CoresIssue -/

/-- Core 15 runs NOPs with memories empty. -/
def running : State := normal.setFld (R.CLO_STAT 15) F.CLO_STAT_STATE cRunning
/-- Its first bundle has an undefined SB slot. -/
def badBundle : State := running.setCore 15 { imem := [(3, 0xF8000000)] }
/-- It waits for event 18, which is pending. -/
def waiting18 : State := (running.setCore 15 { imem := [(3, 0xF4040000)], wait := some 0x40000 }).setReg (R.CLO_EVP 15) 0x40000
theorem witness_CoresIssue : coreState running 15 = cRunning ∧ (running.core 15).wait = none ∧ stopAsked (running.core 15) = false ∧ stopAsked (waiting18.core 15) = false ∧ (running.core 15).item = none ∧
    (match issue (running.core 15) (evpOf running 15) with | .ok r => !r.ended | _ => false) = true ∧
    (match issue (badBundle.core 15) (evpOf badBundle 15) with | .error n => n == 1 | _ => false) = true ∧
    (match issue (waiting18.core 15) (evpOf waiting18 15) with | .ok r => !r.ended | _ => false) = true ∧
    (waiting18.core 15).wait = some 0x40000 ∧ Nat.land (evpOf waiting18 15) 0x40000 ≠ 0 ∧ coreState normal 15 ≠ cRunning ∧
    interruptDue (waiting18.setReg (R.CLO_IEN 15) 0x40000) 15 = true ∧ interruptDue running 15 = false ∧
    mergeBad (running.core 15) 0x7FFFF 1 = false ∧ (dmemRead (normal.core 15) 0x7FFFF 1 1).toOption.isSome = true := by decide +kernel
theorem witness_CoresIssue_event : bitOf (evpOf running 15) 18 = false ∧ bitOf (evpOf waiting18 15) 18 = true ∧
    bitOf (((running.setReg (R.CLO_STI 15) 0x8000).setFld (R.BEL_CMP_CTL 15) F.BEL_CMP_CTL_DEST 1).fld (R.CLO_STI 15) F.CLO_STI_MASK) 15 = true ∧
    bitOf (((running.setReg (R.CLO_STI 15) 0x8000).setFld (R.BEL_CMP_CTL 15) F.BEL_CMP_CTL_DEST 1).fld (R.BEL_CMP_CTL 15) F.BEL_CMP_CTL_DEST) 0 = true ∧
    bitOf (running.fld (R.CLO_STI 15) F.CLO_STI_MASK) 15 = false := by decide +kernel

/-! ### BundleEffects -/

/-- A core at bundle 4095 whose SB word is w. -/
def coreAt (w : Word) : Core := { imem := [(4 * 4095 + 3, w)], ctx := { pc := 4095 } }
theorem witness_BundleEffects : (coreAt 0).bundle 4095 = some { mem := none, va := .nop, vb := .nop, sb := .nop } ∧
    (match issue (coreAt 0) 0 with | .ok r => !r.waiting && r.core.ctx.pc == 0 | _ => false) = true ∧
    (coreAt 0xF4000001).bundle 4095 = some { mem := none, va := .nop, vb := .nop, sb := .waitev 1 } ∧ Nat.land 2 1 = 0 ∧
    (match issue (coreAt 0xF7000000) 0 with | .ok r => r.ended | _ => false) = true ∧
    (match issue (coreAt 0xE8000018) 0 with | .ok r => r.core.ctx.scale == 24 | _ => false) = true ∧
    (match issue (coreAt 0xE0000005) 0 with | .ok r => r.core.rpt == 6 | _ => false) = true := by decide +kernel

/-! ### CoreControl -/

/-- Core 15 in a state, with expert control of the Cloister. -/
def coreIn (st : Nat) : State := (normal.setReg R.GLB_EXPERT 4).setFld (R.CLO_STAT 15) F.CLO_STAT_STATE st
theorem witness_CoreControl : reaches .pf (R.CLO_CTL 15) (coreIn 0) = true ∧ cloCtl 1 1 0 0 0 0 ∧ coreUp (coreIn 0) 15 = true ∧
    coreState (coreIn 0) 15 = cReset ∧ ((coreIn 0).core 15).zeroing = false ∧ cloCtl 0 0 0 0 0 0 ∧ coreState (coreIn 1) 15 = cRunning ∧
    cloCtl (F.CLO_CTL_HALT.put 1 1) 1 1 0 0 0 ∧ cloCtl (F.CLO_CTL_STEP.put 1 1) 1 0 1 0 0 ∧ cloCtl (F.CLO_CTL_RESUME.put 1 1) 1 0 0 1 0 ∧
    coreState (coreIn 2) 15 = cHalted ∧ coreState (coreIn 3) 15 = cFaulted ∧ expertOn (coreIn 3) 2 = true ∧
    (match issue ((coreIn 2).core 15) (evpOf (coreIn 2) 15) with | .ok r => !r.ended | _ => false) = true ∧
    F.CLO_CTL_CLR.get (F.CLO_CTL_CLR.put 0 1) = 1 ∧ (((coreIn 1).setCore 15 { stopping := true }).core 15).stopping = true ∧
    coreState ((coreIn 1).setCore 15 { halting := true }) 15 = cRunning ∧
    reaches .pf (R.CLO_IMD 15) (coreIn 0) = true ∧ answers .pf (R.CLO_IMD 15) (coreIn 0) = true ∧ reaches .pf (R.CLO_DMD 15) (coreIn 0) = true ∧
    answers .pf (R.CLO_DMD 15) (coreIn 0) = true ∧ mergeBad ((coreIn 0).core 15) 0 4 = false ∧
    mergeBad (((coreIn 0).setCore 15 { bad := [(0, true)] }).core 15) 0 4 = true ∧ reaches .chf R.CHM_CORE_SIG normal = true := by
  unfold cloCtl; decide +kernel

/-! ### PlansAndAdmission -/

/-- Cell 15 has a plan at address 0 of device memory: one stage, one item. -/
def planned : State :=
  { ((((((normal.setReg R.MMU_CTL 1).setReg R.FWL_CTL 1).setReg (R.FWL_CELL_CTL 15) 0x3).setReg R.SEQ_TBL_SIZE 1).setReg R.FWL_SHADOW_SIZE 6).setReg
      (R.BEL_SG_COUNT 0) 0xA41C) with
    mem := { tlb := [(16, [⟨0, 16, 0, true, true, false, false, []⟩])] }
    hbm := [(0, 1), (2, 15), (3, 1), (4, 1), (8, 64), (16, 128), (64, 0x2F), (67, 0x80), (137, 1), (138, 2), (142, 1), (144, 4),
            (146, 8), (148, 6)]
    fwl := [(15, { plan := some 0 })] }
/-- The same with the plan armed, and marked valid. -/
def armed (ok : Bool) : State := planned.setCell 15 { arm := some (0, ok) }
/-- The same after a strobe two slots ago, whose item is still live. -/
def stale : State := (planned.setReg R.FWL_CTL 0).setCell 15 { slots := [⟨0xA41A, 0, 0, 0, [], [], [{ idx := 3, ent := [], state := .predict, blocks := 2 }],
  [], false, 0, 0, false, 0, false, [], false⟩] }
theorem witness_PlansAndAdmission : answers .pf (R.FWL_CELL_NEXT_LO 15) normal = true ∧ (armed false).cell 15 = { arm := some (0, false) } ∧
    (readPlan 15 0 (armed false)).2.isSome = true ∧ (readPlan 15 1 (armed false)).2 = none ∧
    (armed true).cell 15 = { arm := some (0, true) } ∧ strobeDue 15 ((armed true).setReg R.FWL_CTL 0) ∧ strobeDue 15 planned ∧ cellOn 15 planned ∧ ¬ strobeDue 15 normal ∧
    ¬ cellOn 15 (planned.setReg R.FWL_CTL 0) ∧ strobeDue 15 (planned.setReg R.FWL_CTL 0) ∧ (planned.cell 15).slots = [] := by
  unfold strobeDue cellOn; decide +kernel
theorem witness_PlansAndAdmission_item :
    (match readPlan 15 0 (strobed 15 planned) with
     | (s1, some (h, _)) => (match vaRead 16 (plItemAddr h) 64 s1 with
       | (_, .ok tb) => itemOk tb (tblSize planned) && !itNoSpec tb && itBlocks tb == 6
       | _ => false) && plItems h == 1
     | _ => false) = true ∧ startBlocked planned (fwSg planned 15) = false ∧ poolOff planned = false ∧ twinRunning planned = false ∧
    planned.flag (R.FWL_CELL_CTL 15) F.FWL_CELL_CTL_SPEC = true ∧ planned.flag R.CRY_RPL_CTL F.CRY_RPL_CTL_EN = false := by decide +kernel
theorem witness_PlansAndAdmission_stale : strobeDue 15 stale ∧ ¬ cellOn 15 stale ∧
    2 ≤ ((stale.reg (R.BEL_SG_COUNT (fwSg stale 15))).toNat % 65536 + 65536 - 0xA41A) % 65536 ∧
    (((stale.cell 15).slots.flatMap (·.items)).map (·.idx)) = [3] ∧ stale.host.formed = [] := by unfold strobeDue cellOn; decide +kernel

/-! ### PredictionsAndCommit -/

/-- Item 1023 of cell 15's slot of epoch 0xFFFF, in a state, with 6 blocks of 12 in use. -/
def withItem (x : FwItem) : State := { normal.setReg R.FWL_STAT 0xC000C with
  fwl := [(15, { slots := [⟨0xFFFF, 0, 0, 0, [], [], [{ x with idx := 1023, blocks := 6 }], [], false, 0, 0, false, 0, false, [], false⟩] })] }
def inPredict : State := withItem { idx := 0, ent := [], state := .predict, thr := 0xFF70 }
def inSpeculating : State := withItem { idx := 0, ent := [], state := .speculating, thr := 0xFF70, pred := some [⟨0x3F80, 0⟩] }
/-- The pair runs, and the estimate came before the prediction. -/
def estimateWaits : State := (withItem { idx := 0, ent := [], state := .predict, meas := some [⟨0x3F80, 0⟩] }).setFld R.CRY_TWIN_STAT
  F.CRY_TWIN_STAT_STATE 2
theorem witness_PredictionsAndCommit :
    (liveItem inPredict 15 0xFFFF 1023).map (fun x => (x.state, x.meas)) = some (.predict, none) ∧
    (liveItem estimateWaits 15 0xFFFF 1023).map (fun x => (x.state, x.meas)) = some (.predict, some [⟨0x3F80, 0⟩]) ∧
    (liveItem inSpeculating 15 0xFFFF 1023).map (fun x => (x.state, x.pred)) = some (.speculating, some [⟨0x3F80, 0⟩]) ∧
    (liveItem (withItem { idx := 0, ent := [], state := .nonspec }) 15 0xFFFF 1023).map (·.state) = some .nonspec ∧
    liveItem normal 15 0xFFFF 1023 = none ∧ twinRunning inPredict = false ∧ twinRunning estimateWaits = true := by decide +kernel
/-- Equal grids commit; a measurement of twice the prediction does not at -18 dB (R163). -/
theorem test_commit : commitTest [⟨0x3F80, 0⟩] [⟨0x3F80, 0⟩] 0xFF70 = true ∧ commitTest [⟨0x3F80, 0⟩] [⟨0x4000, 0⟩] 0xFF70 = false := by decide +kernel

/-! ### SlotItemsEnd -/

/-- Item 1023 of cell 15's slot of epoch 0xFFFF, in a state, on tile 31. -/
def ending (st : FwState) (late : Bool) : State :=
  { normal with fwl := [(15, { slots := [⟨0xFFFF, 0, 0, 0, [], [],
      [{ idx := 1022, ent := [0, 0, 0, 0, 0, 0, 0, 0, 1], state := st, blocks := 0 }, { idx := 1023, ent := [], state := st, late := late, active := true, committed := true, tile := some 31 }],
      [], false, 0, 0, false, 0, false, [], false⟩] })] }
/-- A completion of item 1023 waits for its append to sequence 0, of length `len`, on a group of one layer. -/
def appending (len : Nat) : State :=
  { (((((normal.setReg R.MMU_CTL 1).setReg R.SEQ_CTL 1).setReg R.SEQ_TBL_SIZE 1).setReg R.SEQ_TBL_LO 0x400).setReg (R.SEQ_GRP_CFG 0) 0x10001).setReg
      (R.SEQ_GRP_OWN 0) 0x10 with
    mem := { tlb := [(16, [⟨0, 16, 0, true, true, false, false, []⟩])] }
    hbm := Mem.write [] 0x400 (leBytes 4 len ++ [1, 0, 0, 0] ++ leBytes 8 0 ++ leBytes 4 1)
    fwl := (ending .done false).fwl
    host := { link := true, nextId := 8, formed := [{ id := 7, status := 0, append := true, slot := some (15, 0xFFFF, 1023) }] } }
theorem witness_SlotItemsEnd : (slotOf (ending .committed true) 15 0xFFFF).isSome = true ∧ twinRunning (ending .committed true) = false ∧
    ((liveItem (ending .committed true) 15 0xFFFF 1023).map (·.state)) = some .committed ∧
    ((ending .nonspec false).cell 15).slots.all (·.dl) = false ∧ normal.cell 15 = {} ∧
    ((liveItem (ending .predict true) 15 0xFFFF 1023).map (·.state)) = some .predict ∧
    (slotOf ((ending .replaying false).setFld R.CRY_TWIN_STAT F.CRY_TWIN_STAT_STATE 2) 15 0xFFFF).isSome = true ∧
    twinRunning ((ending .replaying false).setFld R.CRY_TWIN_STAT F.CRY_TWIN_STAT_STATE 2) = true := by decide +kernel
theorem witness_SlotItemsEnd_append :
    (appendOf 15 0xFFFF 1023 (appending 1)).isSome = true ∧ appendWaits (appending 1) 15 0xFFFF 1023 0 = false ∧
    (match seqRead 0 (appending 1) with
     | (s1, .ok r) => seqLen r == 1 && (let g := groupOf (appending 1) (seqGroup r)
       capacity g r == 1024 && g.layers == 1 && (writeLayers g r 1 1 0 [[7]] s1).2 == none &&
       (seqWrite 0 0 4 2 (writeLayers g r 1 1 0 [[7]] s1).1).2 == none)
     | _ => false) = true ∧
    (match seqRead 0 (appending 1024) with | (_, .ok r) => seqLen r == 1024 | _ => false) = true ∧
    (match seqRead 0 ((appending 1).setReg (R.SEQ_GRP_OWN 0) 0) with
     | (s1, .ok r) => ((writeLayers (groupOf ((appending 1).setReg (R.SEQ_GRP_OWN 0) 0) 0) r 1 1 0 [[]] s1).2.map (·.status)) == some stTrans
     | _ => false) = true ∧ appendOf 15 0xFFFF 1023 normal = none := by decide +kernel

/-! ### StagesAndPlacement -/

/-- Cell 15 has one slot with an item and a stage that binds tile 31, of core 15 when `core`, triggered when `trig`. -/
def staged (core trig : Bool) : State := { (normal.setReg R.GLB_NAV_RT (if core then 0x80000000 else 0)).setReg R.MEM_STAT_PRE_EFF 0x80000000 with
  fwl := [(15, { slots := [⟨0xFFFF, 0, 0, 0, [], [[0, 0, 0, if core then 0x80 else 0, 0, 0, 0, 0, 2, 0, 0, 0, 0, 0, 0, 0x80]],
    [{ idx := 1023, ent := [], state := .nonspec }], if trig then [0] else [], false, 0, 0, false, 0, false, [], false⟩] })] }
/-- Tile 31 is lent, and its ring work is spilled. -/
def lent31 : State := (normal.setReg (R.NAV_STAT 31) 5).setTile 31 { copy := some ([], []) }
theorem witness_StagesAndPlacement :
    ((staged true false).cell 15).slots.length = 1 ∧ (slotOf (staged true false) 15 0xFFFF).isSome = true ∧
    stageBarred (((slotOf (staged true false) 15 0xFFFF).map (·.stages.getD 0 [])).getD []) (staged true false) ∧
    ¬ stageBarred (((slotOf (staged false false) 15 0xFFFF).map (·.stages.getD 0 [])).getD []) (staged false false) ∧
    ¬ stageDark (((slotOf (staged false false) 15 0xFFFF).map (·.stages.getD 0 [])).getD []) (staged false false) ∧
    stageDark (((slotOf (staged false false) 15 0xFFFF).map (·.stages.getD 0 [])).getD []) ((staged false false).setReg R.GLB_TILEMAP 0) ∧
    (tilesOf (sgTiles (((slotOf (staged false true) 15 0xFFFF).map (·.stages.getD 0 [])).getD []))).find?
      (slotFree ((staged false true).setReg R.GLB_NAV_RT 0x80000000)) = some 31 ∧
    tileState lent31 31 = nvLent ∧ tileNamed lent31 31 = false ∧ (lent31.tile 31).copy.isSome = true ∧ tileState normal 31 = nvIdle := by
  refine ⟨by decide +kernel, by decide +kernel, Or.inl ⟨15, by decide +kernel⟩, ?_, ?_, ⟨by decide +kernel, by decide +kernel⟩, by decide +kernel,
    by decide +kernel, by decide +kernel, by decide +kernel, by decide +kernel⟩
  · unfold stageBarred; decide +kernel
  · unfold stageDark; decide +kernel

/-! ### PreemptionAndErrors -/

/-- Tile 31 is pre-emptible, in a state, with a byte in each half. -/
def tileAt (st : Word) : State :=
  { ((normal.setReg R.MEM_STAT_PRE_EFF 0x80000000).setReg (R.NAV_STAT 31) st).setReg R.GLB_EXPERT 0x10 with
    nav := [(31, { sram := [(5, 9), (0x200005, 7)], acc := [(3, 2)] })] }
def spilled31 : State := (tileAt 6).setTile 31 { sram := [(5, 1), (0x200005, 7)], acc := [], copy := some ([(5, 9)], [(3, 2)]) }
theorem witness_PreemptionAndErrors : preEff (tileAt 2) 31 = true ∧ rtTile (tileAt 2) 31 = false ∧ preEff normal 31 = false ∧
    tileState (tileAt 3) 31 = nvYielding ∧ (freePreEngine (tileAt 3)).isSome = true ∧ tileState (tileAt 4) 31 = nvSpilling ∧
    tileState spilled31 31 = nvRestoring ∧ restoreServed spilled31 31 = true ∧ answers .pf (R.NAV_CTL 31) (tileAt 2) = true ∧ expertOn (tileAt 2) 4 = true ∧
    expertOn normal 4 = false ∧ answers .pf (R.NAV_CTL 31) normal = true ∧ tileState (tileAt 7) 31 = nvFaulted ∧
    F.NAV_CTL_PRE_REQ.get 1 = 1 ∧ F.NAV_CTL_PRE_REL.get 2 = 1 ∧ F.NAV_CTL_CLR.get 4 = 1 ∧ (normal.tile 31).item = none ∧
    Mem.wf [(5, 9)] = true := by decide +kernel
theorem witness_PreemptionAndErrors_copy : ∀ a, Mem.byte [(5, 9)] a ≠ 0 → roleBase spilled31 31 0 ≤ a ∧ a < roleBase spilled31 31 0 + 0x200000 := by
  intro a h
  by_cases e : 5 = a
  · subst e; decide +kernel
  · simp [Mem.byte, Tab.get, Tab.find, e, memDefault] at h

/-! ### PassesAndVectors -/

/-- Context 7 of tile 31 has an issue of one row of a 33 by 65 integer matrix: two blocks, two slices. -/
def hdr65 (mode : Nat) : NavHdr := ⟨mode, 3, 3, 4, 0, 0, 16, 2048, 3, 33, 65, [0x3F800000]⟩
def navBusy (mvp : Bool) (sl b : Nat) : State := (normal.setReg (R.NAV_STAT 31) 2).setTile 31
  { sram := [(0, 3), (0x1000, 5)], work := some (7, sl, b), ctxs := [(7, { hdr := some (hdr65 2), groups := [⟨[⟨1, 0, 1, 0⟩], mvp⟩], reqs := [⟨1, 0, 0, 1, 0, 0x1000, 0x4000, true, false, 1⟩] })] }
def navHeld : State := (normal.setReg (R.NAV_STAT 31) 2).setTile 31 { ctxs := [(7, { hdr := some (hdr65 2), held := [⟨1, 0, 200, 5⟩, ⟨2, 0, 100, 6⟩] })] }
theorem witness_PassesAndVectors : passDue 31 7 (hdr65 2) ⟨[⟨1, 0, 1, 0⟩], false⟩ [] 1 1 (navBusy false 1 1) ∧ kBlocks (hdr65 2) = 2 ∧ slices (hdr65 2) = 2 ∧
    passDue 31 7 (hdr65 2) ⟨[⟨1, 0, 1, 0⟩], false⟩ [] 0 0 (navBusy false 0 0) ∧ (normal.tile 31).ctx 7 = {} ∧
    ((navBusy true 0 0).tile 31).ctx 7 ≠ {} ∧ mayRun (navBusy true 0 0) 31 (((navBusy true 0 0).tile 31).ctx 7) = true ∧
    mayRun (navHeld) 31 ((navHeld.tile 31).ctx 7) = true ∧ (hdr65 2).fillTimeout ≠ 0 ∧ queueLevel (normal.tile 31) 15 = 0 ∧
    bitOf (0x8000 : BitVec 16).toNat 15 = true := by unfold passDue; decide +kernel

/-! ### TasksArePlaced -/

/-- VI 15 has a task that waits for two tiles and a core, of those its masks give it, with one list. -/
def placing (ts cs : Option (List Nat)) : State :=
  { ((((normal.setReg R.SE_CTL 1).setReg (R.VIS_TILEMASK (visPage 15)) 0xC0000000).setReg (R.VIS_COREMASK (visPage 15)) 0x8000).setReg
      (R.VIS_QUOTA (visPage 15)) 0x0101) with
    host := { link := true, items := [{ id := 9, func := 15, sq := 7, idx := 0, cq := 0, desc := [1], active := true, tilesWant := 2, coresWant := 1,
                                        tiles := ts, cores := cs, lists := [0x40] }] } }
theorem witness_TasksArePlaced : (waitingTask (placing none none) 15 (·.tiles.isNone)).isSome = true ∧
    tilesFor (placing none none) 15 2 = some [30, 31] ∧ coresFor (placing none none) 15 1 = some [15] ∧
    ((waitingTask (placing none (some [15])) 15 (·.tiles.isNone)).map fun it => (fenceClear (placing none (some [15])) it, chansReady (placing none (some [15])) it)) = some (true, true) ∧
    ((waitingTask (placing (some [30, 31]) none) 15 (·.cores.isNone)).map fun it => (fenceClear (placing (some [30, 31]) none) it, chansReady (placing (some [30, 31]) none) it)) =
      some (true, true) ∧
    (placing none none).flag R.SE_CTL F.SE_CTL_EN = true ∧ waitingTask normal 15 (·.tiles.isNone) = none := by decide +kernel

/-! ### ChannelsAndDescriptors -/

/-- Channel 191 runs a descriptor. -/
def streaming (d : List Byte) : State := { (normal.setReg R.SE_CTL 1).setReg R.GLB_EXPERT 0x20 with
  se := { chans := [(191, { phase := .run, desc := d, cur := 0x40 })] } }
/-- Channel 191 is about to fetch, from a page of device memory that reads as `m`; it is the PF's. -/
def fetching (cur : Nat) (m : Mem) : State := { (normal.setReg R.MMU_CTL 1).setReg (R.SE_CH_OWN 23 7) 0x10 with
  mem := { tlb := [(16, [⟨0, 16, 0, true, true, false, false, []⟩])] }
  hbm := m
  se := { chans := [(191, { phase := .fetch, cur := cur })] } }
/-- A HEADER for tile 31, context 7: 8-bit integers, K = N = 1. -/
def headerDesc : List Byte := [2, 0, 0, 0, 0, 0, 31] ++ List.replicate 25 0 ++ [7, 0, 3, 3, 4, 0, 0, 0] ++ List.replicate 8 0 ++ [1, 0, 0, 0, 1]
def rowsDesc : List Byte := [3, 0, 0, 0, 0, 0, 31, 7, 1]
/-- The context of those rows is open. -/
def ctxOpen (d : List Byte) (n : Nat) : State := (streaming d).setTile 31 { ctxs := [(7, { hdr := some ⟨0, 3, 3, 4, 0, 0, 16, 2048, 3, 1, 1, [0]⟩, reqs := List.replicate n ⟨0, 0, 0, 1, 0, 0, 0, false, false, 1⟩ })] }
theorem witness_ChannelsAndDescriptors : answers .pf (R.SE_CH_CTL 23 7) (streaming []) = true ∧ expertOn (streaming []) 5 = true ∧
    preEngine (streaming []) 23 = true ∧ preEngine (streaming []) 21 = false ∧ (normal.chan 175).phase = .idle ∧ engineUp (streaming []) 21 = true ∧
    mayFetch (fetching 0x41 []) 191 = true ∧ mayFetch (fetching 0x40 []) 191 = true ∧
    (match vaRead (chanOwner (fetching 0x40 []) 191) 0x40 64 (fetching 0x40 []) with | (_, .ok d) => sdOpcode d == 0 | _ => false) = true ∧
    (match vaRead (chanOwner (fetching 0x10000 []) 191) 0x10000 64 (fetching 0x10000 []) with | (_, .error e) => e.status == 5 | _ => false) = true ∧
    chanRuns 191 0 (streaming []) ∧ chanRuns 191 0xF (streaming [0xF]) ∧ chanRuns 191 2 (streaming headerDesc) ∧ chanRuns 191 3 (streaming rowsDesc) ∧
    tileOpen (streaming headerDesc) 31 = true ∧ tileOpen ((streaming headerDesc).setReg R.GLB_TILEMAP 0) 31 = false ∧
    queuedReqs ((ctxOpen rowsDesc 4).tile 31) 7 = 4 ∧ queuedReqs ((ctxOpen rowsDesc 0).tile 31) 7 = 0 ∧
    knownOpcode 0xF = true ∧ knownOpcode 4 = false := by unfold chanRuns; decide +kernel

/-! ### CopiesAndBursts -/

/-- A COPY of one 4-byte element from address 0 of the PF's space to tile 31's role A at its start; and the other way. -/
def copyIn (count : Byte) : List Byte := [1, 0, 0, 0, 0, 0, 4, 0, count, 0, 0, 0, 4, 0, 0, 0, 4] ++ List.replicate 28 0 ++ [31, 0, 0]
def copyOut : List Byte := [1, 0, 0, 0, 0, 0, 1, 0, 1, 0, 0, 0, 4] ++ List.replicate 24 0 ++ [31, 0, 0]
def copying (d : List Byte) (w r : Bool) : State := { (normal.setReg R.MMU_CTL (if r then 1 else 0)).setReg (R.SE_CH_OWN 23 7) 0x10 with
  mem := { tlb := [(16, [⟨0, 16, 0, true, true, false, false, []⟩])] }
  hbm := [(0, 9)]
  se := { chans := [(191, { phase := .run, desc := d, outst := if w then [⟨0, none, none, false, some (31, 0, 64), []⟩] else [] })] } }
theorem witness_CopiesAndBursts : oneElement 191 4 (copying (copyIn 1) false true) ∧ oneElement 191 4 (copying copyOut false true) ∧
    tileOpen (copying (copyIn 1) false true) 31 = true ∧
    tileOfRank ((copying (copyIn 1) false true).chan 191) (epTileRank (cpDst ((copying (copyIn 1) false true).chan 191).desc)) = 31 ∧
    tileOfRank ((copying copyOut false true).chan 191) (epTileRank (cpSrc ((copying copyOut false true).chan 191).desc)) = 31 ∧
    cpDstSpace (copyIn 1) = 1 ∧ cpSrcSpace copyOut = 1 ∧
    (match vaRead (chanOwner (copying (copyIn 1) false true) 191) 0 4 (copying (copyIn 1) false true) with | (_, .ok b) => b == [9, 0, 0, 0] | _ => false) = true ∧
    (match vaRead (chanOwner (copying (copyIn 1) false false) 191) 0 4 (copying (copyIn 1) false false) with | (_, .error e) => e.status == 5 | _ => false) = true ∧
    (vaWrite (chanOwner (copying copyOut false true) 191) 0 [0, 0, 0, 0] (copying copyOut false true)).2 = none ∧
    turnOf (copying (copyIn 2) false true) 23 = some 191 ∧ turnOf normal 23 = none ∧
    (match indexOf 191 0 (turned 23 191 (copying (copyIn 2) true true)) with | (_, .ok x) => x == 0 | _ => false) = true ∧
    hazard ((copying (copyIn 2) true true).chan 191) (srcAt ((copying (copyIn 2) true true).chan 191) 0) (dstAt ((copying (copyIn 2) true true).chan 191) 0)
      (burstSize ((copying (copyIn 2) true true).chan 191) 0) = true ∧ burstSize ((copying (copyIn 2) true true).chan 191) 0 = 4 := by
  unfold oneElement chanRuns; decide +kernel

/-! ### SemaphoresAndSwaps -/

/-- Pair 255 belongs to the PF: producer channel 191, consumer core 15; DEPTH 2. -/
def paired (full : Word) (ws : List (Nat × Bool)) : State :=
  { (((normal.setReg (R.SE_SEM_CFG 255) 0xCFBF0002).setReg (R.SE_SEM_OWN 255) 0x110).setReg (R.SE_SEM_CNT 255) full).setReg R.GLB_CLO_RT 0x8000 with
    se := { sems := [(255, { conf := true, waiters := ws })] } }
/-- Core 15 has a command on word 15 of its line at 0. -/
def commanding (full : Word) (v : Nat) (ws : List (Nat × Bool)) : State :=
  { (paired full ws).setCore 15 { dmem := Mem.write [] 60 (leBytes 4 v) } with
    se := { sems := [(255, { conf := true, waiters := ws })], csl := [(15, [15])] } }
/-- Tile 31 has a swap due for channel 191. -/
def swapDue : State := { normal.setTile 31 { swaps := [191], sram := [(0, 1)] } with se := { chans := [(191, { phase := .fetch })] } }
theorem witness_SemaphoresAndSwaps : answers .pf (R.SE_SEM_CFG 255) normal = true ∧ answers .pf (R.SE_SEM_OWN 255) normal = true ∧
    answers .pf (R.SE_SEM_OP 255) normal = true ∧ semReady (paired 1 [(0xCF, true)]) 255 true = true ∧
    semReady (paired 0x10000 [(191, false)]) 255 false = true ∧ semReady (paired 0 []) 255 true = false ∧
    cslWord (commanding 0 0xC00000FF []) 15 15 = 0xC00000FF ∧ bitOf 0xC00000FF 30 = true ∧ bitOf 0x800000FF 31 = true ∧ bitOf 0xFF 31 = false ∧ bitOf 0x800000FF 30 = false ∧
    pairFree (commanding 1 0x800000FF []) 255 0xCF = true ∧ pairFree (commanding 0 0x800000FF []) 255 0xCF = false ∧
    coreOwner (commanding 0 0xC00000FF []) 15 = some 16 ∧ semAllowed (commanding 0 0xC00000FF []) 255 0xCF 16 = true ∧
    roleFree (swapDue.tile 31) = true ∧ tileState swapDue 31 = nvIdle ∧ (swapDue.chan 191).outst = [] := by decide +kernel

/-! ### Collectives -/

/-- The PF has a COLLECTIVE at the front of SQ 7: a BROADCAST to and from this node, its plan and one element at address 0. -/
def collDev (kind seats : Byte) (d : Nat) : State :=
  { ((((normal.setReg R.MMU_CTL 1).setReg R.SPK_COLL_FN 1).setReg (R.VIS_QUOTA (visPage 16)) 2).setReg R.SPK_STAT (BitVec.ofNat 32 d)).setReg R.GLB_EXPERT 0x200 with
    mem := { tlb := [(16, [⟨0, 16, 0, true, true, false, false, []⟩])] }
    hbm := Mem.write [] 0 [1, 0, kind, 0, 0, 2, 0, 0, 9, 0, 0, 0, 0, 0, 0, 0, seats, 0, 1]
    host := { link := true, items := [{ id := 6, func := 16, sq := 7, idx := 0, cq := 0, desc := [3, 0, 0, 0, 0, 0, 0, 0] ++ List.replicate 16 0 ++ [2] }] } }
/-- A collective is in progress, or waits. -/
def collRuns (started : Bool) : State :=
  { collDev 3 1 5 with spk := { runs := [{ item := 6, func := 16, plan := [1, 0, 3, 0, 0, 2, 0, 0, 9], buf := 0, len := 2, started := started }] } }
/-- Channel 191, the PF's, runs a COLL step with peer 1, whose seat is behind port 14. -/
def collStep (step : Byte) : State := (((collDev 3 1 0x25).setReg (R.SE_CH_OWN 23 7) 0x10).setReg (R.SPK_P_STAT 14)
    ((F.SPK_P_STAT_PARTNER.put (F.SPK_P_STAT_LSTATE.put 0 3) 1))).setFld R.SPK_STAT F.SPK_STAT_WHEEL_SIZE 2 |>.setChan 191
  { phase := .run, desc := [7, 0, 0, 0, 0, 0, step, 0, 2, 0, 0, 0, 1] ++ List.replicate 51 0 }
/-- It waits for the message. -/
def collWaits : State := { (collStep 1).setChan 191 { ((collStep 1).chan 191) with phase := .coll } with spk := { steps := [{ chan := 191 }] } }
def msg1 : SpkMsg := ⟨0, 1, 2, 0, 0, 0, 0, 0, [5, 6]⟩
theorem witness_Collectives : (frontItem (collDev 3 1 6) 16 7).isSome = true ∧ collFn (collDev 3 1 6) 16 = true ∧ discSettled (collDev 3 1 6) = true ∧
    discSettled (collDev 3 1 1) = false ∧ (runOf (collRuns true) 6).map (·.started) = some true ∧ (runOf (collRuns false) 6).map (·.started) = some false ∧
    (itemOf (collRuns true) 6).isSome = true ∧ nodeThere (collDev 3 1 6) 0 = true ∧ nodeThere (collDev 3 3 6) 1 = false ∧
    planOk (((collDev 3 1 6).hbm).read 0 64) = true ∧ planOk (((collDev 4 1 6).hbm).read 0 64) = false ∧
    cvMembers (((collDev 3 1 6).hbm).read 0 64) = [0] ∧ collFn normal 16 = false := by decide +kernel
theorem witness_Collectives_step : stepGood 191 0 (collStep 0) ∧ stepGood 191 1 (collStep 1) ∧ stepGood 191 2 (collStep 2) ∧ peerUp 191 (collStep 0) ∧
    portTo (collStep 0) 1 0 = some 14 ∧ (collStep 1).spk.early = [] ∧ isActive collWaits 14 = true ∧ stepMatch collWaits msg1 { chan := 191 } = true ∧
    isActive normal 14 = false ∧ collOk [] = false := by unfold stepGood chanRuns peerUp; decide +kernel

/-! ### DeviceMemory -/

/-- Block 2^32 - 1 is poisoned and channel 191 runs; the upper half in self-refresh when `dark`. -/
def poisonedHbm (dark : Bool) : State := { normal with
  mem := { poison := [(0xFFFFFFFF, true)], upperDenied := dark, corrected := [7], lines := [(0, ⟨0, 16, false, 0, false⟩), (0x20000000, ⟨0, 16, true, 0, false⟩)] }
  se := { chans := [(191, { phase := .run })] } }
theorem witness_DeviceMemory : upperDark (poisonedHbm true) = true ∧ upperDark (poisonedHbm false) = false ∧ isPoisoned (poisonedHbm false) 0xFFFFFFFF = true ∧
    isPoisoned (poisonedHbm false) 0xFFFFFFFE = false ∧ ((poisonedHbm false).chan 191).phase ≠ .idle ∧ (poisonedHbm true).mem.upperDenied = true ∧
    (poisonedHbm true).fld R.MEM_STAT F.MEM_STAT_SELFREF = 0 ∧ (poisonedHbm true).line 0x20000000 ≠ none := by decide +kernel

/-! ### CacheAndTranslation -/

/-- Line 2^30 - 1 is in the cache, line 5 has a miss open. -/
def cachedState (dirty : Bool) : State := { normal.setReg R.GLB_NAV_PRE 0xFFFFFFFF with
  mem := { lines := [(0x3FFFFFFF, ⟨15, 16, dirty, 0, false⟩)], misses := [(5, [⟨16, false, true⟩])], inval := some (16, false, 0x10000, 1)
           tlb := [(14, [⟨0x10000, 16, 0x1FFFFF0000, false, false, false, false, []⟩]), (15, [⟨0x10000, 16, 0, true, false, true, false, [(0, 7)]⟩]),
                (16, [⟨0x10000, 16, 0, true, false, true, false, []⟩, ⟨0x200000, 21, 0, true, true, true, false, []⟩])] } }
/-- One more request than line 5's miss can take; slice 5 full of misses. -/
def missFull : State := { normal with mem := { misses := [(5, List.replicate 32 ⟨16, false, true⟩)] } }
def sliceFull : State := { normal with mem := { misses := (List.range 128).map fun i => (29 + 24 * i, []) } }
theorem witness_CacheAndTranslation : (cachedState true).line 0x3FFFFFFF ≠ none ∧ upperDark (cachedState true) = false ∧ (cachedState true).line 5 = none ∧
    ((cachedState true).mem.misses.find? (·.1 == 5)).isSome = true ∧ allowedWays normal 16 ≠ [] ∧
    allowedWays ((expert0 normal).setReg R.GLB_EXPERT 0x40 |>.setReg R.MMU_PF_WAYMASK 0) 16 = [] ∧ reaches .pf R.MEM_CTL normal = true ∧
    reaches .pf R.GLB_NAV_PRE normal = true ∧ reaches .pf R.GLB_NAV_RT normal = true ∧ normal.flag R.MMU_CTL F.MMU_CTL_EN = false ∧
    ((cachedState true).tlbOf 16).find? (tlbHit 0x1FFFF) = some ⟨0x10000, 16, 0, true, false, true, false, []⟩ ∧ normal.tlbOf 16 = [] ∧
    spaceRoot normal 16 = 0 ∧ windowOk normal 16 0 = true ∧ windowOk normal 15 0 = false ∧ (physRead normal 4088 8).toOption.isSome = true ∧
    2 ^ 37 ≤ spaceRoot (normal.setReg R.MMU_PF_ROOT_HI 0x20) 16 ∧ F.MMU_INV_GO.get 0x301 = 1 ∧ F.MMU_INV_SPACE.get 0x301 = 16 ∧
    F.MMU_INV_SPACE.get 0x111 = 17 ∧ answers .pf R.MMU_INV normal = true := by decide +kernel
theorem witness_CacheAndTranslation_stale : ((cachedState true).tlbOf 15).any (fun e => e.host && e.r && tlbHit 0x1FFFF e &&
      e.used.any fun u => leNat ((cachedState true).hbm.read u.1 8) != u.2) = true ∧ 2 ^ 37 ≤ spaceRoot (normal.setReg (R.MMU_VI_ROOT_HI 15) 0x20) 15 ∧
    ((cachedState true).tlbOf 14).any (fun e => !e.host && tlbHit 0x10000 e && decide (2 ^ 36 ≤ e.pa) && decide (e.pa + 2 ^ e.bits ≤ 2 ^ 37)) = true ∧
    upperDark { normal with mem := { upperDenied := true } } = true := by decide +kernel
theorem witness_CacheAndTranslation_full : (missFull.mem.misses.find? (·.1 == 5)).map (·.2.length) = some 32 ∧
    (sliceFull.mem.misses.filter fun e => e.1 % 24 == 5 % 24).length = 128 ∧ sliceFull.mem.misses.find? (·.1 == 5) = none := by decide +kernel

/-! ### SequencesOpenAndClose -/

/-- Sequence 0 in state `st`, of length `len`, in a valid group 0 of the PF; its table lies at 0x400. -/
def seqHeld (st len : Nat) : State :=
  { (((((normal.setReg R.MMU_CTL 1).setReg R.SEQ_CTL 1).setReg R.SEQ_TBL_SIZE 1).setReg R.SEQ_TBL_LO 0x400).setReg (R.SEQ_GRP_CFG 0) 0x10001).setReg
      (R.SEQ_GRP_OWN 0) 0x10 with
    mem := { tlb := [(16, [⟨0, 16, 0, true, true, false, false, []⟩])] }
    hbm := Mem.write [] 0x400 (leBytes 4 len ++ leBytes 1 st ++ [0, 1, 0] ++ leBytes 8 0 ++ leBytes 4 1) }
/-- The same with its CLOSE waiting at SEQ_CMD. -/
def seqClosing0 : State := { seqHeld 2 0 with seq := { closes := [(17, some 0)], closing := [(0, some 9)] } }
theorem witness_SequencesOpenAndClose : reaches .pf R.SEQ_CMD (seqHeld 0 0) = true ∧ (seqHeld 0 0).flag R.SEQ_CMD_STAT F.SEQ_CMD_STAT_BUSY = false ∧
    ((seqHeld 0 0).setReg R.SEQ_CMD_STAT 1).flag R.SEQ_CMD_STAT F.SEQ_CMD_STAT_BUSY = true ∧
    F.SEQ_CMD_GO.get 0x83000000 = 1 ∧ F.SEQ_CMD_OP.get 0x83000000 = 3 ∧ F.SEQ_CMD_INDEX.get 0x800FFFFF = 0xFFFFF ∧ tblSize (seqHeld 0 0) = 1 ∧
    (groupOf (seqHeld 0 0) 0).valid = true ∧ (groupOf (seqHeld 0 0) 0).owner = 16 ∧
    ([(0, 0), (3, 1024), (3, 1025), (1, 0)].all fun q => match seqRead 0 (storeReg .pf R.SEQ_CMD 0x80000000 (seqHeld q.1 q.2)) with
      | (_, .ok e) => seqState e == q.1 && seqLen e == q.2 && seqCap e == 1 && capacity (groupOf (seqHeld 0 0) 0) e == 1024
      | _ => false) = true ∧
    (match seqRead 0 (storeReg .pf R.SEQ_CMD 0x80000000 (seqHeld 3 1024)) with
      | (s1, .ok _) => (seqWrite 0 6 1 0 s1).2 == none && (seqWrite 0 24 4 0xFFFFFFFF s1).2 == none
      | _ => false) = true ∧
    Tab.get (fun _ => none) seqClosing0.seq.closes (pageNo none) = some 0 ∧ seqInUse seqClosing0 0 9 = false ∧
    (seqWrite 0 4 1 3 seqClosing0).2 = none ∧ reaches .pf (R.SEQ_GRP_CFG 63) (seqHeld 0 0) = true ∧ answers .pf R.SEQ_CMD State.reset = false ∧
    reaches (.vf 15) (seqCmdReg (pageOf (some 15))) (seqHeld 0 0) = true := by decide +kernel

/-! ### StepsAdmitAndEnd -/

/-- The step block at 0x100: context 63, one entry; lists at 0x200 and 0x208, results at 0x300, rows at 0x380; sequence 0 at 0x400. -/
def stepBlk (app : Byte) : List Byte :=
  [1, 0, 63, app] ++ leBytes 4 1 ++ leBytes 8 0x200 ++ leBytes 8 0x208 ++ leBytes 8 0x300 ++ leBytes 8 0x340 ++ leBytes 8 0x380 ++
  leBytes 2 4 ++ leBytes 2 4 ++ leBytes 4 1 ++ leBytes 4 1 ++ [0, 0, 0, 0]
def stepState (active : Bool) (thr : Nat) (app : Byte) : State :=
  { ((((((((normal.setReg R.MMU_CTL 1).setReg R.SEQ_CTL 1).setReg R.SEQ_TBL_SIZE 1).setReg R.SEQ_TBL_LO 0x1000).setReg (R.SEQ_GRP_CFG 0) 0x10005).setReg
      (R.SEQ_GRP_OWN 0) 0x10).setReg (R.SEQ_BCTX_OWN 63) 0x10).setFld R.SEQ_SAT F.SEQ_SAT_THR thr) with
    mem := { tlb := [(16, [⟨0, 16, 0, true, true, false, false, []⟩])] }
    hbm := ((Mem.write [] 0x100 (stepBlk app)).write 0x208 (leBytes 4 1 ++ leBytes 4 0)).write 0x1000 (leBytes 8 0x100000000 ++ leBytes 8 0 ++ leBytes 4 1 ++ leBytes 8 0xFFFFFFFF00000000)
    host := { link := true, nextId := 8, items := [{ id := 7, func := 16, sq := 7, idx := 0, cq := 7, desc := hostDesc 2 0x100, active := active }] } }
/-- That step has begun. -/
def stepGoing (app : Byte) : State := { stepState true 0 app with seq := { runs := [(63, some ⟨7, stepBlk app, [⟨0, 1, 0, 0, 0, true, true⟩]⟩)] } }
theorem witness_StepsAdmitAndEnd :
    ((frontItem (stepState false 0 0) 16 7).map fun it => (it.id, dOpcode it.desc)) = some (7, 2) ∧ itemOf (stepState false 0 0) 7 ≠ none ∧
    (match vaRead 16 0x100 64 (stepState false 0 0) with | (_, .ok b) => b == stepBlk 0 && stepBlockOk b && ctxOwner (stepState false 0 0) (sbCtx b) == 16 | _ => false) = true ∧
    ((frontItem (hostHeld 2 0x20) 16 7).map fun it => stepBlockAddr it.desc % 64) = some 32 ∧ frontItem normal 16 7 = none ∧
    ((nextStep (stepState true 0 0) 63).map fun x => (x.1.id, x.2)) = some (7, stepBlk 0) ∧ stepRun (stepState true 0 0) 63 = none ∧
    (match vaRead 16 0x208 8 (stepState true 0 0) with | (_, .ok l) => stepListsOk (stepBlk 0) [0] (lenList 1 l) && !stepListsOk (stepBlk 0) [0, 0] (lenList 1 l) | _ => false) = true ∧
    (match seqRead 0 (stepState true 0 0) with | (s, .ok e) => !entryReject s 63 16 7 false 0 1 e && !isCont 1 e && entryReject s 63 16 7 false 0 1 [] | _ => false) = true ∧
    (stepRun (stepGoing 0) 63).isSome = true ∧ (itemOf (stepGoing 1) 7).isSome = true ∧ (vaWrite 16 0x380 [1, 2, 3, 4] (stepGoing 1)).2 = none := by decide +kernel

/-! ### RingsAndVectors -/

/-- Ring `k` of a function on with 64 entries, one of them counted; COAL_TIME is 1. -/
def ringUp (f k : Nat) : State :=
  { (normal.setReg (ringCfg f k) (if k < 8 then 0x1F000061 else 0x00400061)).setReg (ringCoal f k) 0x00010001 |>.setReg (msixCtl f 0) 0 with
    host := { link := true, rings := [(ringKey f k, { state := 1, idx := 65, counted := 1, cons := 64, resv := 2 })] } }
theorem witness_RingsAndVectors : reaches .pf (ringCfg 16 17) normal = true ∧ reaches (.vf 15) (ringCfg 15 16) normal = true ∧
    reaches (.vf 15) (ringCfg 16 0) normal = false ∧ normal.flag (ringCfg 16 17) F.VIS_CQ_CFG_EN = false ∧
    (ringUp 15 7).flag (ringCfg 15 7) F.VIS_CQ_CFG_EN = true ∧ F.VIS_CQ_CFG_LOG2SIZE.get 0x1F0000101 = 16 ∧
    F.VIS_SQ_CFG_FETCH.get 0x1F000061 = normal.fld (ringCfg 16 0) F.VIS_SQ_CFG_FETCH ∧ reaches .pf (ringBaseOff 16 17 true) normal = true ∧
    reaches .pf (msixCtl 16 63) normal = true ∧ reaches (.vf 3) (msixCtl 3 7) normal = true ∧
    (ringUp 16 17).flag (ringCfg 16 17) F.VIS_CQ_CFG_INT_EN = true ∧ (ringUp 16 17).fld (ringCoal 16 17) F.VIS_CQ_COAL_COAL_TIME ≠ 0 ∧
    ((ringUp 16 17).ring 16 17).counted ≠ 0 ∧ answers .pf R.GLB_SEAL normal = true ∧ answers (.vf 0) R.GLB_SEAL normal = false := by decide +kernel

/-! ### PollsAndDescriptors -/

/-- The PF with SQ 7 on (64 entries, bound to CQ 7, which is on); doorbells at 0x2000, descriptors at 0; `n` of them are there. -/
def pollState (n : Nat) : State :=
  { ((normal.setReg (ringCfg 16 7) 0x1F007061).setReg (ringCfg 16 15) 0x61).setReg (R.VIS_DB_LO (visPage 16)) 0x2000 with
    hostMem := Mem.write [(64 * 62, 0), (64 * 63 + 1, 1)] 0x21C0 (leBytes 4 (63 + n))
    bel := { dnc := 100 }
    host := { link := true, rings := [(ringKey 16 7, { state := 1, idx := 63 }), (ringKey 16 15, { state := 1, idx := 9, cons := 5 })] } }
theorem witness_PollsAndDescriptors : (pollState 2).host.link = true ∧ startOf (pollState 2) < 2 ∧ twinHalted (pollState 2) = false ∧
    ((List.range 8).all fun j => (pollState 2).flag (R.VIS_SQ_CFG (visPage 16) j) F.VIS_SQ_CFG_EN == decide (j = 7)) = true ∧
    ((pollState 2).ring 16 7).state = 1 ∧ takes 16 7 (pollState 2) = 2 ∧ ahead 16 7 (pollState 65) = 65 ∧ takes 16 7 (pollState 0) = 0 ∧
    ringSize (pollState 2) 16 7 = 64 ∧ takes 16 7 (pollState 64) = 30 ∧ (pollOf (pollState 2) 16).due ≤ 100 ∧
    ((List.range 10).all fun k => ((pollState 2).ring 16 (8 + k)).state != 1 || decide (ringSize (pollState 2) 16 (8 + k) ≤ 4 * freeSlots (pollState 2) 16 (8 + k))) = true ∧
    freeSlots { pollState 0 with host := { (pollState 0).host with rings := [(ringKey 16 15, { state := 1, idx := 63 })] } } 16 15 = 1 ∧
    dOpcode (hostDesc 0 0) = 0 ∧ (frontItem (hostHeld 0 0) 16 7).isSome = true ∧ (itemOf (hostHeld 0 0) 7).isSome = true ∧ dOpcode (hostDesc 6 0) = 6 ∧
    tkTiles (hostDesc 1 0x01200000) = 32 ∧ maskTiles normal 16 = [] ∧
    (maskTiles (normal.setReg (R.VIS_TILEMASK (visPage 16)) 0xFFFFFFFF) 16).length = 32 := by decide +kernel

/-! ### CompletionsLeave -/

/-- One completion of VI 15 to its CQ 7, with `resv` slots reserved; that ring and the report ring are on or off. -/
def leaving (c : Cpl) (cqOn rrOn : Bool) : State :=
  { (((((normal.setReg (msixCtl 15 7) 0).setReg (ringCfg 15 15) 0x00470061).setReg (ringCfg 16 17) 0x61).setReg (R.VIS_SH_LO (visPage 15)) 0x3000).setReg (ringBaseOff 15 15 false) 0x8000) with
    host := { link := true, formed := [c], fences := [(15, 1, 2)], rings := (if cqOn then [(ringKey 15 15, { state := 1, idx := 127, cons := 127, resv := 2 })] else []) ++
      (if rrOn then [(ringKey 16 17, { state := 1, idx := 63 })] else []) } }
def cpl7 (resv : Nat) (reset : Bool) : Cpl := { id := 7, status := 0, flags := 4, tag := 0xFFFF, itemId := 0xFFFFFFFF, origin := 1, sq := 7, func := 15, cq := 7, detail := 3, bytes := 9, dnc := 5, resv := resv, digest := [1, 2], reset := reset }
theorem witness_CompletionsLeave : nextCpl (leaving (cpl7 2 false) true false) = some (cpl7 2 false) ∧
    ((leaving (cpl7 2 false) true false).ring 15 15).state = 1 ∧ ((leaving (cpl7 0 false) false true).ring 15 15).state = 0 ∧
    slotsOf (cpl7 0 false) ≤ freeSlots (leaving (cpl7 0 false) true false) 15 15 ∧ (leaving (cpl7 0 true) false true).host.hold = [] ∧
    ((leaving (cpl7 0 true) false true).ring 16 17).state = 1 ∧ freeSlots (leaving (cpl7 0 true) false true) 16 17 = 1 ∧
    slotsOf { cpl7 0 true with flags := 0 } = 1 ∧ backlogSize ((leaving (cpl7 0 true) false false).setReg (R.VIS_RR_BKLOG_SIZE (visPage 16)) 1) = 1 ∧
    upperOff normal = false ∧ normal.host.formed = [] := by decide +kernel

/-! ### RegisterWrites -/

/-- Every function's expert control open, with a DNC comparator armed and a tile held by PRE_REQ. -/
def expertsOpen : State :=
  { ((((normal.setReg R.GLB_EXPERT 0x1FFF).setReg R.SEQ_SAT 3).setReg (R.BEL_CMP_CTL 15) 0x100).setReg (R.BEL_RCLK_CTL) 0x3) with
    bel := { ofsPend := some 1, setPend := some ({}, some 9) }, nav := [(31, { preHeld := true })] }
theorem witness_RegisterWrites : (plainRegs.all fun o => (regRow o).isSome && answers .pf o normal) = true ∧
    agentOff (.vf 15) 0x508 = R.VIS_QUOTA (visPage 15) ∧ answers (.vf 15) (R.VIS_QUOTA (visPage 15)) normal = true ∧
    isSealed (normal.setFlag R.GLB_STATUS F.GLB_STATUS_SEALED true) = true ∧ reaches .pf R.GLB_EXPERT expertsOpen = true ∧
    (bitOf (expertsOpen.reg R.GLB_EXPERT).toNat 12 && !bitOf 0xFFF 12) = true ∧ (bitOf (expertsOpen.reg R.GLB_EXPERT).toNat 0 && !bitOf 0x1FFE 0) = true ∧
    ((List.range 17).all fun p => linkState expertsOpen p != lFailed) = true ∧ bitOf (normal.reg R.GLB_EXPERT).toNat 0 = false := by decide +kernel

/-! ### FramesComeIn -/

/-- Ports 0 and 7 up, in VLAN 5 with PVID 5, learning; VLAN 5 untags at port 7. -/
def switchUp (mac : Tab (Option MacEnt)) : State :=
  { ((((((((normal.setReg R.FHS_CTL 1).setReg (R.FHS_P_CTL 0) (F.FHS_P_CTL_PVID.put (F.FHS_P_CTL_LEARN.put 1 1) 5)).setReg (R.FHS_P_CTL 7) (F.FHS_P_CTL_PVID.put 1 5)).setFlag
      (R.FHS_P_STAT 0) F.FHS_P_STAT_LINK true).setFlag (R.FHS_P_STAT 7) F.FHS_P_STAT_LINK true).setReg (R.FHS_VLAN 63) 0x8005).setReg (R.FHS_VLAN_MASK 63) 0x00800181)) with
    fhs := { mac := mac }, bel := { dnc := 50000000 } }
/-- An untagged frame from station 2 to station 1. -/
def frame45 : List Byte := beOut 6 1 ++ beOut 6 2 ++ [0x08, 0x01] ++ List.replicate 46 9
/-- An uplink frame of one PRB: slot 7, symbol 13, PRB 272, to the Cloister port. -/
def uplink45 : List Byte := beOut 6 1 ++ beOut 6 2 ++ [0xAE, 0xFE] ++ [0x10, 0, 0, 60, 0, 9, 0, 0] ++ [0, 0] ++ beOut 2 (7 * 64 + 13) ++
  beOut 4 (272 * 256 + 1) ++ (List.range 48).map (BitVec.ofNat 8 ·)
/-- Cell 15 takes antenna 0 of flow 255 into its slot buffer at 0; slot 7 is open there. -/
def uplinkState : State :=
  let s := switchUp [(4 * macSet 5 1, some { vid := 5, mac := 1, static := true, port := 8, func := 0, hit := true, change := 0 })]
  { ((((s.setReg (R.FHS_FLOW 255) 0x00F80009).setReg (R.FHS_CELL_CFG 15) 0x1001).setReg R.MMU_CTL 1).setReg (R.FHS_FLOW_ATTR 255) 0x70000) with
    mem := { tlb := [(16, [⟨0, 21, 0, true, true, false, false, []⟩])] }, hbm := Mem.write [] (4 * 14 * 273 * 48 + 96) (leBytes 4 7) }
def ent45 (port : Nat) (static : Bool) : Option MacEnt := some { vid := 5, mac := 1, static := static, port := port, func := 0, hit := true, change := 0 }
def macKey45 : Nat := 4 * macSet 5 1
theorem witness_FramesComeIn : (switchUp []).flag R.FHS_CTL F.FHS_CTL_EN = true ∧ fhEnabled (switchUp []) 0 = true ∧ fhLink (switchUp []) 7 = true ∧
    fcsOk (frame45 ++ fcs frame45) = true ∧ frame45.length = 60 ∧ vlanMember (switchUp []) (vidOf 0 frame45 (switchUp [])) 0 = true ∧
    vlanMember (switchUp []) 0 0 = false ∧ macFind (switchUp [(macKey45, ent45 7 false)]) 5 (frDst frame45) = (ent45 7 false).map (fun e => (macKey45, e)) ∧
    admits (switchUp []) 7 0 { bytes := frame45 } = true ∧ isGroup (frDst frame45) = false := by decide +kernel
theorem witness_FramesComeIn_section : onePrb uplink45 255 15 7 0 13 ⟨false, false, 272, 1⟩ uplinkState ∧ frType uplink45 = 0xAEFE ∧ ecHandled (frBody uplink45) = true ∧
    flowFind uplinkState [0, 1] 9 7 = some 255 ∧ ecPcId (frBody uplink45) = 9 ∧ uplinkState.flag (R.FHS_P_CTL 7) F.FHS_P_CTL_LEARN = false ∧
    (match vaRead 16 (slotBufHead uplinkState 15 3) 4 (counted 7 82 uplinkState) with
     | (s1, .ok hd) => leNat hd == 7 && (vaWrite 16 (slotBufData uplinkState 15 3 13 0 272) (prbDecode 16 (((frBody uplink45).drop 16).take 48)) s1).2 == none
     | _ => false) = true := by unfold onePrb; decide +kernel

/-! ### FramesGoOut -/

/-- A FRAME_TX of 60 bytes to port 7, queue 7; the bytes lie at 0. -/
def txDesc (len port : Nat) : List Byte := leBytes 8 4 ++ [BitVec.ofNat 8 port, 0] ++ [0, 0] ++ leBytes 2 len ++ [7, 0] ++ leBytes 8 0 ++ List.replicate 40 0
def txState (len port fn : Nat) : State :=
  { (((hostHeld 4 0).setReg R.MMU_CTL 1).setReg R.FHS_HOST_FN (BitVec.ofNat 32 fn)).setReg R.FHS_CTL 1 |>.setReg (R.FHS_P_CTL 7) 1 |>.setFlag (R.FHS_P_STAT 7) F.FHS_P_STAT_LINK true with
    host := { link := true, nextId := 8, items := [{ id := 7, func := 16, sq := 7, idx := 0, cq := 7, desc := txDesc len port }] } }
/-- Port 7 with frames in queues 5 and 4 (tags 10 and 9); item 7 is the frame in queue 4. -/
def queuesUp : State := { txState 60 7 1 with
  fhs := { mac := [(3, some { vid := 5, mac := 1, static := false, port := 7, func := 0, hit := true, change := 0 })],
           ports := [(7, { v := 8 })], queues := [(60, { frames := [{ bytes := List.replicate 60 1, item := some 7 }], tag := some 9 }),
           (61, { frames := [{ bytes := List.replicate 60 2 }, { bytes := List.replicate 64 2 }], tag := some 10, shaped := true, tokens := 5 })] } }
def sending : State := { queuesUp with fhs := { queuesUp.fhs with ports := [(7, { tx := some ⟨{ bytes := List.replicate 60 1, item := some 7 }, {}⟩ })] } }
theorem witness_FramesGoOut : (frontItem (txState 60 7 1) 16 7).isSome = true ∧ (itemOf (txState 60 7 1) 7).isSome = true ∧ dOpcode (txDesc 60 7) = 4 ∧
    (match vaRead 16 0 60 (txState 60 7 1) with | (_, .ok bs) => bs.length == 60 && admits (txState 60 7 1) 7 7 { bytes := bs } | _ => false) = true ∧
    fhEnabled (txState 60 7 1) 7 = true ∧ fhLink (txState 60 7 1) 7 = true ∧ pickQueue queuesUp 7 = some 4 ∧ (queuesUp.fp 7).tx = none ∧
    tagAhead queuesUp 7 4 = 1 ∧ (sending.fp 7).tx.isSome = true ∧ twinSecondary normal = false ∧ ftSwitched (txDesc 60 0x80) = true ∧
    ((txState 60 7 1).unit kFh 7).eff = 0 ∧ reaches .pf (R.FHS_QUAD_CFG 1) normal = true ∧ reaches .pf (R.FHS_P_Q_BUF 7 7) (normal.setReg R.GLB_EXPERT 0x100) = true ∧
    resvSum normal = 1024 ∧ badDesc (hostDesc 5 0) ∧ dOpcode (hostDesc 5 0) = 5 := by unfold badDesc; decide +kernel

/-! ### SpokeLinks -/

/-- The fabric enabled, in discovery state `d`, ports 0 and 15 in a link state, port 0 as given. -/
def fabric (d l : Nat) (x : SpkPort) : State :=
  let s := (((normal.setReg R.GLB_EXPERT 0x200).setReg R.SPK_CTL 1).setFld R.SPK_STAT F.SPK_STAT_DSTATE d)
  { (setLink 15 l (setLink 0 l s)) with spk := { ports := Tab.set (fun _ => {}) (Tab.set (fun _ => {}) [] 0 x) 15 x } }
/-- A port with a frame unacknowledged and messages of TC0 and TC1 waiting. -/
def busyPort : SpkPort := { txSeq := 8, unacked := [⟨7, [], []⟩], rxAcc := 41, queue := [⟨1, (0, 0), [⟨1, 1, [1]⟩]⟩, ⟨0, (0, 0), [⟨3, 0, [2]⟩]⟩] }
def ackFrame : List Byte := frameBytes 42 7 false 1 5 []
def nakFrame : List Byte := frameBytes 42 7 true 1 5 []
theorem witness_SpokeLinks : reaches .pf R.SPK_CTL (fabric 0 0 {}) = true ∧ discState (fabric 1 1 {}) = dHello ∧ portOn (fabric 1 1 {}) 0 = true ∧
    expertOn (fabric 1 1 {}) 9 = true ∧ spkOn (fabric 1 1 {}) = true ∧ linkOpen (fabric 1 3 busyPort) 0 = true ∧ twinRunning (fabric 5 3 {}) = false ∧
    linkState (fabric 5 5 {}) 0 = lFailed ∧ (takeClass busyPort 0).isSome = true ∧ frAck ackFrame = 7 ∧ frSeq ackFrame = 42 ∧ frNak nakFrame = true := by
  decide +kernel

/-! ### Discovery -/

/-- Own UID 5 in discovery state `d`; ports 0 and 1 lead to devices 3 and 9, port 15 to a hub, in link states `l` and `u`. -/
def wheelState (d l u : Nat) (view : List AdjRec) : State :=
  let s := ((((normal.setReg R.SPK_CTL 1).setReg R.SPK_UID_LO 5).setReg (R.SPK_P_PUID_LO 0) 3).setReg (R.SPK_P_PUID_LO 1) 9).setFld R.SPK_STAT F.SPK_STAT_DSTATE d
  { (setLink 15 u (setLink 1 l (setLink 0 l s))) with
    spk := { ports := [(0, { uid := 3, hellos := 2 }), (1, { uid := 9, hellos := 2 }), (15, { uid := 77, hellos := 2 })], view := view, upAt := 0 } }
def full3 : List AdjRec := [⟨3, 1, [5, 9]⟩, ⟨9, 1, [3, 5]⟩]
def cut3 : List AdjRec := [⟨3, 1, [5]⟩, ⟨9, 1, [5]⟩]
/-- The wheel 3, 5, 9 has been found. -/
def wheel3 (d u : Nat) (seats : List (DWord × DWord × Nat × Nat)) (num : Option Nat) (nums : List (DWord × Nat)) : State :=
  let s := wheelState d 3 u full3
  { s with spk := { s.spk with wheel := [3, 5, 9], seats := seats, num := num, nums := nums, count := 2 } }
theorem witness_Discovery : linkState (wheelState 1 2 2 []) 0 = lUp ∧ helloGood 0 3 false (wheelState 1 2 2 []) ∧ heard (wheelState 1 2 2 []) 9 1 = true ∧
    discState (wheelState 2 3 3 full3) = dWheel ∧ (activeW (wheelState 1 3 3 [])) = [0, 1] ∧ (activeU (wheelState 1 0 3 [])) = [15] ∧
    joined (ownRecord (wheelState 2 3 3 full3) :: full3) 5 9 = true ∧ leaderUid (wheel3 4 3 [] none []) = 3 ∧ ownSeat (wheel3 4 3 [] none []) = 1 ∧
    wheelFits (wheel3 4 3 [] none []) ∧ numConflict (wheel3 4 3 [] (some 1) [(3, 2)]) = true ∧ seatAgrees (wheel3 3 3 [] none []) (3, 3, 3, 0) = true := by
  unfold helloGood wheelFits; decide +kernel

/-! ### Digests -/

/-- Completion 3 waits for its digest over the weight set of 64 bytes at `addr` in the PF space; the cache as given. -/
def digesting (addr : Nat) (cache : List DigestEnt) : State :=
  { (((hostHeld 4 0).setReg R.MMU_CTL 1).setReg R.GLB_EXPERT 0x400) with
    cry := { cache := cache }
    host := { link := true, nextId := 9, formed := [{ id := 2, status := 0 }, { id := 3, status := 0, wait := true, digMode := 1, digW := (16, addr, 64) }] } }
def ent64 : DigestEnt := ⟨1, 16, 64, 64, List.replicate 32 7⟩
theorem witness_Digests : (digesting 64 [ent64]).host.formed.find? (·.wait) = some { id := 3, status := 0, wait := true, digMode := 1, digW := (16, 64, 64) } ∧
    (digesting 64 [ent64]).cry.cache.find? (digestKey 1 16 64 64) = some ent64 ∧ (digesting 64 []).cry.cache = [] ∧
    (match vaRead 16 64 64 (digesting 64 []) with | (_, .ok bs) => bs.length == 64 | _ => false) = true ∧
    (match vaRead 16 0x100000000 64 (digesting 64 []) with | (_, .error _) => true | _ => false) = true ∧
    reaches .pf R.CRY_INVAL (digesting 0 []) = true ∧ reaches .pf R.CRY_DIGQ_LEN (digesting 0 []) = true ∧ reaches .pf R.CRY_RPL_CTL (digesting 0 []) = true ∧
    expertOn (digesting 0 []) 10 = true ∧ expertOn normal 10 = false ∧ answers .pf R.CRY_INVAL State.reset = false := by decide +kernel

/-! ### Twins -/

def goodHello : TwinHello := ⟨true, false, (twinAt 1 true).reg R.GLB_ID, BitVec.ofNat 6 ((twinAt 1 true).fld R.GLB_CAPS F.GLB_CAPS_TILES), (twinAt 1 true).reg R.CHM_FW_CHF,
  (twinAt 1 true).reg R.CHM_FW_CRF, (twinAt 1 true).reg R.CHM_FW_SLF, true, false, 12, 1⟩
def record9 (st : Fin 12) (res : Nat) : CompareRec := ⟨9, st, List.replicate 32 (BitVec.ofNat 8 res), [⟨2, 0, [5]⟩, ⟨1, 0, [7]⟩]⟩
theorem witness_Twins : reaches .pf R.CRY_TWIN_CTL (twinAt 0 true) = true ∧ partnerPort (twinAt 0 true) = some 3 ∧ partnerPort normal = none ∧
    twinStrap normal = false ∧ answers .pf R.CRY_TWIN_CTL State.reset = false ∧ twinState (twinAt 1 true) = 1 ∧ pairCheck (twinAt 1 true) goodHello = 0 ∧
    twinRunning (twinAt 2 true) = true ∧ ((twinAt 2 true).host.formed.find? fun c => c.held && c.key == (record9 0 1).key.toNat).isSome = true ∧
    ((twinAt 2 true).host.formed.map (·.id)).Nodup ∧ ((twinAt 2 true).host.formed.find? (·.held)).isSome = true ∧
    List.replicate 32 (1 : Byte) = fit 32 (record9 0 1).result ∧ cmpStatus 1 = cmpStatus 0 := by decide +kernel

/-! ### Mailbox -/

theorem witness_Mailbox : issued .pf (goOp 3) 3 (chmAt 1 2 64) ∧ issued .pf (goOp 9) 9 (chmAt 1 2 64) ∧ stagedBank (chmAt 1 2 64) = 1 ∧ romOnly (chmAt 1 2 64) = false ∧
    romKind (chmAt 1 2 64) 2 = true ∧ imageAt (chmAt 1 2 64) 1 2 = none ∧ ((chmAt 0 0 0).chm.flash.map (·.1)).Pairwise (· < ·) ∧ expertOn (chmAt 1 0 0) 11 = true ∧
    chfAt (chmAt 1 0 0) 1 = none ∧ answers .pf R.CHM_CMD State.reset = false ∧ expertOn normal 11 = false ∧ romOnly normal = false ∧
    romOnly { chmAt 1 2 64 with chm := {}, regs := [(R.GLB_STATUS, 2)] } = (startOf { chmAt 1 2 64 with chm := {}, regs := [(R.GLB_STATUS, 2)] } == 2) := by unfold issued; decide +kernel

/-! ### ManagementAnswers -/

theorem witness_ManagementAnswers : (chmAt 0 0 0).chm.held = false ∧ pldmUp (chmAt 0 0 0) = true ∧ sensorReads 24 0 (chmAt 0 0 0) ∧ sensorReads 80 0 (chmAt 0 0 0) ∧
    sensorReads 33 0 (chmAt 0 0 0) ∧ sensorReads 70 0 (chmAt 0 0 0) ∧ (chmAt 0 0 0).chm.change = none ∧
    2 ≤ startOf State.reset ∧ State.reset.chm.chf = none := by unfold sensorReads; decide +kernel
/-- Number 0 names no sensor. -/
theorem witness_no_sensor : ∀ v, ¬ sensorReads 0 v (chmAt 0 0 0) := by unfold sensorReads; omega

/-! ### UpdateOverPldm -/

/-- An update over PLDM in a state. -/
def updating (st : Nat) : State := { chmAt 2 0 0 with chm := { (chmAt 2 0 0).chm with pldm := st } }
theorem witness_UpdateOverPldm : inUpdate 1 (updating 1) ∧ inUpdate 5 (updating 5) ∧ romKind (updating 2) 2 = true ∧ totalOf (updating 3) 2 = 64 ∧
    imageAt (updating 4) (stagedBank (updating 4)) 2 = none ∧ stagedBank (updating 2) = 1 ∧ (chmAt 0 0 0).chm.session = 0 ∧
    ((chmAt 0 0 0).chm.flash.map (·.1)).Pairwise (· < ·) := by unfold inUpdate; decide +kernel

/-! ### PointsAndProfiles -/

/-- The CHF running, NV at a clock point `n` under the Rack profile, with a request, a write or a slew as given. -/
def nvAt (n req : Nat) (write : Option (Nat × Nat)) (slew : Option Nat) : State :=
  { chmAt 0 0 0 with chm := { (chmAt 0 0 0).chm with nv := { clk := n, volt := n, shown := n, write := write, slew := slew }, cl := { clk := 0, volt := 0, shown := 0 }, nvReq := req } }
/-- A change to the Site profile that has settled. -/
def changed : State :=
  { (normal.setFld R.MEM_STAT F.MEM_STAT_SELFREF 15) with
    chm := { chf := some { bank := 0, version := 5, ilevel := 7 }, change := some 2, swept := true, later := some (1, 3), nv := { clk := 2, volt := 2, shown := 0 },
             cl := { clk := 0, volt := 0, shown := 0 } } }
theorem witness_PointsAndProfiles : mayStep false (nvAt 0 1 none none) ∧ targetPoint (nvAt 0 1 none none) false = 1 ∧ targetPoint (nvAt 2 1 none none) false = 1 ∧
    changeSettled (applyUnits changed) 2 = true ∧ curProfile changed = 0 ∧ reaches .pf R.CHM_OVR (chmAt 0 0 0) = true ∧ expertOn (chmAt 0 0 0) 11 = true ∧
    startOf ((chmAt 0 0 0).setFld R.GLB_STATUS F.GLB_STATUS_START 1) = 1 ∧ reaches .pf R.CHM_PROF_REQ normal = true ∧ reaches .pf R.CHM_DVFS normal = true ∧
    answers .pf R.CHM_OVR State.reset = false ∧ answers .pf R.CHM_DVFS State.reset = false ∧ answers .pf R.CHM_PROF_REQ State.reset = false := by
  unfold mayStep; decide +kernel

/-! ### ThrottleFollowsSensors -/

/-- A throttle in a phase with its points, cool since 0. -/
def throttling (phase nv cl : Nat) : State :=
  { chmAt 0 0 0 with bel := { dnc := 10000000 }, chm := { (chmAt 0 0 0).chm with thr := { phase := phase, nv := nv, cl := cl, cool := some 0, thermal := phase == 1 } } }
def temps24 (n : Nat) : List (BitVec 12) := List.replicate 5 7 ++ [BitVec.ofNat 12 n, BitVec.ofNat 12 n] ++ List.replicate 17 8
theorem witness_ThrottleFollowsSensors : (chmAt 0 0 0).chm.held = false ∧ (temps24 400).length = 24 ∧ (throttling 1 3 1).chm.thr.thermal = true ∧
    basePoint (throttling 2 3 1) true = 0 ∧ basePoint (throttling 2 1 0) false = 0 ∧ (chmAt 0 0 0).fld R.CHM_THR F.CHM_THR_HOT = 100 := by decide +kernel

/-! ### DncCountsTicks -/

theorem witness_DncCountsTicks : Sound normal ∧ normal.chm.held = false ∧ heldState.chm.held = true := ⟨normal_sound, rfl, rfl⟩

/-! ### TimeBelongsToItsOwner -/

theorem witness_TimeBelongsToItsOwner : notOwner .chf normal ∧ answers .chf R.BEL_STATUS normal = true ∧
    notOwner .pf (normal.setReg R.BEL_CTL 1) ∧ answers .pf R.BEL_STATUS (normal.setReg R.BEL_CTL 1) = true := by unfold notOwner; decide +kernel

/-! ### TwinNeedsItsStrap -/

theorem witness_TwinNeedsItsStrap : reaches .pf R.CRY_TWIN_CTL normal = true ∧ twinStrap normal = false ∧ twinState normal = 0 ∧
    heldState.chm.held = true ∧ twinStrap (twinAt 0 true) = true ∧ (partnerPort (twinAt 0 true)).isSome = true ∧ (twinAt 0 true).cry.early = none := by decide +kernel

/-! ### DncIsReadInHalves -/

theorem witness_DncIsReadInHalves : answers (.vf 15) (belOff (.vf 15) R.BEL_DNC_LO) normal = true ∧ answers .chf (belOff .chf R.BEL_DNC_HI) normal = true ∧
    snapOf normal 17 = snapOf normal 17 := by decide +kernel

end
end

/-! Two statements leave the number of a tile without a bound. The device has tiles 0 to 31, while a `State` names a tile by any natural
number and the statements ask nothing of it. Each is refuted at a number past 31, in a sound state that meets every hypothesis and that
no run of the device reaches: every command that places an item or notes PRE_REQ names a tile of the 32. -/

namespace Sys2Proof.Machine

section
-- As in the tests: each `decide +kernel` waits for the kernel, and all of them at once would need a thread each.
set_option Elab.async false

/-! ### An item on a tile past the last -/

/-- A non-speculative item that holds no shadow block, on tile 112: NAV_STAT of that number lies at the offset of FWL_STAT. -/
def itemOn112 : FwItem := { idx := 0, ent := [], state := .nonspec, tile := some 112 }

/-- The slot of epoch 0 with that item alone. -/
def slotOn112 : FwSlot := { epoch := 0, dnc := 0, sec := 0, slot := 0, header := [], stages := [], items := [itemOn112] }

/-- A NORMAL device with that slot in flight in cell 0, and two shadow blocks in use: as a tile's state, 2 reads BUSY. -/
def blocksReadAsBusy : State :=
  { regs := [(R.GLB_STATUS, 0), (R.FWL_STAT, 2)], fwl := [(0, { slots := [slotOn112] })], host := { link := true } }

/-- Asking `Sound s` would not save the statement. -/
theorem blocksReadAsBusy_sound : Sound blocksReadAsBusy :=
  ⟨belSt_ok_zero, by decide +kernel, by decide, by decide⟩

/-- Setting the item's tile from BUSY to IDLE takes the blocks in use from 2 to 1. -/
theorem itemFinal_blocksReadAsBusy_used :
    (itemFinal 0 0 0 [] [] [] blocksReadAsBusy).fld R.FWL_STAT F.FWL_STAT_USED = 1 := by decide +kernel

/-- Refutes O28, in its clause that the end of an item lowers FWL_STAT.USED by the item's blocks: the item of `blocksReadAsBusy` holds
none, and USED falls from 2 to 1. -/
theorem not_slotItemsEnd : ¬ Obligations.SlotItemsEnd := by
  intro ⟨ends, _⟩
  obtain ⟨t, _, hrun, _, _, _, hused, _⟩ := ends 0 0 0 [] [] [] slotOn112 itemOn112 blocksReadAsBusy
    (by decide +kernel) (by decide +kernel) (.inl rfl) (by decide +kernel)
  rw [exec_itemFinal, execItemFinal, Host.Outcome.next.injEq] at hrun
  subst hrun
  have hkept : 1 = 2 - itemOn112.blocks := itemFinal_blocksReadAsBusy_used.symm.trans hused
  exact absurd hkept (by decide)

/-! ### A tile past the last that PRE_REQ holds -/

/-- Releasing tile `t` where PRE_REQ holds it clears the note there and nowhere else. -/
theorem tile_release_held (s : State) (t i : Nat) :
    (if (s.tile t).preHeld then s.setTile t { s.tile t with preHeld := false } else s).tile i =
      if i = t then { s.tile i with preHeld := false } else s.tile i := by
  by_cases hi : i = t
  · subst hi
    cases hp : (s.tile i).preHeld
    · rw [if_neg Bool.false_ne_true, if_pos rfl, ← hp]
    · simp [State.tile, State.setTile]
  · split <;> simp [State.tile, State.setTile, Tab.get_set_other, hi]

theorem tile_foldl_release_held (l : List Nat) (s : State) (i : Nat) :
    (l.foldl (fun s t => if (s.tile t).preHeld then s.setTile t { s.tile t with preHeld := false } else s) s).tile i =
      if i ∈ l then { s.tile i with preHeld := false } else s.tile i := by
  induction l generalizing s with
  | nil => simp
  | cons t l ih =>
    rw [List.foldl_cons, ih, tile_release_held]
    by_cases ht : i = t <;> by_cases hl : i ∈ l <;> simp [ht, hl]

/-- The Nave's part of R527: every tile of the device is released, a number past the last reads as before. -/
theorem basicNave_tile (s : State) (i : Nat) :
    (basicNave s).tile i = if i < 32 then { s.tile i with preHeld := false } else s.tile i := by
  simp [basicNave, tile_foldl_release_held]

/-- A NORMAL device with the Nave's expert control open and PRE_REQ noted on tile 32. -/
def heldPastLastTile : State :=
  { regs := [(R.GLB_STATUS, 0), (R.GLB_EXPERT, 0x10)], nav := [(32, { preHeld := true })], host := { link := true } }

/-- Asking `Sound s` would not save the statement. -/
theorem heldPastLastTile_sound : Sound heldPastLastTile :=
  ⟨belSt_ok_zero, by decide +kernel, by decide, by decide⟩

/-- Closing the Nave's expert control there stores GLB_EXPERT and does the Nave's part of R527, no more. -/
theorem writeExpert_heldPastLastTile :
    writeExpert .pf 0 heldPastLastTile = basicNave { heldPastLastTile with regs := [(R.GLB_STATUS, 0)] } := by decide +kernel

/-- Refutes O44, in its clause that clearing the Nave's bit of GLB_EXPERT leaves no number of a tile held by PRE_REQ: tile 32 of
`heldPastLastTile` stays held. With the bound `i < 32` the clause holds, by `basicNave_tile`. -/
theorem not_registerWrites : ¬ Obligations.RegisterWrites := by
  intro ⟨_, _, _, clears⟩
  obtain ⟨t, hrun, _, _, _, hnave, _⟩ := clears .pf 0 4 heldPastLastTile (by decide +kernel) (by decide)
    (by unfold clearsExpert; decide +kernel) (by unfold clearsExpert; decide +kernel) (by decide +kernel)
  rw [exec_glbExpertWrite, execGlbExpertWrite, Host.Outcome.next.injEq] at hrun
  subst hrun
  have hfree : ((writeExpert .pf 0 heldPastLastTile).tile 32).preHeld = false := hnave rfl 32
  rw [writeExpert_heldPastLastTile, basicNave_tile] at hfree
  exact absurd hfree (by decide)

end
end Sys2Proof.Machine

/-! PlansAndAdmission frames the end of a validation by the registers, the cells and the translations alone. The validation reads the
plan through its translations, and a read whose cached translation is no longer current draws a free value (R276, log 48): the count
of values drawn rises, which the frame leaves out. The device comes into such a state when a page of the plan loses its write
permission and the page's translation is not yet invalidated. -/

namespace Sys2Proof.Machine

section
-- As in the tests: each `decide +kernel` waits for the kernel, and all of them at once would need a thread each.
set_option Elab.async false

/-! ### Reads -/

/-- An outcome of success is read off as an option, whose values can be compared. -/
theorem eq_ok_of_toOption {ε α : Type} {o : Except ε α} {a : α} (h : o.toOption = some a) : o = .ok a := by
  cases o with
  | error e => exact nomatch h
  | ok x => exact congrArg Except.ok (Option.some.inj h)

theorem pair_eq_ok_of_toOption {ε α : Type} {r : State × Except ε α} {s : State} {a : α} (hstate : r.1 = s)
    (hval : r.2.toOption = some a) : r = (s, .ok a) :=
  Prod.ext hstate (eq_ok_of_toOption hval)

/-- R276: past a cached translation that is no longer current, an access draws and uses the new translation or the old one. -/
theorem lookup_of_stale {space va : Nat} {s : State} {e : TlbEnt} (hhit : (s.tlbOf space).find? (tlbHit va) = some e)
    (hstale : tlbCurrent s e = false) :
    lookup space va s = walkIn space va ((s.tlbOf space).filter (· != e)) s.draw.2 ∨
      lookup space va s = (s.draw.2.setTlb space (e :: (s.tlbOf space).filter (· != e)), .ok e) := by
  cases hnew : Config.newWalk s.draw.1
  · right; simp [lookup, hhit, hstale, hnew]
  · left; simp [lookup, hhit, hstale, hnew]

theorem pageRead_of_lookup {space va n a : Nat} {s s1 : State} {e : TlbEnt} (hon : s.flag R.MMU_CTL F.MMU_CTL_EN = true)
    (hlook : lookup space (va % 2 ^ 48) s = (s1, .ok e)) (hpage : pageCheck s1 space e (va % 2 ^ 48) n false = .ok a)
    (hdev : e.host = false) : pageRead space va n s = (s1, physRead s1 a n) := by
  simp [-Nat.reducePow, pageRead, translate, hon, hlook, hpage, hdev]

theorem vaRead_of_pageRead {space va n : Nat} {s s1 : State} {bs : List Byte} (hpos : n ≠ 0) (hleft : n ≤ pageLeft va)
    (hread : pageRead space va n s = (s1, .ok bs)) : vaRead space va n s = (s1, .ok bs) := by
  have hmin : Nat.min n (pageLeft va) = n := Nat.min_eq_left hleft
  simp [vaRead, vaReadFrom, hpos, hmin, hread]

/-! ### Plans -/

theorem readPlan_of_reads {c addr : Nat} {s s1 s2 : State} {h t : List Byte} (haddr : addr % 64 = 0)
    (hhead : vaRead 16 addr 64 s = (s1, .ok h)) (hok : planHeaderOk h c = true)
    (htable : vaRead 16 (plStageAddr h) (32 * plStages h) s1 = (s2, .ok t))
    (hstages : ((List.range (plStages h)).map fun i => (t.drop (32 * i)).take 32).all stageOk = true) :
    readPlan c addr s = (s2, some (h, (List.range (plStages h)).map fun i => (t.drop (32 * i)).take 32)) := by
  simp only [readPlan, haddr, ne_eq, not_true_eq_false, if_false, hhead, hok, Bool.not_true, Bool.false_eq_true, htable, hstages, if_true]

theorem foldl_free {α : Type} {f : State → α → State} (hf : ∀ s x, (f s x).free = s.free) (l : List α) (s : State) :
    (l.foldl f s).free = s.free := by
  induction l generalizing s with
  | nil => rfl
  | cons x l ih => rw [List.foldl_cons, ih, hf]

theorem armCores_free (e : List Byte) (s : State) : (armCores e s).free = s.free := by
  unfold armCores
  split
  · exact foldl_free (fun s c => by split <;> simp) _ _
  · rfl

/-- A validation that ends well has drawn what reading the plan drew. -/
theorem planValidationEnd_free_of_readPlan {c addr : Nat} {s s1 : State} {p : List Byte × List (List Byte)}
    (harm : (s.cell c).arm = some (addr, false)) (hread : readPlan c addr s = (s1, some p)) :
    (planValidationEnd c false s).free = s1.free := by
  simp [planValidationEnd, harm, hread, foldl_free fun s e => armCores_free e s]

/-! ### A plan's page whose entry has changed -/

/-- The translation of page `i` of 2 MiB to physical address 0: readable, and writable as `w` says. The tables of levels 0, 1 and 2 are
one table at physical address 0, whose entry 0 names the table itself. -/
def pageEnt (i : Nat) (w : Bool) : TlbEnt :=
  { va := 2 ^ 21 * i, bits := 21, pa := 0, r := true, w := w, host := false, noalloc := false,
    used := [(8 * i, 7 + 8 * w.toNat), (0, 1), (0, 1)] }

/-- Cell 0 has a plan armed at 0x201000 of pages 1 and 2, both of which the tables now make readable only; page 2, which holds the
stage table at 0x401040, was writable when its translation was cached. -/
def pageChanged : State :=
  { regs := [(R.GLB_STATUS, 0), (R.MMU_CTL, 1)], mem := { tlb := [(16, [pageEnt 2 true])] },
    hbm := [(0, 1), (8, 7), (16, 7), (0x1000, 1), (0x1003, 1), (0x1008, 0x40), (0x1009, 0x10), (0x100A, 0x40)],
    fwl := [(0, { arm := some (0x201000, false) })], host := { link := true } }

/-- Asking `Sound s` would not save the statement. -/
theorem pageChanged_sound : Sound pageChanged :=
  ⟨belSt_ok_zero, by decide +kernel, by decide, by decide⟩

/-- The plan's header: one stage, no item. -/
def changedHeader : List Byte := pageChanged.hbm.read 0x1000 64

/-- The header is read, by a walk that caches page 1. -/
def headerRead : State := pageChanged.setTlb 16 [pageEnt 1 false, pageEnt 2 true]

/-- The stage table is read as well, by page 2 with the permission `w`. -/
def stagesRead (w : Bool) : State := headerRead.draw.2.setTlb 16 [pageEnt 2 w, pageEnt 1 false]

theorem vaRead_changedHeader : vaRead 16 0x201000 64 pageChanged = (headerRead, .ok changedHeader) :=
  pair_eq_ok_of_toOption (by decide +kernel) (by decide +kernel)

/-- The cached translation of page 2 was writable, a walk finds it readable only. -/
theorem lookup_headerRead : ∃ w, lookup 16 (0x401040 % 2 ^ 48) headerRead = (stagesRead w, .ok (pageEnt 2 w)) := by
  rcases lookup_of_stale (show (headerRead.tlbOf 16).find? (tlbHit (0x401040 % 2 ^ 48)) = some (pageEnt 2 true) by decide +kernel)
    (by decide +kernel) with hwalk | hold
  · exact ⟨false, hwalk.trans (pair_eq_ok_of_toOption (by decide +kernel) (by decide +kernel))⟩
  · exact ⟨true, hold.trans (pair_eq_ok_of_toOption (by decide +kernel) rfl)⟩

/-- Either way the stage table reads as one stage of zeros. -/
theorem vaRead_changedStages : ∃ w, vaRead 16 0x401040 32 headerRead = (stagesRead w, .ok (List.replicate 32 0)) := by
  obtain ⟨w, hlook⟩ := lookup_headerRead
  have hpage : pageCheck (stagesRead w) 16 (pageEnt 2 w) (0x401040 % 2 ^ 48) 32 false = .ok 0x1040 :=
    eq_ok_of_toOption (by cases w <;> decide +kernel)
  have hbytes : physRead (stagesRead w) 0x1040 32 = .ok (List.replicate 32 0) :=
    eq_ok_of_toOption (by cases w <;> decide +kernel)
  exact ⟨w, vaRead_of_pageRead (by decide) (by decide) (hbytes ▸ pageRead_of_lookup (by decide +kernel) hlook hpage rfl)⟩

theorem readPlan_pageChanged : ∃ w, readPlan 0 0x201000 pageChanged = (stagesRead w, some (changedHeader, [List.replicate 32 0])) := by
  obtain ⟨w, htable⟩ := vaRead_changedStages
  exact ⟨w, readPlan_of_reads (by decide) vaRead_changedHeader (by decide +kernel) htable (by decide +kernel)⟩

/-- Refutes O26, in its clause that a validation that ends well changes registers, cells and translations alone: on `pageChanged` the
read of the stage table has drawn a free value, so `free` rises from 0 to 1. -/
theorem not_plansAndAdmission : ¬ Obligations.PlansAndAdmission := by
  intro ⟨_, validates, _⟩
  have harm : (pageChanged.cell 0).arm = some (0x201000, false) := by decide +kernel
  obtain ⟨w, hread⟩ := readPlan_pageChanged
  obtain ⟨t, hrun, hframe, _⟩ := validates 0 0x201000 pageChanged (stagesRead w) changedHeader [List.replicate 32 0] harm hread
  rw [exec_planValidationEnd, execPlanValidationEnd, Host.Outcome.next.injEq] at hrun
  have hkept : t.free = 0 := congrArg State.free hframe
  have hdrawn : t.free = 1 := hrun ▸ planValidationEnd_free_of_readPlan harm hread
  exact absurd (hkept.symm.trans hdrawn) (by decide)

end
end Sys2Proof.Machine

/-! PredictionsAndCommit. Every command of this part edits one live item, gives its blocks back and counts its fate: one rule says what
an edit of an item leaves of the items, one what the operations leave of the registers, and each clause of the statement joins them. -/

namespace Sys2Proof.Machine

section

/-! ### Editing one item of a cell -/

/-- Changing the elements of one key, and not their keys, changes what a search finds under that key alone. -/
theorem find?_map_of_key {α : Type} (key : α → Nat) {f : α → α} (hf : ∀ x, key (f x) = key x) (l : List α) (k j : Nat) :
    (l.map fun x => if key x = k then f x else x).find? (key · == j) =
      if j = k then (l.find? (key · == k)).map f else l.find? (key · == j) := by
  have hkeys : (key · == j) ∘ (fun x => if key x = k then f x else x) = (key · == j) := by
    funext x
    by_cases hx : key x = k
    · simp only [Function.comp_apply, if_pos hx, hf]
    · simp only [Function.comp_apply, if_neg hx]
  have hfound (x : α) (hx : l.find? (key · == j) = some x) : key x = j := by
    simpa only [beq_iff_eq] using List.find?_some hx
  rw [List.find?_map, hkeys]
  by_cases hj : j = k
  · subst hj
    rw [if_pos rfl]
    exact Option.map_congr fun x hx => if_pos (hfound x hx)
  · rw [if_neg hj]
    have hother (x : α) (hx : l.find? (key · == j) = some x) : (if key x = k then f x else x) = id x :=
      if_neg fun hk => hj ((hfound x hx).symm.trans hk)
    exact (Option.map_congr hother).trans (congrFun Option.map_id _)

theorem cell_updSlot (c e c' : Nat) (f : FwSlot → FwSlot) (s : State) :
    (updSlot c e f s).cell c' =
      if c' = c then { s.cell c with slots := (s.cell c).slots.map fun y => if y.epoch = e then f y else y } else s.cell c' :=
  Tab.get_set (fun _ => ({} : FwCell)) s.fwl c _ c'

theorem slotOf_updSlot {f : FwSlot → FwSlot} (hf : ∀ y, (f y).epoch = y.epoch) (c e c' e' : Nat) (s : State) :
    slotOf (updSlot c e f s) c' e' = if c' = c ∧ e' = e then (slotOf s c e).map f else slotOf s c' e' := by
  unfold slotOf
  rw [cell_updSlot]
  by_cases hc : c' = c
  · subst hc; simp [find?_map_of_key FwSlot.epoch hf]
  · simp [hc]

/-- A slot with one of its items changed. -/
def FwSlot.edit (i : Nat) (f : FwItem → FwItem) (y : FwSlot) : FwSlot :=
  { y with items := y.items.map fun x => if x.idx = i then f x else x }

theorem FwSlot.item_edit {f : FwItem → FwItem} (hf : ∀ x, (f x).idx = x.idx) (y : FwSlot) (i i' : Nat) :
    (y.edit i f).item i' = if i' = i then (y.item i).map f else y.item i' :=
  find?_map_of_key FwItem.idx hf y.items i i'

theorem slotOf_updFw (c e i c' e' : Nat) (f : FwItem → FwItem) (s : State) :
    slotOf (updFw c e i f s) c' e' = if c' = c ∧ e' = e then (slotOf s c e).map (FwSlot.edit i f) else slotOf s c' e' :=
  slotOf_updSlot (f := FwSlot.edit i f) (fun _ => rfl) c e c' e' s

theorem liveItem_eq_some_iff {s : State} {c e i : Nat} {it : FwItem} :
    liveItem s c e i = some it ↔ ∃ y, slotOf s c e = some y ∧ y.item i = some it ∧ fwLive it = true := by
  unfold liveItem
  cases hslot : slotOf s c e with
  | none => simp
  | some y =>
    cases hitem : y.item i with
    | none => simp [hitem]
    | some x =>
      by_cases hx : fwLive x = true
      · simp only [hx, if_true, Option.some.injEq, exists_eq_left', hitem]
        exact ⟨fun h => ⟨h, h ▸ hx⟩, And.left⟩
      · simp only [hx, Bool.false_eq_true, if_false, reduceCtorEq, Option.some.injEq, exists_eq_left', hitem, false_iff]
        exact fun h => hx (h.1 ▸ h.2)

theorem idx_of_liveItem {s : State} {c e i : Nat} {it : FwItem} (h : liveItem s c e i = some it) : it.idx = i := by
  obtain ⟨_, _, hitem, _⟩ := liveItem_eq_some_iff.mp h
  simpa using List.find?_some hitem

theorem fwLive_of_liveItem {s : State} {c e i : Nat} {it : FwItem} (h : liveItem s c e i = some it) : fwLive it = true := by
  obtain ⟨_, _, _, hlive⟩ := liveItem_eq_some_iff.mp h
  exact hlive

theorem liveItem_congr {s t : State} (h : t.fwl = s.fwl) (c e i : Nat) : liveItem t c e i = liveItem s c e i := by
  simp only [liveItem, slotOf, State.cell, h]

/-- From `s` to `t` one live item becomes `it`, and no other changes. -/
structure ItemBecomes (c e i : Nat) (it : FwItem) (s t : State) : Prop where
  item   : liveItem t c e i = some it
  others : otherItems c e i s t

theorem ItemBecomes.trans {c e i : Nat} {x y : FwItem} {s t u : State} (h : ItemBecomes c e i x s t) (k : ItemBecomes c e i y t u) :
    ItemBecomes c e i y s u :=
  ⟨k.item, fun c' e' i' hne => (k.others c' e' i' hne).trans (h.others c' e' i' hne)⟩

/-- What follows the edit of an item may change all but the cells. -/
theorem ItemBecomes.of_fwl_eq {c e i : Nat} {it : FwItem} {s t u : State} (h : ItemBecomes c e i it s t) (hu : u.fwl = t.fwl) :
    ItemBecomes c e i it s u :=
  ⟨(liveItem_congr hu c e i).trans h.item, fun c' e' i' hne => (liveItem_congr hu c' e' i').trans (h.others c' e' i' hne)⟩

/-- The rule of an edit: it keeps the item's number and does not end it. -/
theorem updFw_itemBecomes {s : State} {c e i : Nat} {it : FwItem} {f : FwItem → FwItem} (h : liveItem s c e i = some it)
    (hidx : ∀ x, (f x).idx = x.idx) (hlive : fwLive (f it) = true) : ItemBecomes c e i (f it) s (updFw c e i f s) := by
  constructor
  · obtain ⟨y, hslot, hitem, _⟩ := liveItem_eq_some_iff.mp h
    exact liveItem_eq_some_iff.mpr ⟨y.edit i f, by simp [slotOf_updFw, hslot], by simp [FwSlot.item_edit hidx, hitem], hlive⟩
  · intro c' e' i' hne
    unfold liveItem
    rw [slotOf_updFw]
    by_cases hce : c' = c ∧ e' = e
    · obtain ⟨rfl, rfl⟩ := hce
      have hi : i' ≠ i := by simpa using hne
      cases slotOf s c' e' <;> simp [FwSlot.item_edit hidx, hi]
    · rw [if_neg hce]

@[simp] theorem reg_updFw (c e i : Nat) (f : FwItem → FwItem) (s : State) (o : Nat) : (updFw c e i f s).reg o = s.reg o := rfl

/-! ### Blocks and counters -/

theorem freeBlocks_itemBecomes {s : State} {c e i : Nat} {it x : FwItem} (h : liveItem s c e i = some x) (hidx : it.idx = i) :
    ItemBecomes c e i { x with blocks := 0 } s (freeBlocks c e it s) := by
  subst hidx
  have hlive : fwLive { x with blocks := 0 } = true := fwLive_of_liveItem (it := x) h
  have hstat : liveItem (s.setFld R.FWL_STAT F.FWL_STAT_USED (s.fld R.FWL_STAT F.FWL_STAT_USED - it.blocks)) c e it.idx = some x := h
  obtain ⟨hitem, hothers⟩ := updFw_itemBecomes (f := fun x => { x with blocks := 0 }) hstat (fun _ => rfl) hlive
  exact ⟨hitem, hothers⟩

@[simp] theorem reg_freeBlocks (c e : Nat) (it : FwItem) (s : State) (o : Nat) :
    (freeBlocks c e it s).reg o = if o = R.FWL_STAT then statLess s it.blocks else s.reg o :=
  State.reg_setFld s R.FWL_STAT o F.FWL_STAT_USED _

theorem put_whole (w : Word) (n : Nat) : Fld.put ⟨31, 0⟩ w n = BitVec.ofNat 32 n := by
  refine BitVec.eq_of_getLsbD_eq fun i hi => ?_
  rw [Fld.getLsbD_put ⟨31, 0⟩ w n i (by decide) hi, if_pos ⟨Nat.zero_le i, Nat.le_of_lt_succ hi⟩, BitVec.getLsbD_ofNat]
  simp [hi]

/-- A counter that has its register to itself counts up by one, modulo 2^32. -/
theorem put_get_succ_whole (w : Word) : Fld.put ⟨31, 0⟩ w (Fld.get ⟨31, 0⟩ w + 1) = w + 1 := by
  rw [put_whole, Fld.get, bitsOf]
  bv_omega

/-- The common part of a commit, a replay and giving up: the blocks go back, the item changes by `f`, its counter counts. -/
def releaseItem (c e off : Nat) (f : FwItem → FwItem) (it : FwItem) (s : State) : State :=
  (updFw c e it.idx f (freeBlocks c e it s)).addWrap off ⟨31, 0⟩ 1

/-- From `s` to `t` item `i` becomes `it`, `n` blocks go back to the pool and the counter `off` counts one; nothing else changes. -/
structure Released (c e i off n : Nat) (it : FwItem) (s t : State) : Prop where
  frame   : t = { s with regs := t.regs, fwl := t.fwl }
  becomes : ItemBecomes c e i it s t
  regs    : RegsBut [R.FWL_STAT, off] s t
  stat    : t.reg R.FWL_STAT = statLess s n
  count   : t.reg off = s.reg off + 1

theorem reg_releaseItem {c e off : Nat} (hoff : off ≠ R.FWL_STAT) (f : FwItem → FwItem) (it : FwItem) (s : State) (o : Nat) :
    (releaseItem c e off f it s).reg o =
      if o = off then s.reg off + 1 else if o = R.FWL_STAT then statLess s it.blocks else s.reg o := by
  unfold releaseItem
  simp only [State.reg_addWrap, State.fld, reg_updFw, reg_freeBlocks, if_neg hoff, put_get_succ_whole]

/-- `x` is the item as it stands, `it` as it was when its number and its blocks were read. -/
theorem releaseItem_released {s : State} {c e i off : Nat} {it x : FwItem} {f : FwItem → FwItem} (h : liveItem s c e i = some x)
    (hi : it.idx = i) (hoff : off ≠ R.FWL_STAT) (hidx : ∀ x, (f x).idx = x.idx) (hlive : fwLive (f { x with blocks := 0 }) = true) :
    Released c e i off it.blocks (f { x with blocks := 0 }) s (releaseItem c e off f it s) where
  frame := rfl
  becomes := by
    subst hi
    have hfree := freeBlocks_itemBecomes h rfl
    exact (hfree.trans (updFw_itemBecomes hfree.item hidx hlive)).of_fwl_eq rfl
  regs o ho := by
    obtain ⟨hstat, hcount⟩ : o ≠ R.FWL_STAT ∧ o ≠ off := by simpa using ho
    rw [reg_releaseItem hoff, if_neg hcount, if_neg hstat]
  stat := by rw [reg_releaseItem hoff, if_neg hoff.symm, if_pos rfl]
  count := by rw [reg_releaseItem hoff, if_pos rfl]

theorem cntCommit_ne_stat (c : Nat) : R.FWL_CELL_CNT_COMMIT c ≠ R.FWL_STAT := by unfold R.FWL_CELL_CNT_COMMIT R.FWL_STAT; omega
theorem cntReplay_ne_stat (c : Nat) : R.FWL_CELL_CNT_REPLAY c ≠ R.FWL_STAT := by unfold R.FWL_CELL_CNT_REPLAY R.FWL_STAT; omega
theorem cntNospec_ne_stat (c : Nat) : R.FWL_CELL_CNT_NOSPEC c ≠ R.FWL_STAT := by unfold R.FWL_CELL_CNT_NOSPEC R.FWL_STAT; omega

/-! ### The commit test decided (R157, R162, R163, R165, R167) -/

/-- An item after its test: committed with its prediction `p`, or replaying. -/
def decidedItem (ok : Bool) (p m : List GridEl) (x : FwItem) : FwItem :=
  { x with state := if ok then .committed else .replaying, committed := ok, replayed := !ok, pred := if ok then some p else none,
           meas := some m, started := true }

theorem fwLive_decidedItem (ok : Bool) (p m : List GridEl) (x : FwItem) : fwLive (decidedItem ok p m x) = true := by
  cases ok <;> rfl

theorem settleItem_eq (c e : Nat) (it : FwItem) (p m : List GridEl) (s : State) :
    settleItem c e it p m s =
      releaseItem c e (if !it.force && commitTest p m it.thr then R.FWL_CELL_CNT_COMMIT c else R.FWL_CELL_CNT_REPLAY c)
        (decidedItem (!it.force && commitTest p m it.thr) p m) it s := by
  unfold settleItem
  cases !it.force && commitTest p m it.thr <;> rfl

theorem settleItem_settled {s : State} {c e i : Nat} {it : FwItem} (p m : List GridEl) (h : liveItem s c e i = some it) :
    settled c e i it p m s (settleItem c e it p m s) := by
  have released {off : Nat} (hoff : off ≠ R.FWL_STAT) (ok : Bool) :=
    releaseItem_released (f := decidedItem ok p m) h (idx_of_liveItem h) hoff (fun _ => rfl) (fwLive_decidedItem ok p m _)
  by_cases hok : it.force = false ∧ commitTest p m it.thr = true
  · have htest : (!it.force && commitTest p m it.thr) = true := by simp [hok]
    obtain ⟨hframe, ⟨hitem, hothers⟩, hregs, hstat, hcount⟩ := released (cntCommit_ne_stat c) true
    rw [settleItem_eq, htest, settled, if_pos hok]
    exact ⟨hframe, hothers, hstat, hitem, hregs, hcount⟩
  · have htest : (!it.force && commitTest p m it.thr) = false := by simpa using hok
    obtain ⟨hframe, ⟨hitem, hothers⟩, hregs, hstat, hcount⟩ := released (cntReplay_ne_stat c) false
    rw [settleItem_eq, htest, settled, if_neg hok]
    exact ⟨hframe, hothers, hstat, hitem, hregs, hcount⟩

/-! ### The prediction given up (R159) -/

theorem giveUp_released {s : State} {c e i : Nat} {it x : FwItem} (h : liveItem s c e i = some x) (hi : it.idx = i) :
    Released c e i (R.FWL_CELL_CNT_NOSPEC c) it.blocks { x with state := .nonspec, pred := none, blocks := 0 } s (giveUp c e it s) :=
  releaseItem_released (f := fun x => { x with state := .nonspec, pred := none }) h hi (cntNospec_ne_stat c) (fun _ => rfl) rfl

theorem predFault_hostOnly (c idx : Nat) (s : State) : HostOnly (s.setFlag R.FWL_ERR F.FWL_ERR_PRED_FAULT true) (predFault c idx s) :=
  event_hostOnly 0x0040 16 _ _

theorem predFault_frame (c idx : Nat) (s : State) :
    predFault c idx s =
      { s with regs := (predFault c idx s).regs, host := (predFault c idx s).host, hostMem := (predFault c idx s).hostMem,
               out := (predFault c idx s).out } :=
  (predFault_hostOnly c idx s).frame

theorem fwl_predFault (c idx : Nat) (s : State) : (predFault c idx s).fwl = s.fwl := by rw [predFault_frame]

theorem reg_predFault (c idx : Nat) (s : State) {o : Nat} (ho : outsidePages o) (herr : o ≠ R.FWL_ERR) :
    (predFault c idx s).reg o = s.reg o := by
  rw [(predFault_hostOnly c idx s).regs o ho, State.reg_setFlag_other _ _ _ _ _ herr]

theorem flag_predFault (c idx : Nat) (s : State) : (predFault c idx s).flag R.FWL_ERR F.FWL_ERR_PRED_FAULT = true := by
  have hreg := (predFault_hostOnly c idx s).regs R.FWL_ERR (by unfold outsidePages R.FWL_ERR; omega)
  have hset := State.flag_setFlag_same s R.FWL_ERR F.FWL_ERR_PRED_FAULT true (by decide) (by decide)
  rwa [State.flag, State.fld, ← hreg] at hset

/-! ### The three commands, by what stands at their item -/

theorem predictionLanded_of_awaited {s : State} {c e i : Nat} {it : FwItem} (grid : List GridEl) (h : liveItem s c e i = some it)
    (hst : it.state = .predict) (hm : it.meas = none) :
    predictionLanded c e i grid s = updFw c e i (fun x => { x with state := .speculating, pred := some grid, started := true }) s := by
  simp only [predictionLanded, h, hst, hm, if_true]

theorem predictionLanded_of_measured {s : State} {c e i : Nat} {it : FwItem} {m : List GridEl} (grid : List GridEl)
    (h : liveItem s c e i = some it) (hst : it.state = .predict) (hm : it.meas = some m) :
    predictionLanded c e i grid s = settleItem c e it grid m s := by
  simp only [predictionLanded, h, hst, hm, if_true]

theorem predictionLanded_of_unawaited {s : State} {c e i : Nat} (grid : List GridEl)
    (h : ∀ it, liveItem s c e i = some it → it.state ≠ .predict) : predictionLanded c e i grid s = s := by
  unfold predictionLanded
  cases hlive : liveItem s c e i with
  | none => rfl
  | some it => exact if_neg (h it hlive)

theorem predictionFault_of_awaited {s : State} {c e i : Nat} {it : FwItem} (h : liveItem s c e i = some it) (hst : it.state = .predict) :
    predictionFault c e i s = predFault c i (giveUp c e it s) := by
  simp only [predictionFault, h, hst, if_true]

theorem predictionFault_of_unawaited {s : State} {c e i : Nat} (h : ∀ it, liveItem s c e i = some it → it.state ≠ .predict) :
    predictionFault c e i s = s := by
  unfold predictionFault
  cases hlive : liveItem s c e i with
  | none => rfl
  | some it => exact if_neg (h it hlive)

/-- An item that keeps the estimate that came for it. -/
def measuredItem (grid : List GridEl) (x : FwItem) : FwItem := { x with meas := some grid, started := true }

theorem updFw_measured {s : State} {c e i : Nat} {it : FwItem} (grid : List GridEl) (h : liveItem s c e i = some it) :
    ItemBecomes c e i (measuredItem grid it) s (updFw c e i (measuredItem grid) s) :=
  updFw_itemBecomes h (fun _ => rfl) (fwLive_of_liveItem (it := it) h)

theorem estimateReady_of_speculating {s : State} {c e i : Nat} {it : FwItem} {p : List GridEl} (grid : List GridEl)
    (h : liveItem s c e i = some it) (hst : it.state = .speculating) (hp : it.pred = some p) :
    estimateReady c e i grid s = settleItem c e it p grid s := by
  simp only [estimateReady, h, hst, hp]

theorem estimateReady_of_predict {s : State} {c e i : Nat} {it : FwItem} (grid : List GridEl) (h : liveItem s c e i = some it)
    (hst : it.state = .predict) :
    estimateReady c e i grid s =
      if twinRunning s then updFw c e i (measuredItem grid) s else giveUp c e it (updFw c e i (measuredItem grid) s) := by
  simp only [estimateReady, h, hst]
  rfl

/-- An estimate that neither a prediction nor its absence awaits stays with its item. -/
theorem estimateReady_of_other {s : State} {c e i : Nat} {it : FwItem} (grid : List GridEl) (h : liveItem s c e i = some it)
    (hst : it.state ≠ .predict) (hp : it.state = .speculating → it.pred = none) :
    estimateReady c e i grid s = updFw c e i (measuredItem grid) s := by
  simp only [estimateReady, h]
  split
  · next hspec hsome => simp [hp hspec] at hsome
  · next hpredict => exact absurd hpredict hst
  · rfl

theorem estimateReady_of_none {s : State} {c e i : Nat} (grid : List GridEl) (h : liveItem s c e i = none) :
    estimateReady c e i grid s = s := by
  simp only [estimateReady, h]

/-! ### The statement -/

/-- Settles O27: each clause is the equation of its command at the item that stands there, and the rule of the edit it makes. -/
theorem predictionsAndCommit : Obligations.PredictionsAndCommit := by
  refine ⟨?lands, ?landsMeasured, ?unawaited, ?tested, ?early, ?kept, ?noItem, ?fault⟩
  case lands =>
    intro c e i grid it s h hst hm
    obtain ⟨hitem, hothers⟩ := updFw_itemBecomes (f := fun x => { x with state := .speculating, pred := some grid, started := true })
      h (fun _ => rfl) rfl
    exact ⟨_, congrArg Host.Outcome.next (predictionLanded_of_awaited grid h hst hm), rfl, hothers, hitem⟩
  case landsMeasured =>
    intro c e i grid m it s h hst hm
    exact ⟨_, congrArg Host.Outcome.next (predictionLanded_of_measured grid h hst hm), settleItem_settled grid m h⟩
  case unawaited =>
    intro c e i grid s h
    exact ⟨congrArg Host.Outcome.next (predictionLanded_of_unawaited grid h), congrArg Host.Outcome.next (predictionFault_of_unawaited h)⟩
  case tested =>
    intro c e i grid p it s h hst hp
    exact ⟨_, congrArg Host.Outcome.next (estimateReady_of_speculating grid h hst hp), settleItem_settled p grid h⟩
  case early =>
    intro c e i grid it s h hst htwin
    have hmeas := updFw_measured grid h
    obtain ⟨hframe, hbecomes, hregs, hstat, hcount⟩ := giveUp_released hmeas.item (idx_of_liveItem h)
    obtain ⟨hitem, hothers⟩ := hmeas.trans hbecomes
    refine ⟨_, congrArg Host.Outcome.next ((estimateReady_of_predict grid h hst).trans (if_neg (by simp [htwin]))), ?_⟩
    exact ⟨hframe, hothers, hitem, hregs, hstat, hcount⟩
  case kept =>
    intro c e i grid it s h hcase
    obtain ⟨hitem, hothers⟩ := updFw_measured grid h
    have heq : estimateReady c e.toNat i grid s = updFw c e.toNat i (measuredItem grid) s := by
      rcases hcase with ⟨hst, htwin⟩ | ⟨hst, hp⟩
      · rw [estimateReady_of_predict grid h hst, if_pos htwin]
      · exact estimateReady_of_other grid h hst hp
    exact ⟨_, congrArg Host.Outcome.next heq, rfl, hothers, hitem⟩
  case noItem =>
    intro c e i grid s h
    exact congrArg Host.Outcome.next (estimateReady_of_none grid h)
  case fault =>
    intro c e i it s h hst
    obtain ⟨hframe, hbecomes, hregs, hstat, hcount⟩ := giveUp_released h (idx_of_liveItem h)
    obtain ⟨hitem, hothers⟩ := hbecomes.of_fwl_eq (fwl_predFault c i (giveUp c e.toNat it s))
    refine ⟨_, congrArg Host.Outcome.next (predictionFault_of_awaited h hst), ?_, hothers, hitem, ?_, flag_predFault c i _, ?_, ?_⟩
    · rw [predFault_frame, hframe]
    · intro o hout hnot
      obtain ⟨hne, hnc, herr⟩ : o ≠ R.FWL_STAT ∧ o ≠ R.FWL_CELL_CNT_NOSPEC c ∧ o ≠ R.FWL_ERR := by simpa using hnot
      rw [reg_predFault _ _ _ hout herr, hregs o (by simp [hne, hnc])]
    · rw [reg_predFault _ _ _ (by unfold outsidePages R.FWL_STAT; omega) (by decide), hstat]
    · rw [reg_predFault _ _ _ (by unfold outsidePages R.FWL_CELL_CNT_NOSPEC; omega) (by unfold R.FWL_CELL_CNT_NOSPEC R.FWL_ERR; omega), hcount]

end
end Sys2Proof.Machine
